-- ==== Sys2Proof/Word.lean ====
section
/-! DEFINITION. The word types of the KD9-4096 and their plainest arithmetic (00 R3, R4; 03 R74). -/

namespace Sys2Proof

/-- A byte of memory. -/
abbrev Byte := BitVec 8

/-- A 32-bit register. -/
abbrev Word := BitVec 32

/-- A 64-bit register pair. -/
abbrev DWord := BitVec 64

/-- A 128-bit register quad. -/
abbrev QWord := BitVec 128

/-- The 64 bytes of one sector, byte 0 least significant (00 R4). -/
abbrev SecData := BitVec 512

end Sys2Proof
end

