-- ==== Sys2Proof/Config.lean ====
section
/-! DEFINITION. What an implementation fixes: the outcome of the cryptographic operations whose keys are in fuses
(22 R542, R544), and free values. -/

namespace Sys2Proof.Config

/-- Whether the boot ROM finds a firmware image authentic: RSA-3072 over SHA-256 with the fused key hash (R542). -/
opaque authentic : List Byte → Bool

/-- The signed answer of the firmware to an SPDM request: nonce and the measurement of image and fuses (R544). -/
opaque attest : List Byte → List Byte

/-- How far a matrix form in flight has come when a halt is accepted at a cclk, in products, or in cclk for an element-wise
form: the manual fixes no time of its issue (14 R369, R381; assumption log 11). -/
opaque matrixProgress : Nat → Nat

/-- The PC that the fault record of a resumed transfer or fix-up reports, by its next destination: the save keeps none
(11 R325, 15 R404; assumption log 12). -/
opaque resumedPc : Nat → Nat

/-- The stall counter that the engine of a row and unit advances in a cclk, by its index in the row, or no counter's: at most
one (01 R35). The causes of stalls in time are not modelled (assumption log 13). -/
opaque stallCause : Nat → Nat → Nat → Nat

/-- Whether an SC of a service core to the service memory finds its reservation, by the cclk: the reservation is the
core's own, whose instruction set the manual does not restate (21 R530, R531; assumption log 15). -/
opaque svcReserved : Nat → Bool

/-- Which of the free ways of a set a fill takes, by the cclk (06 R173; 10 R290; assumption log 18). -/
opaque freeWay : Nat → Nat

/-- The set of a cluster's TLB, modulo 512, that the entry of a page lies in, by ASID, first address and size (18 R450;
assumption log 19). -/
opaque tlbSet : Nat → Nat → Nat → Nat

/-- Which entry a full walk cache gives up, by the cclk (18 R450; assumption log 20). -/
opaque walkDrop : Nat → Nat

/-- Whether the upper half of a 128-bit load or store is performed first, by the cclk (06 R193, R194; assumption log 55). -/
opaque upperFirst : Nat → Bool

/-- By which of its routers an engine with several sends or receives a packet, by the cclk (01 R20; assumption log 33). -/
opaque attachPick : Nat → Nat

/-- The HBM capacity, in GiB, that another package reports, by its package ID (01 R31; assumption log 59). -/
opaque peerMem : Nat → Nat

/-- The packets queued at a station, by station and cclk (15 R388): the queues of the links are not modelled (assumption
log 60). -/
opaque queued : Nat → Nat → Nat

/-- Which of several messages that one event names alike arrives, by the cclk (01 R26; assumption log 33). -/
opaque netPick : Nat → Nat

end Sys2Proof.Config
end

