-- ==== Sys2Proof/Syntax.lean ====
section
/-! DEFINITION. The abstract syntax: operand codes, modifiers, and the one inductive of the steps of the part
(02 R43 to R57; 95: the table of operations and events). -/

namespace Sys2Proof

/-- An operand code of R51, resolved: V0-V127, S0-S63, P0-P7, an inline constant, LANEID or the immediate. -/
inductive Opnd where
  | v (n : BitVec 7)
  | s (n : BitVec 6)
  | p (n : BitVec 3)
  | k (n : BitVec 4)
  | lane
  | imm
  deriving DecidableEq, Repr

/-- The guard fields of R43 and R48. -/
structure Guard where
  gtt : BitVec 8
  ga : BitVec 3
  gb : BitVec 3
  gc : BitVec 3
  deriving DecidableEq, Repr

/-- The length of an instruction with the immediate, offset or register number its extension words hold (R45). -/
inductive Ext where
  | l64
  | l96 (x : BitVec 24)
  | l128 (x : BitVec 32)
  deriving DecidableEq, Repr

/-- What every SIMT form carries: its guard and its length with the extension field. -/
structure Hd where
  g : Guard
  ext : Ext
  deriving DecidableEq, Repr

/-- Integer type code IT (R54). -/
inductive ITy where
  | u32 | s32 | u16x2 | s16x2 | u8x4 | s8x4 | u64 | s64
  deriving DecidableEq, Repr

/-- The FF flags of R54, less SAT: negate and absolute value of A, B and C. -/
structure FF where
  na : Bool
  nb : Bool
  nc : Bool
  aa : Bool
  ab : Bool
  ac : Bool
  deriving DecidableEq, Repr

/-- The MOD field of the floating family (R44). -/
structure FMod where
  fzi : Bool
  fzo : Bool
  rnd : BitVec 3
  deriving DecidableEq, Repr

/-- Format codes (R54). -/
inductive Fmt where
  | fp32 | fp64 | fp16 | bf16 | e4m3 | e5m2 | e3m2 | e2m3 | e2m1 | e8m0
  | s32 | u32 | s64 | u64 | s16 | u16 | s8 | u8 | s4 | u4
  deriving DecidableEq, Repr

/-- Width codes WID (R54). -/
inductive Wid where
  | w8 | w16 | w32 | w64 | w128
  deriving DecidableEq, Repr

/-- Address spaces (R54). -/
inductive Spc where
  | g | s | w
  deriving DecidableEq, Repr

/-- Synchronisation scopes (R29, R54). -/
inductive Scp where
  | grp | blk | pkg | cell | pod | sys
  deriving DecidableEq, Repr

/-- Order codes ORD (R54). -/
inductive Ord where
  | none | acq | rel | ar
  deriving DecidableEq, Repr

/-- Atomic operations AOP (R195), with the CAS of FATOM (R396). -/
inductive Aop where
  | add | min | max | and | or | xor | exch | inc | dec | cas
  deriving DecidableEq, Repr

/-- Atomic types ATY (R54). -/
inductive Aty where
  | u32 | s32 | u64 | s64
  deriving DecidableEq, Repr

/-- Pair forms of R49. -/
inductive PairForm where
  | n | u | a | o
  deriving DecidableEq, Repr

/-- The compare destination field of R49. -/
structure PPair where
  pd : BitVec 3
  pe : BitVec 3
  pf : PairForm
  deriving DecidableEq, Repr

/-- Integer conditions ICC (R54). -/
inductive Icc where
  | eq | ne | lt | le | gt | ge
  deriving DecidableEq, Repr

/-- Floating conditions FCC (R54). -/
inductive Fcc where
  | eq | ne | lt | le | gt | ge | num | nan | equ | neu | ltu | leu | gtu | geu
  deriving DecidableEq, Repr

/-- SHFL modes (R141). -/
inductive ShflMode where
  | pick | cyc | slide | xor
  deriving DecidableEq, Repr

/-- REDUX operations (R144). -/
inductive ReduxOp where
  | add | min | max | and | or | xor
  deriving DecidableEq, Repr

/-- Floating combine operations of ATOMF and FRED. -/
inductive FOp3 where
  | add | min | max
  deriving DecidableEq, Repr

/-- DROP element types (R232). -/
inductive DropTy where
  | fp32 | fp16x2 | bf16x2
  deriving DecidableEq, Repr

/-- MX element formats of CVTMX (R226). -/
inductive MxElem where
  | e4m3 | e5m2 | e3m2 | e2m3 | e2m1 | s8
  deriving DecidableEq, Repr

/-- WAITMEM conditions (R480). -/
inductive WCond where
  | eq | ne | ge | lt
  deriving DecidableEq, Repr

/-- Message classes of the mesh (R22). -/
inductive MsgClass where
  | request | forward | response | data | writeback | bridge
  deriving DecidableEq, Repr

/-- A hem tag (R256), its VALID bit being the presence of the value. -/
structure HemTag where
  pkg : BitVec 10
  core : BitVec 8
  seq : BitVec 32
  lost : Bool
  deriving DecidableEq, Repr

/-- A sector's data with the hem tag and the poison bit that travel with it (R256, R261, R425). -/
structure SecVal where
  bytes : SecData
  tag : Option HemTag
  psn : Bool
  deriving DecidableEq, Repr

/-- What a request performed at a home does there (R385): the payload of a fabric request. The last two move the bytes of
one request of FPUT and FGET (R397). -/
inductive HomeOp where
  | read (pa : Nat)
  | write (pa : Nat) (mask : BitVec 64) (val : SecData)
  | atom (pa : Nat) (aop : Aop) (aty : Aty) (b c : DWord)
  | atomf (pa : Nat) (op : FOp3) (bf16 : Bool) (b : Word)
  | cas (pa : Nat) (nbytes : Nat) (cmp swap : QWord)
  | signal (pa : Nat) (add : Bool) (b : DWord)
  | reads (pa n : Nat)
  | writes (pa : Nat) (bs : List Byte)
  deriving DecidableEq, Repr

/-- How a request that left the package ended (R393, R409, R419). -/
inductive FabStatus where
  | ok
  | fault (code : BitVec 8)
  deriving DecidableEq, Repr

/-- What comes back for a request: a response, or that its target has abandoned the number (15 R392, R394). -/
inductive FabReply where
  | answer (st : FabStatus)
  | abandoned
  deriving DecidableEq, Repr

/-- Who asked for a publish (R263): a core of this package, a peer core, or a slice or cache step (R261). -/
inductive PubWho where
  | core (c : Nat)
  | peer (pkg core : Nat)
  | slice (sec : Nat)
  deriving DecidableEq, Repr

/-- Machine-check causes, an error in control state with the unit and instance that MGT_ECC_LOC names (R545). -/
inductive MchkCause where
  | control (unit : BitVec 4) (inst : BitVec 16)
  | ownCell | thermal | firmware
  deriving DecidableEq, Repr

/-- The read-modify-writes of the RISC-V AMOs (R531 rule 4): minu and maxu compare unsigned. -/
inductive Amo where
  | swap | add | xor | and | or | min | max | minu | maxu
  deriving DecidableEq, Repr

/-- Where a service core's access falls is found from its address (R531); this is what it asks. -/
inductive SvcOp where
  | read (nbytes : Nat)
  | write (nbytes : Nat) (v : DWord)
  | amo (f : Amo) (nbytes : Nat) (v : DWord)
  | sc (nbytes : Nat) (v : DWord)
  deriving DecidableEq, Repr

/-- The steps of the part: one constructor per row of the table of operations and events.
SIMT forms come first, then tile-stream forms, then the events of the engines. -/
inductive Instr where
  -- control, predicate and cross-lane forms (04)
  | nop (h : Hd)
  | bra (h : Hd)
  | brx (g : Guard) (a : Opnd)
  | call (h : Hd) (k : BitVec 7)
  | callx (g : Guard) (k : BitVec 7) (a : Opnd)
  | ret (g : Guard)
  | exit (g : Guard)
  | alloc (g : Guard) (n : BitVec 8) (l : BitVec 8)
  | plop (h : Hd) (d a b c : BitVec 3) (table : BitVec 8)
  | pmov (h : Hd) (d a : BitVec 3)
  | pmovNot (h : Hd) (d a : BitVec 3)
  | sel (h : Hd) (w64 : Bool) (d a b : Opnd) (sel : BitVec 3)
  | mov (h : Hd) (w : Wid) (d a : Opnd)
  | movi (h : Hd) (w64 : Bool) (d : Opnd)
  | shfl (h : Hd) (m : ShflMode) (seg : BitVec 3) (d a b : Opnd)
  | qswap (h : Hd) (m : BitVec 2) (d a : Opnd)
  | qbcast (h : Hd) (q : BitVec 2) (d a : Opnd)
  | voteAll (h : Hd) (d a : BitVec 3)
  | voteAny (h : Hd) (d a : BitVec 3)
  | voteUni (h : Hd) (d a : BitVec 3)
  | voteBallot (h : Hd) (d : Opnd) (a : BitVec 3)
  | redux (h : Hd) (op : ReduxOp) (sgn : Bool) (d a : Opnd)
  | brk (h : Hd) (code : BitVec 8)
  | basteOff (h : Hd)
  | basteOn (h : Hd) (a : Opnd)
  -- integer pipe (05)
  | iadd (h : Hd) (it : ITy) (sub sat : Bool) (d a b : Opnd)
  | iadd3 (h : Hd) (it : ITy) (d a b c : Opnd)
  | imul (h : Hd) (it : ITy) (sat : Bool) (d a b : Opnd)
  | imulh (h : Hd) (it : ITy) (d a b : Opnd)
  | imad (h : Hd) (it : ITy) (sat : Bool) (d a b c : Opnd)
  | imadW (h : Hd) (it : ITy) (d a b c : Opnd)
  | imin (h : Hd) (it : ITy) (d a b : Opnd)
  | imax (h : Hd) (it : ITy) (d a b : Opnd)
  | iabs (h : Hd) (it : ITy) (sat : Bool) (d a : Opnd)
  | isad (h : Hd) (it : ITy) (d a b c : Opnd)
  | log3 (h : Hd) (table : BitVec 8) (d a b c : Opnd)
  | shl (h : Hd) (it : ITy) (clamp : Bool) (d a b : Opnd)
  | shr (h : Hd) (it : ITy) (clamp : Bool) (d a b : Opnd)
  | sar (h : Hd) (it : ITy) (clamp : Bool) (d a b : Opnd)
  | rot (h : Hd) (it : ITy) (right : Bool) (d a b : Opnd)
  | fsh (h : Hd) (right clamp : Bool) (d a b c : Opnd)
  | bfx (h : Hd) (it : ITy) (d a b : Opnd)
  | bfi (h : Hd) (it : ITy) (d a b c : Opnd)
  | prmt (h : Hd) (d a b c : Opnd)
  | popc (h : Hd) (w64 : Bool) (d a : Opnd)
  | clz (h : Hd) (w64 : Bool) (d a : Opnd)
  | ctz (h : Hd) (w64 : Bool) (d a : Opnd)
  | brev (h : Hd) (w64 : Bool) (d a : Opnd)
  | lea (h : Hd) (shift : BitVec 3) (sgn : Bool) (d a b : Opnd)
  | idp4 (h : Hd) (sa sb sat : Bool) (d a b c : Opnd)
  | idp2 (h : Hd) (sa sb hi sat : Bool) (d a b c : Opnd)
  | icmp (h : Hd) (it : ITy) (cc : Icc) (pp : PPair) (a b : Opnd)
  | i2p (h : Hd) (a b : Opnd)
  | p2i (h : Hd) (d : Opnd)
  -- floating pipe (07)
  | fadd (h : Hd) (m : FMod) (f : FF) (d a b : Opnd)
  | fmul (h : Hd) (m : FMod) (f : FF) (d a b : Opnd)
  | ffma (h : Hd) (m : FMod) (f : FF) (d a b c : Opnd)
  | fmin (h : Hd) (m : FMod) (f : FF) (d a b : Opnd)
  | fmax (h : Hd) (m : FMod) (f : FF) (d a b : Opnd)
  | frnd (h : Hd) (m : FMod) (f : FF) (d a : Opnd)
  | fclass (h : Hd) (d a : Opnd)
  | fcmp (h : Hd) (m : FMod) (cc : Fcc) (pp : PPair) (a b : Opnd)
  | fsetmodeWmode (h : Hd) (a : Opnd)
  | fsetmodeRmode (h : Hd) (d : Opnd)
  | fsetmodeRstat (h : Hd) (d : Opnd)
  | fsetmodeCstat (h : Hd) (a : Opnd)
  | dadd (h : Hd) (m : FMod) (f : FF) (d a b : Opnd)
  | dmul (h : Hd) (m : FMod) (f : FF) (d a b : Opnd)
  | dfma (h : Hd) (m : FMod) (f : FF) (d a b c : Opnd)
  | dmin (h : Hd) (m : FMod) (f : FF) (d a b : Opnd)
  | dmax (h : Hd) (m : FMod) (f : FF) (d a b : Opnd)
  | dcmp (h : Hd) (m : FMod) (cc : Fcc) (pp : PPair) (a b : Opnd)
  | hadd2 (h : Hd) (m : FMod) (f : FF) (d a b : Opnd)
  | hmul2 (h : Hd) (m : FMod) (f : FF) (d a b : Opnd)
  | hfma2 (h : Hd) (m : FMod) (f : FF) (d a b c : Opnd)
  | hmnmx2 (h : Hd) (m : FMod) (f : FF) (max : Bool) (d a b : Opnd)
  | badd2 (h : Hd) (m : FMod) (f : FF) (d a b : Opnd)
  | bmul2 (h : Hd) (m : FMod) (f : FF) (d a b : Opnd)
  | bfma2 (h : Hd) (m : FMod) (f : FF) (d a b c : Opnd)
  | qadd4 (h : Hd) (m : FMod) (f : FF) (e5m2 sat : Bool) (d a b : Opnd)
  | qmul4 (h : Hd) (m : FMod) (f : FF) (e5m2 sat : Bool) (d a b : Opnd)
  | qfma4 (h : Hd) (m : FMod) (f : FF) (e5m2 sat : Bool) (d a b c : Opnd)
  | cvt (h : Hd) (m : FMod) (fd fs : Fmt) (pack : BitVec 2) (sat : Bool) (d a : Opnd)
  | cvtmx (h : Hd) (m : FMod) (e : MxElem) (sat : Bool) (d a : Opnd)
  | cvtmxQ (h : Hd) (m : FMod) (e : MxElem) (sat : Bool) (d a b : Opnd)
  | rcp (h : Hd) (m : FMod) (f : FF) (d a : Opnd)
  | rsq (h : Hd) (m : FMod) (f : FF) (d a : Opnd)
  | sqrt (h : Hd) (m : FMod) (f : FF) (d a : Opnd)
  | ex2 (h : Hd) (m : FMod) (f : FF) (d a : Opnd)
  | lg2 (h : Hd) (m : FMod) (f : FF) (d a : Opnd)
  | sin (h : Hd) (m : FMod) (f : FF) (d a : Opnd)
  | cos (h : Hd) (m : FMod) (f : FF) (d a : Opnd)
  | tanh (h : Hd) (m : FMod) (f : FF) (d a : Opnd)
  | hrand (h : Hd) (d a b c : Opnd)
  | drop (h : Hd) (t : DropTy) (d a b c : Opnd)
  -- load/store, publish and maintenance forms (06, 09, 10)
  | ld (h : Hd) (w : Wid) (sx : Bool) (spc : Spc) (nb : Bool) (hnt : BitVec 2) (d a : Opnd)
  | st (h : Hd) (w : Wid) (spc : Spc) (hnt : BitVec 2) (a b : Opnd)
  | ldv (h : Hd) (w : Wid) (spc : Spc) (nb : Bool) (hnt : BitVec 2) (d a : Opnd)
  | ldw (h : Hd) (w : Wid) (sx : Bool) (nb : Bool) (d a : Opnd)
  | atom (h : Hd) (op : Aop) (ty : Aty) (ord : Ord) (scp : Scp) (spc : Spc) (d a b c : Opnd)
  | atomf (h : Hd) (op : FOp3) (bf16 : Bool) (ord : Ord) (scp : Scp) (spc : Spc) (d a b : Opnd)
  | cas (h : Hd) (w64 : Bool) (ord : Ord) (scp : Scp) (spc : Spc) (d a b c : Opnd)
  | cas128 (h : Hd) (ord : Ord) (scp : Scp) (spc : Spc) (d a b c : Opnd)
  | red (h : Hd) (op : Aop) (ty : Aty) (ord : Ord) (scp : Scp) (spc : Spc) (a b c : Opnd)
  | pref (h : Hd) (llc : Bool) (hnt : BitVec 2) (a : Opnd)
  | xbeg (h : Hd) (d : BitVec 7)
  | xend (h : Hd) (d : BitVec 7)
  | xabt (h : Hd) (code : BitVec 8)
  | lda (h : Hd) (w : Wid) (sx : Bool) (spc : Spc) (scp : Scp) (hnt : BitVec 2) (d a : Opnd)
  | strel (h : Hd) (w : Wid) (spc : Spc) (scp : Scp) (hnt : BitVec 2) (a b : Opnd)
  | fenceAcq (g : Guard) (scp : Scp)
  | fenceRel (g : Guard) (scp : Scp)
  | fenceAr (g : Guard) (scp : Scp)
  | cflush (h : Hd) (a b : Opnd)
  | cinv (h : Hd) (a b : Opnd)
  | czero (h : Hd) (a b : Opnd)
  -- copy engine and barriers (11)
  | cpy (g : Guard) (dspc sspc : Spc) (bar : Option (BitVec 4)) (dist : BitVec 16) (hnt : BitVec 2) (a b c : Opnd)
  | cpym (g : Guard) (sspc : Spc) (bar : Option (BitVec 4)) (len : BitVec 24) (a b c : Opnd)
  | cseal (h : Hd) (d : Opnd)
  | cwait (h : Hd) (a : Opnd)
  | crdptr (h : Hd) (n : BitVec 3) (d : Opnd)
  | cfixq (h : Hd) (d : Opnd)
  | bari (h : Hd) (n : BitVec 4) (a b : Opnd)
  | bara (h : Hd) (n : BitVec 4)
  | barw (h : Hd) (n : BitVec 4)
  | barx (h : Hd) (n : BitVec 4) (b : Opnd)
  -- fabric forms (15)
  | fput (g : Guard) (a b c : Opnd)
  | fget (g : Guard) (a b c : Opnd)
  | fsigSet (g : Guard) (a b : Opnd)
  | fsigAdd (g : Guard) (a b : Opnd)
  | fred (g : Guard) (op : FOp3) (fmt : Fmt) (id : BitVec 16) (a b c : Opnd)
  | fatom (g : Guard) (op : Aop) (ty : Aty) (ord : Ord) (scp : Scp) (d a b c : Opnd)
  -- dispatcher and trap-unit forms (19, 20)
  | spawn (h : Hd) (a b : Opnd)
  | yield (h : Hd)
  | waitmem (h : Hd) (cc : WCond) (a b : Opnd)
  | sleep (h : Hd) (a : Opnd)
  | trap (g : Guard) (n : BitVec 8)
  | eret (g : Guard)
  | srd (h : Hd) (d : Opnd)
  | swr (h : Hd) (a : Opnd)
  | halt (g : Guard)
  | tlbiPage (h : Hd) (a b : Opnd)
  | tlbiAsid (h : Hd) (b : Opnd)
  | tlbiAll (h : Hd)
  -- tile stream (13, 14)
  | tileNop (len : BitVec 2)
  | tswr (ctl : BitVec 8) (v : Word)
  | tsrd (ctl : BitVec 8) (off : Word)
  | tld (d : BitVec 4) (hnt : BitVec 2) (tr : Bool) (addr stride : Word)
  | tst (a : BitVec 4) (tr : Bool) (addr stride : Word)
  | tzero (d : BitVec 4)
  | tmov (d a : BitVec 4)
  | tsend (port : BitVec 2) (a : BitVec 4)
  | trecv (port : BitVec 2) (d : BitVec 4)
  | tarrive (n : BitVec 4)
  | twait (n : BitVec 4)
  | tloop (n : BitVec 2) (off trip : Word)
  | tbra (off : Word)
  | tend
  | tmma (d a b : BitVec 4) (fa fb facc : Fmt) (acc : Bool)
  | tmmax (d a b : BitVec 4) (fa fb facc : Fmt) (acc : Bool) (set : BitVec 2)
  | tmmas (d a b c : BitVec 4) (fa fb facc : Fmt) (acc : Bool)
  | tadd (d a b : BitVec 4) (f : Fmt)
  | tscale (d a : BitVec 4) (f : Fmt) (rnd : BitVec 3) (factor : Word)
  | tcvt (d a : BitVec 4) (fd fs : Fmt) (sat : Bool) (rnd : BitVec 3)
  -- mesh and issue events (01, 04, 08)
  | routeHeadFlit (router : Nat) (cls : MsgClass)
  | creditReturn (router port : Nat) (cls : MsgClass) (esc : Bool)
  | readyWaitFavour (blk grp : Nat)
  | groupWaitPriority (blk grp : Nat)
  | spillFrame (blk grp lane : Nat)
  | fillFrame (blk grp lane : Nat)
  | bastingEntry (blk grp : Nat)
  | bastingEnd (blk grp : Nat)
  | nonbindingReadFill (core sec : Nat)
  -- load/store events (06, 09)
  | storeQueueRetire (blk grp : Nat)
  | postedAck (core id : Nat)
  | loadDataReturn (acc : Nat)
  | storeFaultDeferred (core id : Nat) (code : BitVec 8)
  | transactionTimeout (blk grp lane : Nat)
  | carveRequest (v : Word)
  | carveComplete (core : Nat)
  | pubReq (core : Nat) (who : PubWho) (seq : Word)
  | pubAck (pkg core : Nat) (pw : Word) (st : FabStatus)
  -- slice-directory events (10)
  | gets (core sec : Nat)
  | getx (core sec : Nat)
  | getz (core sec : Nat)
  | upg (core sec : Nat)
  | cflq (core sec : Nat)
  | cinvq (core sec : Nat)
  | sliceFifoHead (sec : Nat)
  | fwdGets (core sec : Nat)
  | fwdGetx (core sec : Nat)
  | fwdWb (core sec : Nat)
  | fwdWbi (core sec : Nat)
  | inv (cluster sec : Nat)
  | dataS (core sec : Nat)
  | dataE (core sec : Nat)
  | dataM (core sec : Nat)
  | fwdData (core sec : Nat)
  | putc (core sec : Nat)
  | putm (core sec : Nat)
  | upgAck (core sec : Nat)
  | upgMiss (core sec : Nat)
  | invAck (cluster sec : Nat)
  | done (core sec : Nat)
  | wbAck (core sec : Nat)
  | mntAck (core sec : Nat)
  | memoryReadComplete (sec : Nat)
  | memoryWriteComplete (sec : Nat)
  | homeComplete (sec : Nat)
  | l1Evict (core sec : Nat)
  | llcEvict (sec : Nat)
  | llcRecallComplete (sec : Nat)
  | llcSoftError (sec : Nat) (inData : Bool)
  -- copy-engine, weight-store, tile events (11 to 14)
  | copySliceDone (blk coll grp : Nat)
  | holdBufferAck (cluster id dst : Nat)
  | weightStoreWrite (ioCore : Bool) (addr nbytes : Nat) (v : List Byte)
  | refreshWindowStart (die group : Nat)
  | refreshWindowEnd (die group : Nat)
  | tileStreamFetch (blk : Nat)
  | cuffTransferComplete (core port : Nat)
  | matrixFormComplete (blk copy : Nat)
  | scaleCacheFill (blk copy line : Nat)
  | tileFault (blk copy : Nat)
  -- fabric events (15)
  | fabricRequestArrival (src : Nat) (seq low : Word) (obit : Bool) (op : HomeOp)
  | fabricResponse (dst : Nat) (seq : Word) (st : FabReply) (v : SecVal) (more : List SecData)
  | fabricResend (dst : Nat) (seq : Word)
  | fabricDeadlineExpiry (dst : Nat) (seq : Word)
  | abandon (src : Nat) (seq : Word)
  | migrationThreshold (asid vpage home : Nat)
  | linkTraining (switch : Nat) (ids : List Nat)
  | collRegister (hi : Word)
  | collRegisterDone
  | resultChunk (id : BitVec 16) (chunk : Nat) (st : FabStatus) (contribs : List (List Word))
  -- home-agent events (16)
  | rdS (src sec : Nat)
  | rdX (src sec : Nat)
  | podUpg (src sec : Nat)
  | podDrop (src sec : Nat)
  | wb (src sec : Nat) (v : SecVal)
  | fwdS (home sec : Nat)
  | fwdX (home sec : Nat)
  | fwdDg (home sec : Nat)
  | podInv (home sec : Nat)
  | grantS (home sec : Nat) (v : SecVal)
  | grantE (home sec : Nat) (v : SecVal)
  | grantM (home sec : Nat) (v : SecVal)
  | grantU (home sec : Nat)
  | podFwdData (src sec : Nat) (v : SecVal) (dirty : Bool)
  | empty (src sec : Nat)
  | podInvAck (src sec : Nat)
  | podWbAck (home sec : Nat)
  | dataAck (home sec : Nat)
  | refuse (home sec : Nat) (code : BitVec 8)
  | poisonNotice (home sec : Nat)
  | hostResponse (sec : Nat) (v : Option SecVal)
  | homeDeadlineExpiry (sec : Nat)
  | mergeSweep
  | homCtlWrite (v : Word)
  | homCellSelect (v : Word)
  | homCellStore (v : Word)
  | seamRead (v : Word)
  | seamWrite (v : Word)
  -- Mending events (17)
  | beaconSend
  | beacon (pkg : Nat) (down : DWord)
  | beaconSilence (pkg : Nat)
  | downNotice (pkg : Nat) (down : DWord)
  | mndDeclare (v : Word)
  | mndRejoin (v : Word)
  | walkEntryVisit (cell idx : Nat)
  | walkLineVisit (cell sec : Nat)
  | walkEnd
  -- translation events (18)
  | tableWalk (cluster asid vpage : Nat) (write : Bool)
  | xltShootPage (v : Word)
  | xltShootAsid (v : Word)
  | xltShootAll (v : Word)
  | xltShootRefused (v : Word)
  | shootdownComplete
  -- dispatcher events (19)
  | queueDoorbell (v : Word)
  | recordTake (queue : Nat)
  | gridAdmit (queue : Nat)
  | blockPlace (queue cluster : Nat) (cores quads : List Nat)
  | joinDecrement (grid : Nat)
  | joinPush (queue : Nat)
  | spawnPush (blk grp lane : Nat)
  | progressPreempt (blk : Nat)
  | watchdogExpiry (grid : Nat)
  | dspScmdStop (v : Word)
  | dspScmdRetry (v : Word)
  | dspScmdReload (v : Word)
  | dspScmdRefused (v : Word)
  | yieldTimeout (blk grp lane : Nat)
  | waitmemRecheck (blk grp lane : Nat)
  | sleepEnd (blk grp lane : Nat)
  -- trap-unit events (20)
  | faultContain (core : Nat)
  | haltAccept (core : Nat)
  | contextSaveComplete (blk : Nat)
  | contextRestore (idx cluster : Nat) (cores quads : List Nat)
  | trpRelease (v : Word)
  | machineCheck (causes : List MchkCause)
  -- host-port events (21)
  | linkEnable
  | linkDisable
  | linkUp (cxl : Bool)
  | linkDown
  | heartbeatSend
  | hstHbin (v : Word)
  | hostSilence
  | hostMemRequest (pa : Nat) (write own : Bool) (v : SecData)
  | hostBarWrite (off nbytes : Nat) (v : DWord)
  | hostWriteSend (id : Nat)
  | hostReadCompletion (id : Nat) (err : Bool) (v : SecData)
  | hostRequestDeadline (id : Nat)
  | atomicopCompletion (id : Nat) (v : QWord)
  | atomicopUr (id : Nat)
  | coherentFallback (id : Nat) (v : SecVal)
  | ioqDoorbellTail (q : Nat) (v : Word)
  | ioqDoorbellHead (q : Nat) (v : Word)
  | serviceCoreAccess (ioCore : Bool) (addr : Nat) (op : SvcOp)
  -- package events (22)
  | throttle (power temp : Nat)
  | packageReset (strap : BitVec 10)
  | firmwareBoot (image : List Byte)
  | mgtPkgidWrite (id : BitVec 10)
  | spdmRequest (nonce : List Byte)
  | registerWrite (inst num : Nat) (v : Word)
  | throttleEnd (power temp : Nat)
  | weightStoreWriteComplete
  | hostWriteDeadline (id : Nat)
  deriving DecidableEq, Repr

end Sys2Proof
end

