-- ==== Sys2Proof/WellFormed.lean ====
section
/-! DEFINITION. When an instruction is a legal encoding: operand sizes and kinds, lengths, modifier codes
(02 R46, R47, R51, R52, R55, R57, R59 checks 3 and 4; 20 R511). -/

namespace Sys2Proof

/-- One operand field of a SIMT form: the operand, how many registers it covers, whether it is written. -/
structure Use where
  op : Opnd
  regs : Nat
  dst : Bool
  deriving DecidableEq, Repr

/-- Registers an operand of the type covers (R147). -/
def ITy.regs : ITy → Nat
  | .u64 | .s64 => 2
  | _ => 1

/-- Element width in bits (R147). -/
def ITy.width : ITy → Nat
  | .u32 | .s32 => 32
  | .u16x2 | .s16x2 => 16
  | .u8x4 | .s8x4 => 8
  | .u64 | .s64 => 64

/-- Element count (R147). -/
def ITy.count : ITy → Nat
  | .u16x2 | .s16x2 => 2
  | .u8x4 | .s8x4 => 4
  | _ => 1

/-- Whether the elements are signed (R147). -/
def ITy.signed : ITy → Bool
  | .s32 | .s16x2 | .s8x4 | .s64 => true
  | _ => false

/-- The types of the rows that list IT 0, 1, 6, 7. -/
def ITy.scalar : ITy → Bool
  | .u32 | .s32 | .u64 | .s64 => true
  | _ => false

def Wid.bytes : Wid → Nat
  | .w8 => 1
  | .w16 => 2
  | .w32 => 4
  | .w64 => 8
  | .w128 => 16

/-- Registers a data operand of the width covers (R192). -/
def Wid.regs : Wid → Nat
  | .w64 => 2
  | .w128 => 4
  | _ => 1

def Aty.regs : Aty → Nat
  | .u64 | .s64 => 2
  | _ => 1

/-- Registers an address operand covers: a pair for .G, one register for .S and .W (R55, R192). -/
def Spc.regs : Spc → Nat
  | .g => 2
  | _ => 1

/-- Storage width in bits (R224). -/
def Fmt.bits : Fmt → Nat
  | .fp64 | .s64 | .u64 => 64
  | .fp32 | .s32 | .u32 => 32
  | .fp16 | .bf16 | .s16 | .u16 => 16
  | .e4m3 | .e5m2 | .e3m2 | .e2m3 | .e8m0 | .s8 | .u8 => 8
  | .e2m1 | .s4 | .u4 => 4

/-- Registers that cover a number of bits: one, a pair or a quad (R224). -/
def regsOfBits (n : Nat) : Nat := if n ≤ 32 then 1 else if n ≤ 64 then 2 else 4

/-- Whether the atomic reads SC (R195, R396). -/
def Aop.readsC : Aop → Bool
  | .inc | .dec | .cas => true
  | _ => false

/-- Counters each engine row of R9 keeps, non-stall and stall counters together (R34, R511). -/
def counterCount : Nat → Nat
  | 0 => 10 | 1 => 4 | 2 => 11 | 3 => 7 | 4 => 9 | 5 => 10 | 6 => 10 | 7 => 11 | 8 => 5
  | 9 => 12 | 10 => 8 | 11 => 12 | 12 => 12 | 13 => 8 | 14 => 9 | 15 => 13 | 16 => 10 | 17 => 11
  | _ => 0

/-- Whether a number names a counter (R511). -/
def isCounter (n : Nat) : Bool :=
  0x1000 ≤ n && (n - 0x1000) % 0x40 < counterCount ((n - 0x1000) / 0x40)

/-- Whether a number names a 32-bit system register (R511 and the register tables of the engines' chapters). -/
def isReg32 (n : Nat) : Bool :=
  n ≤ 0x9 || n == 0x100 || n == 0x101 || (0x110 ≤ n && n ≤ 0x126) || n == 0x300 || n == 0x301
    || (0x340 ≤ n && n ≤ 0x343) || (0x380 ≤ n && n ≤ 0x384) || (0x3A0 ≤ n && n ≤ 0x3A6)
    || (0x3C0 ≤ n && n ≤ 0x3C4) || (0x3E0 ≤ n && n ≤ 0x3E5) || (0x400 ≤ n && n ≤ 0x409)
    || (0x500 ≤ n && n ≤ 0x609) || (0x700 ≤ n && n ≤ 0x716) || (0x718 ≤ n && n ≤ 0x725) || n == 0x727

/-- Whether a number names a 64-bit register: MGT_THROTTLE or a counter (R511, R545). -/
def isReg64 (n : Nat) : Bool := n == 0x726 || isCounter n

/-- The register number an SRD or SWR holds in X24 or IMM32 (R511). -/
def sysRegNum : Ext → Nat
  | .l64 => 0
  | .l96 x => x.toNat
  | .l128 x => x.toNat

/-- Registers the data operand of an SRD or SWR covers. -/
def sysRegRegs (e : Ext) : Nat := if isReg64 (sysRegNum e) then 2 else 1

/-- The operand fields a SIMT form uses, in the order DST, SA, SB, SC (R154, R192, R216 and the tables of
each chapter). Predicate fields are not listed. SB of LEA, and the amounts of shifts and of BFX, are one 32-bit register
by R147, R154 and R165, so that an odd one is accepted, where R169 lists an LEA whose SB is no pair (DEDUCED, assumption log
62). -/
def Instr.uses : Instr → List Use
  | .brx _ a => [⟨a, 2, false⟩]
  | .callx _ _ a => [⟨a, 2, false⟩]
  | .sel _ w d a b _ => [⟨d, (cond w 2 1), true⟩, ⟨a, (cond w 2 1), false⟩, ⟨b, (cond w 2 1), false⟩]
  | .mov _ w d a => [⟨d, w.regs, true⟩, ⟨a, w.regs, false⟩]
  | .movi _ w d => [⟨d, (cond w 2 1), true⟩]
  | .shfl _ _ _ d a b => [⟨d, 1, true⟩, ⟨a, 1, false⟩, ⟨b, 1, false⟩]
  | .qswap _ _ d a => [⟨d, 1, true⟩, ⟨a, 1, false⟩]
  | .qbcast _ _ d a => [⟨d, 1, true⟩, ⟨a, 1, false⟩]
  | .voteBallot _ d _ => [⟨d, 1, true⟩]
  | .redux _ _ _ d a => [⟨d, 1, true⟩, ⟨a, 1, false⟩]
  | .basteOn _ a => [⟨a, 1, false⟩]
  | .iadd _ it _ _ d a b => [⟨d, it.regs, true⟩, ⟨a, it.regs, false⟩, ⟨b, it.regs, false⟩]
  | .iadd3 _ it d a b c => [⟨d, it.regs, true⟩, ⟨a, it.regs, false⟩, ⟨b, it.regs, false⟩, ⟨c, it.regs, false⟩]
  | .imul _ it _ d a b => [⟨d, it.regs, true⟩, ⟨a, it.regs, false⟩, ⟨b, it.regs, false⟩]
  | .imulh _ it d a b => [⟨d, it.regs, true⟩, ⟨a, it.regs, false⟩, ⟨b, it.regs, false⟩]
  | .imin _ it d a b => [⟨d, it.regs, true⟩, ⟨a, it.regs, false⟩, ⟨b, it.regs, false⟩]
  | .imax _ it d a b => [⟨d, it.regs, true⟩, ⟨a, it.regs, false⟩, ⟨b, it.regs, false⟩]
  | .imad _ _ _ d a b c => [⟨d, 1, true⟩, ⟨a, 1, false⟩, ⟨b, 1, false⟩, ⟨c, 1, false⟩]
  | .imadW _ _ d a b c => [⟨d, 2, true⟩, ⟨a, 1, false⟩, ⟨b, 1, false⟩, ⟨c, 2, false⟩]
  | .iabs _ it _ d a => [⟨d, it.regs, true⟩, ⟨a, it.regs, false⟩]
  | .isad _ it d a b c => [⟨d, 1, true⟩, ⟨a, it.regs, false⟩, ⟨b, it.regs, false⟩, ⟨c, 1, false⟩]
  | .log3 _ _ d a b c => [⟨d, 1, true⟩, ⟨a, 1, false⟩, ⟨b, 1, false⟩, ⟨c, 1, false⟩]
  | .shl _ it _ d a b => [⟨d, it.regs, true⟩, ⟨a, it.regs, false⟩, ⟨b, 1, false⟩]
  | .shr _ it _ d a b => [⟨d, it.regs, true⟩, ⟨a, it.regs, false⟩, ⟨b, 1, false⟩]
  | .sar _ it _ d a b => [⟨d, it.regs, true⟩, ⟨a, it.regs, false⟩, ⟨b, 1, false⟩]
  | .rot _ it _ d a b => [⟨d, it.regs, true⟩, ⟨a, it.regs, false⟩, ⟨b, 1, false⟩]
  | .fsh _ _ _ d a b c => [⟨d, 1, true⟩, ⟨a, 1, false⟩, ⟨b, 1, false⟩, ⟨c, 1, false⟩]
  | .bfx _ it d a b => [⟨d, it.regs, true⟩, ⟨a, it.regs, false⟩, ⟨b, 1, false⟩]
  | .bfi _ it d a b c => [⟨d, it.regs, true⟩, ⟨a, it.regs, false⟩, ⟨b, it.regs, false⟩, ⟨c, 1, false⟩]
  | .prmt _ d a b c => [⟨d, 1, true⟩, ⟨a, 1, false⟩, ⟨b, 1, false⟩, ⟨c, 1, false⟩]
  | .popc _ w d a => [⟨d, 1, true⟩, ⟨a, (cond w 2 1), false⟩]
  | .clz _ w d a => [⟨d, 1, true⟩, ⟨a, (cond w 2 1), false⟩]
  | .ctz _ w d a => [⟨d, 1, true⟩, ⟨a, (cond w 2 1), false⟩]
  | .brev _ w d a => [⟨d, (cond w 2 1), true⟩, ⟨a, (cond w 2 1), false⟩]
  | .lea _ _ _ d a b => [⟨d, 2, true⟩, ⟨a, 2, false⟩, ⟨b, 1, false⟩]
  | .idp4 _ _ _ _ d a b c => [⟨d, 1, true⟩, ⟨a, 1, false⟩, ⟨b, 1, false⟩, ⟨c, 1, false⟩]
  | .idp2 _ _ _ _ _ d a b c => [⟨d, 1, true⟩, ⟨a, 1, false⟩, ⟨b, 1, false⟩, ⟨c, 1, false⟩]
  | .icmp _ it _ _ a b => [⟨a, it.regs, false⟩, ⟨b, it.regs, false⟩]
  | .i2p _ a b => [⟨a, 1, false⟩, ⟨b, 1, false⟩]
  | .p2i _ d => [⟨d, 1, true⟩]
  | .fadd _ _ _ d a b => [⟨d, 1, true⟩, ⟨a, 1, false⟩, ⟨b, 1, false⟩]
  | .fmul _ _ _ d a b => [⟨d, 1, true⟩, ⟨a, 1, false⟩, ⟨b, 1, false⟩]
  | .fmin _ _ _ d a b => [⟨d, 1, true⟩, ⟨a, 1, false⟩, ⟨b, 1, false⟩]
  | .fmax _ _ _ d a b => [⟨d, 1, true⟩, ⟨a, 1, false⟩, ⟨b, 1, false⟩]
  | .hadd2 _ _ _ d a b => [⟨d, 1, true⟩, ⟨a, 1, false⟩, ⟨b, 1, false⟩]
  | .hmul2 _ _ _ d a b => [⟨d, 1, true⟩, ⟨a, 1, false⟩, ⟨b, 1, false⟩]
  | .badd2 _ _ _ d a b => [⟨d, 1, true⟩, ⟨a, 1, false⟩, ⟨b, 1, false⟩]
  | .bmul2 _ _ _ d a b => [⟨d, 1, true⟩, ⟨a, 1, false⟩, ⟨b, 1, false⟩]
  | .ffma _ _ _ d a b c => [⟨d, 1, true⟩, ⟨a, 1, false⟩, ⟨b, 1, false⟩, ⟨c, 1, false⟩]
  | .hfma2 _ _ _ d a b c => [⟨d, 1, true⟩, ⟨a, 1, false⟩, ⟨b, 1, false⟩, ⟨c, 1, false⟩]
  | .bfma2 _ _ _ d a b c => [⟨d, 1, true⟩, ⟨a, 1, false⟩, ⟨b, 1, false⟩, ⟨c, 1, false⟩]
  | .frnd _ _ _ d a => [⟨d, 1, true⟩, ⟨a, 1, false⟩]
  | .rcp _ _ _ d a => [⟨d, 1, true⟩, ⟨a, 1, false⟩]
  | .rsq _ _ _ d a => [⟨d, 1, true⟩, ⟨a, 1, false⟩]
  | .sqrt _ _ _ d a => [⟨d, 1, true⟩, ⟨a, 1, false⟩]
  | .ex2 _ _ _ d a => [⟨d, 1, true⟩, ⟨a, 1, false⟩]
  | .lg2 _ _ _ d a => [⟨d, 1, true⟩, ⟨a, 1, false⟩]
  | .sin _ _ _ d a => [⟨d, 1, true⟩, ⟨a, 1, false⟩]
  | .cos _ _ _ d a => [⟨d, 1, true⟩, ⟨a, 1, false⟩]
  | .tanh _ _ _ d a => [⟨d, 1, true⟩, ⟨a, 1, false⟩]
  | .fclass _ d a => [⟨d, 1, true⟩, ⟨a, 1, false⟩]
  | .fcmp _ _ _ _ a b => [⟨a, 1, false⟩, ⟨b, 1, false⟩]
  | .dcmp _ _ _ _ a b => [⟨a, 2, false⟩, ⟨b, 2, false⟩]
  | .fsetmodeWmode _ a => [⟨a, 1, false⟩]
  | .fsetmodeCstat _ a => [⟨a, 1, false⟩]
  | .fsetmodeRmode _ d => [⟨d, 1, true⟩]
  | .fsetmodeRstat _ d => [⟨d, 1, true⟩]
  | .dadd _ _ _ d a b => [⟨d, 2, true⟩, ⟨a, 2, false⟩, ⟨b, 2, false⟩]
  | .dmul _ _ _ d a b => [⟨d, 2, true⟩, ⟨a, 2, false⟩, ⟨b, 2, false⟩]
  | .dmin _ _ _ d a b => [⟨d, 2, true⟩, ⟨a, 2, false⟩, ⟨b, 2, false⟩]
  | .dmax _ _ _ d a b => [⟨d, 2, true⟩, ⟨a, 2, false⟩, ⟨b, 2, false⟩]
  | .dfma _ _ _ d a b c => [⟨d, 2, true⟩, ⟨a, 2, false⟩, ⟨b, 2, false⟩, ⟨c, 2, false⟩]
  | .hmnmx2 _ _ _ _ d a b => [⟨d, 1, true⟩, ⟨a, 1, false⟩, ⟨b, 1, false⟩]
  | .qadd4 _ _ _ _ _ d a b => [⟨d, 1, true⟩, ⟨a, 1, false⟩, ⟨b, 1, false⟩]
  | .qmul4 _ _ _ _ _ d a b => [⟨d, 1, true⟩, ⟨a, 1, false⟩, ⟨b, 1, false⟩]
  | .qfma4 _ _ _ _ _ d a b c => [⟨d, 1, true⟩, ⟨a, 1, false⟩, ⟨b, 1, false⟩, ⟨c, 1, false⟩]
  | .cvt _ _ fd fs pk _ d a => [⟨d, (regsOfBits (fd.bits * 2 ^ pk.toNat)), true⟩, ⟨a, (regsOfBits (fs.bits * 2 ^ pk.toNat)), false⟩]
  | .cvtmx _ _ _ _ d a => [⟨d, 1, true⟩, ⟨a, 1, false⟩]
  | .cvtmxQ _ _ _ _ d a b => [⟨d, 1, true⟩, ⟨a, 1, false⟩, ⟨b, 1, false⟩]
  | .hrand _ d a b c => [⟨d, 1, true⟩, ⟨a, 2, false⟩, ⟨b, 1, false⟩, ⟨c, 2, false⟩]
  | .drop _ _ d a b c => [⟨d, 1, true⟩, ⟨a, 1, false⟩, ⟨b, 1, false⟩, ⟨c, 1, false⟩]
  | .ld _ w _ spc _ _ d a => [⟨d, w.regs, true⟩, ⟨a, spc.regs, false⟩]
  | .st _ w spc _ a b => [⟨a, spc.regs, false⟩, ⟨b, w.regs, false⟩]
  | .ldv _ w spc _ _ d a => [⟨d, w.regs, true⟩, ⟨a, spc.regs, false⟩]
  | .ldw _ w _ _ d a => [⟨d, w.regs, true⟩, ⟨a, 1, false⟩]
  | .atom _ op ty _ _ spc d a b c => ⟨d, ty.regs, true⟩ :: ⟨a, spc.regs, false⟩ :: ⟨b, ty.regs, false⟩ :: (cond op.readsC [⟨c, ty.regs, false⟩] [])
  | .red _ op ty _ _ spc a b c => ⟨a, spc.regs, false⟩ :: ⟨b, ty.regs, false⟩ :: (cond op.readsC [⟨c, ty.regs, false⟩] [])
  | .fatom _ op ty _ _ d a b c => ⟨d, ty.regs, true⟩ :: ⟨a, 2, false⟩ :: ⟨b, ty.regs, false⟩ :: (cond op.readsC [⟨c, ty.regs, false⟩] [])
  | .atomf _ _ _ _ _ spc d a b => [⟨d, 1, true⟩, ⟨a, spc.regs, false⟩, ⟨b, 1, false⟩]
  | .cas _ w _ _ spc d a b c => [⟨d, (cond w 2 1), true⟩, ⟨a, spc.regs, false⟩, ⟨b, (cond w 2 1), false⟩, ⟨c, (cond w 2 1), false⟩]
  | .cas128 _ _ _ spc d a b c => [⟨d, 4, true⟩, ⟨a, spc.regs, false⟩, ⟨b, 4, false⟩, ⟨c, 4, false⟩]
  | .pref _ _ _ a => [⟨a, 2, false⟩]
  | .xbeg _ d => [⟨.v d, 1, true⟩]
  | .xend _ d => [⟨.v d, 1, true⟩]
  | .lda _ w _ spc _ _ d a => [⟨d, w.regs, true⟩, ⟨a, spc.regs, false⟩]
  | .strel _ w spc _ _ a b => [⟨a, spc.regs, false⟩, ⟨b, w.regs, false⟩]
  | .cflush _ a b => [⟨a, 2, false⟩, ⟨b, 1, false⟩]
  | .cinv _ a b => [⟨a, 2, false⟩, ⟨b, 1, false⟩]
  | .czero _ a b => [⟨a, 2, false⟩, ⟨b, 1, false⟩]
  | .cpy _ ds ss _ _ _ a b c => [⟨a, ds.regs, false⟩, ⟨b, ss.regs, false⟩, ⟨c, 1, false⟩]
  | .cpym _ ss _ _ a b c => [⟨a, 1, false⟩, ⟨b, ss.regs, false⟩, ⟨c, 2, false⟩]
  | .cseal _ d => [⟨d, 1, true⟩]
  | .cfixq _ d => [⟨d, 1, true⟩]
  | .cwait _ a => [⟨a, 1, false⟩]
  | .crdptr _ _ d => [⟨d, 1, true⟩]
  | .bari _ _ a b => [⟨a, 1, false⟩, ⟨b, 1, false⟩]
  | .barx _ _ b => [⟨b, 1, false⟩]
  | .fput _ a b c => [⟨a, 2, false⟩, ⟨b, 2, false⟩, ⟨c, 1, false⟩]
  | .fget _ a b c => [⟨a, 2, false⟩, ⟨b, 2, false⟩, ⟨c, 1, false⟩]
  | .fsigSet _ a b => [⟨a, 2, false⟩, ⟨b, 2, false⟩]
  | .fsigAdd _ a b => [⟨a, 2, false⟩, ⟨b, 2, false⟩]
  | .fred _ _ _ _ a b c => [⟨a, 2, false⟩, ⟨b, 2, false⟩, ⟨c, 1, false⟩]
  | .spawn _ a b => [⟨a, 2, false⟩, ⟨b, 1, false⟩]
  | .waitmem _ _ a b => [⟨a, 2, false⟩, ⟨b, 1, false⟩]
  | .sleep _ a => [⟨a, 1, false⟩]
  | .srd h d => [⟨d, (sysRegRegs h.ext), true⟩]
  | .swr h a => [⟨a, (sysRegRegs h.ext), false⟩]
  | .tlbiPage _ a b => [⟨a, 2, false⟩, ⟨b, 1, false⟩]
  | .tlbiAsid _ b => [⟨b, 1, false⟩]
  | _ => []

/-- Whether the length is one of 64, 96, 128 bits as allowed. -/
def Ext.is64 : Ext → Bool
  | .l64 => true
  | _ => false

/-- The extension field is zero or absent. -/
def Ext.zero : Ext → Bool
  | .l64 => true
  | .l96 x => x == 0
  | .l128 x => x == 0

/-- A named register is aligned to its operand's size (R52). -/
def Opnd.aligned (r : Nat) : Opnd → Bool
  | .v n => n.toNat % r == 0
  | .s n => n.toNat % r == 0
  | _ => true

/-- V or S registers: what a plain DST may be (R51). -/
def Opnd.isReg : Opnd → Bool
  | .v _ | .s _ => true
  | _ => false

def Opnd.isS : Opnd → Bool
  | .s _ => true
  | _ => false

def Opnd.isImm : Opnd → Bool
  | .imm => true
  | _ => false

/-- One operand field is legal: aligned, and a register where it is a destination (R51, R52). -/
def Use.ok (u : Use) : Bool := u.op.aligned u.regs && (!u.dst || u.op.isReg)

/-- Every operand field is legal and none is the immediate (families M, B, K, Y; R47). -/
def usesPlain (us : List Use) : Bool := us.all fun u => u.ok && !u.op.isImm

/-- Family A and C forms: an immediate needs an extension word, and an extension that nothing reads is zero
(R46, R47, R128). -/
def usesArith (e : Ext) (us : List Use) : Bool :=
  us.all Use.ok && (if us.any (fun u => u.op.isImm) then !e.is64 else e.zero)

/-- Rounding field 7 is illegal (R44). -/
def FMod.ok (m : FMod) : Bool := m.rnd != 7

/-- No flag on SC (two-source forms, R54). -/
def FF.two (f : FF) : Bool := !f.nc && !f.ac

/-- No flag on SB or SC (one-source forms). -/
def FF.one (f : FF) : Bool := !f.nb && !f.nc && !f.ab && !f.ac

/-- Formats of the plain matrix forms (R368). -/
def Fmt.matrix : Fmt → Bool
  | .fp32 | .fp16 | .bf16 | .e4m3 | .e5m2 | .e3m2 | .e2m3 | .e2m1 => true
  | _ => false

/-- Element formats of TMMAX (R368). -/
def Fmt.mx : Fmt → Bool
  | .e4m3 | .e5m2 | .e3m2 | .e2m3 | .e2m1 | .s8 => true
  | _ => false

/-- Accumulator formats, and the formats of TADD and TSCALE (R368). -/
def Fmt.acc : Fmt → Bool
  | .fp32 | .fp16 | .bf16 => true
  | _ => false

/-- Formats of TCVT (R368). -/
def Fmt.tcvt (f : Fmt) : Bool := f.matrix || f == .s32 || f == .s8 || f == .u8

/-- The pairing rule of TMMA and TMMAS: both FP32, both 16-bit, or both 8 bits wide or narrower (R368). -/
def Fmt.pairs (a b : Fmt) : Bool :=
  (a.bits == 32 && b.bits == 32) || (a.bits == 16 && b.bits == 16) || (a.bits ≤ 8 && b.bits ≤ 8)

/-- A control register number of R345. -/
def ctlAssigned (n : BitVec 8) : Bool :=
  n.toNat ≤ 0x2B || (0x30 ≤ n.toNat && n.toNat ≤ 0x33) || (0x38 ≤ n.toNat && n.toNat ≤ 0x43)

/-- The legal instructions: every field within the codes of its row (R44 to R47, R51, R52, R55, R57, R59, and the
illegal-use tables R169, R233, R276, R328, R350, R374, R396, R485, R516). Events have no encoding and are not well-formed
instructions of a stream. -/
def Instr.wf (i : Instr) : Bool :=
  match i with
  | .nop h => h.ext.zero
  | .bra h => !h.ext.is64
  | .brx _ _ | .callx _ _ _ => usesArith .l64 i.uses
  | .call h _ => !h.ext.is64
  | .ret _ | .exit _ | .trap _ _ | .eret _ | .halt _ => true
  | .alloc _ n l => n.toNat % 8 == 0 && 8 ≤ n.toNat && n.toNat ≤ 128 && l.toNat ≤ 8
  | .plop h _ _ _ _ _ | .pmov h _ _ | .pmovNot h _ _ | .voteAll h _ _ | .voteAny h _ _ | .voteUni h _ _ => h.ext.zero
  | .mov h w _ _ => usesArith h.ext i.uses && (w == .w32 || w == .w64 || w == .w128)
  | .sel h _ _ _ _ _ | .qswap h _ _ _ | .qbcast h _ _ _ | .voteBallot h _ _
  | .basteOn h _ => usesArith h.ext i.uses && (match i with | .qswap _ m _ _ => m != 3 | _ => true)
  | .redux h op sgn _ _ => usesArith h.ext i.uses && (!sgn || op == .min || op == .max)
  | .movi h _ d => !h.ext.is64 && i.uses.all Use.ok && d.isReg
  | .shfl h _ seg _ _ _ => usesArith h.ext i.uses && seg.toNat ≤ 5
  | .brk h _ => h.ext.is64
  | .basteOff h | .yield h | .bara h _ | .barw h _ | .tlbiAll h => h.ext.zero
  | .iadd h _ _ _ _ _ _ | .imul h _ _ _ _ _ | .imin h _ _ _ _ | .imax h _ _ _ _ | .shl h _ _ _ _ _ | .shr h _ _ _ _ _
  | .sar h _ _ _ _ _ | .popc h _ _ _ | .clz h _ _ _ | .ctz h _ _ _ | .brev h _ _ _ | .lea h _ _ _ _ _ | .i2p h _ _
  | .p2i h _ | .fclass h _ _ | .fsetmodeWmode h _ | .fsetmodeRmode h _ | .fsetmodeRstat h _ | .fsetmodeCstat h _
  | .cseal h _ | .crdptr h _ _ | .cfixq h _ | .bari h _ _ _ | .barx h _ _ | .sleep h _ => usesArith h.ext i.uses
  | .cwait h a => usesArith h.ext i.uses && (match a with | .p _ => false | _ => true)
  | .iadd3 h it _ _ _ _ => usesArith h.ext i.uses && !h.ext.is64 && it.scalar
  | .imulh h it _ _ _ | .bfx h it _ _ _ => usesArith h.ext i.uses && it.scalar
  | .icmp h it _ _ _ _ => usesArith h.ext i.uses && it.scalar
  | .imad h it _ _ _ _ _ | .imadW h it _ _ _ _ => usesArith h.ext i.uses && !h.ext.is64 && (it == .u32 || it == .s32)
  | .iabs h it _ _ _ => usesArith h.ext i.uses && it.signed
  | .isad h it _ _ _ _ => usesArith h.ext i.uses && !h.ext.is64 && it.regs == 1
  | .log3 h _ _ _ _ _ | .fsh h _ _ _ _ _ _ | .prmt h _ _ _ _ | .idp4 h _ _ _ _ _ _ _ | .idp2 h _ _ _ _ _ _ _ _
  | .hrand h _ _ _ _ | .drop h _ _ _ _ _ => usesArith h.ext i.uses && !h.ext.is64
  | .rot h it _ _ _ _ => usesArith h.ext i.uses && (it == .u32 || it == .u64)
  | .bfi h it _ _ _ _ => usesArith h.ext i.uses && !h.ext.is64 && (it == .u32 || it == .u64)
  | .fadd h m f _ _ _ | .fmul h m f _ _ _ | .fmin h m f _ _ _ | .fmax h m f _ _ _ | .dadd h m f _ _ _ | .dmul h m f _ _ _
  | .dmin h m f _ _ _ | .dmax h m f _ _ _ | .hadd2 h m f _ _ _ | .hmul2 h m f _ _ _ | .badd2 h m f _ _ _ | .bmul2 h m f _ _ _
  | .hmnmx2 h m f _ _ _ _ | .qadd4 h m f _ _ _ _ _ | .qmul4 h m f _ _ _ _ _ => usesArith h.ext i.uses && m.ok && f.two
  | .ffma h m _ _ _ _ _ | .dfma h m _ _ _ _ _ | .hfma2 h m _ _ _ _ _ | .bfma2 h m _ _ _ _ _ | .qfma4 h m _ _ _ _ _ _ _ =>
    usesArith h.ext i.uses && m.ok && !h.ext.is64
  | .frnd h m f _ _ | .rcp h m f _ _ | .sqrt h m f _ _ => usesArith h.ext i.uses && m.ok && f.one
  | .rsq h m f _ _ | .ex2 h m f _ _ | .lg2 h m f _ _ | .sin h m f _ _ | .cos h m f _ _ | .tanh h m f _ _ =>
    usesArith h.ext i.uses && m.rnd == 0 && f.one
  | .fcmp h m _ _ _ _ | .dcmp h m _ _ _ _ => usesArith h.ext i.uses && m.rnd == 0
  | .cvt h m fd fs pk _ _ a => usesArith h.ext i.uses && m.ok && fd.bits * 2 ^ pk.toNat ≤ 128 && fs.bits * 2 ^ pk.toNat ≤ 128
      && !(a.isImm && 64 < fs.bits * 2 ^ pk.toNat)
  | .cvtmx h m _ _ _ _ | .cvtmxQ h m _ _ _ _ _ => usesArith h.ext i.uses && m.ok
  | .ld _ w sx spc _ _ _ _ => usesPlain i.uses && spc != .w && (!sx || w == .w8 || w == .w16)
  | .st _ _ spc _ _ _ => usesPlain i.uses && spc != .w
  | .ldv _ w spc _ _ _ a => usesPlain i.uses && spc != .w && (w == .w64 || w == .w128) && a.isS
  | .ldw _ w sx _ _ _ => usesPlain i.uses && (!sx || w == .w8 || w == .w16)
  | .atom h op _ _ _ spc _ _ _ c => usesPlain i.uses && spc != .w && op != .cas && (if op.readsC then !h.ext.is64 else c == .v 0)
  | .atomf _ _ _ _ _ spc _ _ _ => usesPlain i.uses && spc != .w
  | .cas h _ _ _ spc _ _ _ _ | .cas128 h _ _ spc _ _ _ _ => usesPlain i.uses && spc != .w && !h.ext.is64
  | .red h op _ ord _ spc _ _ c => usesPlain i.uses && spc != .w && op != .cas && op != .exch && (ord == .none || ord == .rel)
      && (if op.readsC then !h.ext.is64 else c == .v 0)
  | .pref _ _ _ _ => usesPlain i.uses
  | .xbeg h _ => !h.ext.is64
  | .xend h _ | .xabt h _ => h.ext.zero
  | .lda _ w sx spc _ _ _ _ => usesPlain i.uses && spc != .w && w != .w128 && (!sx || w == .w8 || w == .w16)
  | .strel _ w spc _ _ _ _ => usesPlain i.uses && spc != .w && w != .w128
  | .fenceAcq _ _ | .fenceRel _ _ | .fenceAr _ _ => true
  | .cflush h a _ | .cinv h a _ | .czero h a _ => usesArith h.ext i.uses && a.isReg
  | .cpy _ _ _ _ _ _ _ _ _ | .cpym _ _ _ _ _ _ _ | .fput _ _ _ _ | .fget _ _ _ _ | .fsigSet _ _ _ | .fsigAdd _ _ _ =>
    usesPlain i.uses
  | .fred _ _ f _ _ _ _ => usesPlain i.uses && f.acc
  | .fatom _ op _ _ _ _ _ _ c => usesPlain i.uses && (op.readsC || c == .v 0)
  | .spawn h a _ | .waitmem h _ a _ => usesArith h.ext i.uses && a.isReg
  | .srd h _ | .swr h _ => !h.ext.is64 && usesPlain i.uses && (isReg32 (sysRegNum h.ext) || isReg64 (sysRegNum h.ext))
  | .tlbiPage h _ _ | .tlbiAsid h _ => usesArith h.ext i.uses
  | .tileNop len => len != 0
  | .tswr c _ | .tsrd c _ => ctlAssigned c
  | .tld _ _ _ _ _ | .tst _ _ _ _ | .tzero _ | .tmov _ _ | .tsend _ _ | .trecv _ _ | .tarrive _ | .twait _
  | .tloop _ _ _ | .tbra _ | .tend => true
  | .tmma _ _ _ fa fb fc _ | .tmmas _ _ _ _ fa fb fc _ =>
    fa.matrix && fb.matrix && fa.pairs fb && fc.acc && (match i with | .tmmas _ _ _ _ fa _ _ _ => fa != .fp32 | _ => true)
  | .tmmax _ _ _ fa fb fc _ _ => fa.mx && fb.mx && fc.acc
  | .tadd _ _ _ f => f.acc
  | .tscale _ _ f r _ => f.acc && r != 7
  | .tcvt _ _ fd fs _ r => fd.tcvt && fs.tcvt && r != 7
  | _ => false

end Sys2Proof
end

