-- ==== Sys2Proof/Decode.lean ====
section
/-! DEFINITION. From bits to instructions and back: the fields of R43, R45 and R57, the operand codes of R51, the
opcode tables of R55 and R57, the order of checks of R59 (framing, check 1, is in Machine/Issue), and the encoder. -/

namespace Sys2Proof

/-- Which decode fault an encoding gives (R59). -/
inductive DecodeFault where
  | illegalOpcode
  | illegalEncoding
  deriving DecidableEq, Repr

/-- A decoding in progress. -/
abbrev Dec := Except DecodeFault

/-- A check of R59 step 3. -/
def needFn (b : Bool) : Dec Unit := if b then .ok () else .error .illegalOpcode

/-- A check of R59 step 4. -/
def needEnc (b : Bool) : Dec Unit := if b then .ok () else .error .illegalEncoding

/-- The fields of a SIMT instruction (R43, R45). The length is that of ext; sc is 0 in the 64-bit form. -/
structure Raw where
  opc : BitVec 8
  g : Guard
  mod : BitVec 5
  dst : BitVec 8
  sa : BitVec 8
  sb : BitVec 8
  fn : BitVec 8
  sc : BitVec 8
  xmod : BitVec 24
  ext : Ext
  deriving DecidableEq, Repr

/-! ### Codes of single fields -/

/-- The operand of a code, by R51. -/
def opndOf (c : BitVec 8) : Dec Opnd :=
  if c.toNat < 0x80 then .ok (.v (c.truncate 7))
  else if c.toNat < 0xC0 then .ok (.s (c.truncate 6))
  else if c.toNat < 0xC8 then .ok (.p (c.truncate 3))
  else if c.toNat < 0xE0 then .error .illegalEncoding
  else if c.toNat < 0xF0 then .ok (.k (c.truncate 4))
  else if c = 0xF0 then .ok .lane
  else if c = 0xFF then .ok .imm
  else .error .illegalEncoding

/-- The code of an operand (R51). -/
def Opnd.code : Opnd → BitVec 8
  | .v n => 0#1 ++ n
  | .s n => 2#2 ++ n
  | .p n => 0x18#5 ++ n
  | .k n => 0xE#4 ++ n
  | .lane => 0xF0
  | .imm => 0xFF

/-- A predicate code (R52). -/
def predOf (c : BitVec 8) : Dec (BitVec 3) :=
  if c.toNat / 8 = 0x18 then .ok (c.truncate 3) else .error .illegalEncoding

def predCode (n : BitVec 3) : BitVec 8 := 0x18#5 ++ n

/-- A V register in the DST of XBEG and XEND (R202). -/
def vregOf (c : BitVec 8) : Dec (BitVec 7) :=
  if c.toNat < 0x80 then .ok (c.truncate 7) else .error .illegalEncoding

def vregCode (n : BitVec 7) : BitVec 8 := 0#1 ++ n

/-- A field that holds a number of w bits with zeros above it (the barrier and slide fields of R55). -/
def numOf (w : Nat) (c : BitVec 8) : Dec (BitVec w) :=
  if c.toNat < 2 ^ w then .ok (c.truncate w) else .error .illegalEncoding

def ityOf (c : BitVec 3) : ITy :=
  if c = 0 then .u32 else if c = 1 then .s32 else if c = 2 then .u16x2 else if c = 3 then .s16x2
  else if c = 4 then .u8x4 else if c = 5 then .s8x4 else if c = 6 then .u64 else .s64

def ITy.code : ITy → BitVec 3
  | .u32 => 0 | .s32 => 1 | .u16x2 => 2 | .s16x2 => 3 | .u8x4 => 4 | .s8x4 => 5 | .u64 => 6 | .s64 => 7

/-- A format code of 5 bits; none where reserved (R54). -/
def fmtOf (c : BitVec 5) : Option Fmt :=
  match c.toNat with
  | 0 => some .fp32 | 1 => some .fp64 | 2 => some .fp16 | 3 => some .bf16 | 4 => some .e4m3 | 5 => some .e5m2
  | 6 => some .e3m2 | 7 => some .e2m3 | 8 => some .e2m1 | 9 => some .e8m0
  | 16 => some .s32 | 17 => some .u32 | 18 => some .s64 | 19 => some .u64 | 20 => some .s16 | 21 => some .u16
  | 22 => some .s8 | 23 => some .u8 | 24 => some .s4 | 25 => some .u4
  | _ => none

def Fmt.code : Fmt → BitVec 5
  | .fp32 => 0 | .fp64 => 1 | .fp16 => 2 | .bf16 => 3 | .e4m3 => 4 | .e5m2 => 5 | .e3m2 => 6 | .e2m3 => 7
  | .e2m1 => 8 | .e8m0 => 9 | .s32 => 16 | .u32 => 17 | .s64 => 18 | .u64 => 19 | .s16 => 20 | .u16 => 21
  | .s8 => 22 | .u8 => 23 | .s4 => 24 | .u4 => 25

def widOf (c : BitVec 3) : Option Wid :=
  if c = 0 then some .w8 else if c = 1 then some .w16 else if c = 2 then some .w32 else if c = 3 then some .w64
  else if c = 4 then some .w128 else none

def Wid.code : Wid → BitVec 3
  | .w8 => 0 | .w16 => 1 | .w32 => 2 | .w64 => 3 | .w128 => 4

def spcOf (c : BitVec 2) : Option Spc :=
  if c = 0 then some .g else if c = 1 then some .s else if c = 2 then some .w else none

def Spc.code : Spc → BitVec 2
  | .g => 0 | .s => 1 | .w => 2

/-- The space of one bit of the atomic forms. -/
def spcBit (b : Bool) : Spc := if b then .s else .g

def Spc.bit : Spc → Bool
  | .s => true
  | _ => false

def scpOf (c : BitVec 3) : Option Scp :=
  if c = 0 then some .grp else if c = 1 then some .blk else if c = 2 then some .pkg else if c = 3 then some .cell
  else if c = 4 then some .pod else if c = 5 then some .sys else none

def Scp.code : Scp → BitVec 3
  | .grp => 0 | .blk => 1 | .pkg => 2 | .cell => 3 | .pod => 4 | .sys => 5

def ordOf (c : BitVec 2) : Ord :=
  if c = 0 then .none else if c = 1 then .acq else if c = 2 then .rel else .ar

def Ord.code : Ord → BitVec 2
  | .none => 0 | .acq => 1 | .rel => 2 | .ar => 3

def aopOf (c : BitVec 4) : Option Aop :=
  match c.toNat with
  | 0 => some .add | 1 => some .min | 2 => some .max | 3 => some .and | 4 => some .or | 5 => some .xor
  | 6 => some .exch | 7 => some .inc | 8 => some .dec | 9 => some .cas | _ => none

def Aop.code : Aop → BitVec 4
  | .add => 0 | .min => 1 | .max => 2 | .and => 3 | .or => 4 | .xor => 5 | .exch => 6 | .inc => 7 | .dec => 8 | .cas => 9

def atyOf (c : BitVec 2) : Aty :=
  if c = 0 then .u32 else if c = 1 then .s32 else if c = 2 then .u64 else .s64

def Aty.code : Aty → BitVec 2
  | .u32 => 0 | .s32 => 1 | .u64 => 2 | .s64 => 3

def iccOf (c : BitVec 3) : Option Icc :=
  if c = 0 then some .eq else if c = 1 then some .ne else if c = 2 then some .lt else if c = 3 then some .le
  else if c = 4 then some .gt else if c = 5 then some .ge else none

def Icc.code : Icc → BitVec 3
  | .eq => 0 | .ne => 1 | .lt => 2 | .le => 3 | .gt => 4 | .ge => 5

def fccOf (c : BitVec 4) : Option Fcc :=
  match c.toNat with
  | 0 => some .eq | 1 => some .ne | 2 => some .lt | 3 => some .le | 4 => some .gt | 5 => some .ge | 6 => some .num
  | 7 => some .nan | 8 => some .equ | 9 => some .neu | 10 => some .ltu | 11 => some .leu | 12 => some .gtu
  | 13 => some .geu | _ => none

def Fcc.code : Fcc → BitVec 4
  | .eq => 0 | .ne => 1 | .lt => 2 | .le => 3 | .gt => 4 | .ge => 5 | .num => 6 | .nan => 7 | .equ => 8 | .neu => 9
  | .ltu => 10 | .leu => 11 | .gtu => 12 | .geu => 13

def shflOf (c : BitVec 2) : ShflMode :=
  if c = 0 then .pick else if c = 1 then .cyc else if c = 2 then .slide else .xor

def ShflMode.code : ShflMode → BitVec 2
  | .pick => 0 | .cyc => 1 | .slide => 2 | .xor => 3

def reduxOf (c : BitVec 3) : Option ReduxOp :=
  if c = 0 then some .add else if c = 1 then some .min else if c = 2 then some .max else if c = 3 then some .and
  else if c = 4 then some .or else if c = 5 then some .xor else none

def ReduxOp.code : ReduxOp → BitVec 3
  | .add => 0 | .min => 1 | .max => 2 | .and => 3 | .or => 4 | .xor => 5

def fop3Of (c : BitVec 2) : Option FOp3 :=
  if c = 0 then some .add else if c = 1 then some .min else if c = 2 then some .max else none

def FOp3.code : FOp3 → BitVec 2
  | .add => 0 | .min => 1 | .max => 2

def dropOf (c : BitVec 2) : Option DropTy :=
  if c = 0 then some .fp32 else if c = 1 then some .fp16x2 else if c = 2 then some .bf16x2 else none

def DropTy.code : DropTy → BitVec 2
  | .fp32 => 0 | .fp16x2 => 1 | .bf16x2 => 2

def mxOf (c : BitVec 3) : Option MxElem :=
  if c = 0 then some .e4m3 else if c = 1 then some .e5m2 else if c = 2 then some .e3m2 else if c = 3 then some .e2m3
  else if c = 4 then some .e2m1 else if c = 5 then some .s8 else none

def MxElem.code : MxElem → BitVec 3
  | .e4m3 => 0 | .e5m2 => 1 | .e3m2 => 2 | .e2m3 => 3 | .e2m1 => 4 | .s8 => 5

def wcondOf (c : BitVec 2) : WCond :=
  if c = 0 then .eq else if c = 1 then .ne else if c = 2 then .ge else .lt

def WCond.code : WCond → BitVec 2
  | .eq => 0 | .ne => 1 | .ge => 2 | .lt => 3

/-- The formats of FRED: FN[3:2] 0 FP32, 1 BF16, 2 FP16 (R396). -/
def fredFmtOf (c : BitVec 2) : Option Fmt :=
  if c = 0 then some .fp32 else if c = 1 then some .bf16 else if c = 2 then some .fp16 else none

def fredFmtCode : Fmt → BitVec 2
  | .bf16 => 1
  | .fp16 => 2
  | _ => 0

/-- The pair field of R49. -/
def ppairOf (c : BitVec 8) : PPair :=
  ⟨c.extractLsb' 0 3, c.extractLsb' 3 3,
    if c.extractLsb' 6 2 = 0#2 then .n else if c.extractLsb' 6 2 = 1#2 then .u
    else if c.extractLsb' 6 2 = 2#2 then .a else .o⟩

def PairForm.code : PairForm → BitVec 2
  | .n => 0 | .u => 1 | .a => 2 | .o => 3

def PPair.code (p : PPair) : BitVec 8 := p.pf.code ++ p.pe ++ p.pd

/-- The floating MOD field (R44). -/
def fmodOf (m : BitVec 5) : FMod := ⟨m.getLsbD 0, m.getLsbD 1, m.extractLsb' 2 3⟩

def FMod.code (m : FMod) : BitVec 5 := m.rnd ++ BitVec.ofBool m.fzo ++ BitVec.ofBool m.fzi

/-- The FF flags of FN bits 1 to 6 (R54). -/
def ffOf (f : BitVec 8) : FF :=
  ⟨f.getLsbD 1, f.getLsbD 2, f.getLsbD 3, f.getLsbD 4, f.getLsbD 5, f.getLsbD 6⟩

/-- FN of a floating form, from bit 7, the FF flags and SAT. -/
def FF.code (f : FF) (b7 sat : Bool) : BitVec 8 :=
  BitVec.ofBool b7 ++ BitVec.ofBool f.ac ++ BitVec.ofBool f.ab ++ BitVec.ofBool f.aa ++ BitVec.ofBool f.nc
    ++ BitVec.ofBool f.nb ++ BitVec.ofBool f.na ++ BitVec.ofBool sat

/-- The barrier field of CPY and CPYM: DST[4] signals the barrier DST[3:0] (R55, R328). -/
def cbarOf (c : BitVec 8) : Dec (Option (BitVec 4)) :=
  if c.toNat / 16 = 1 then .ok (some (c.truncate 4)) else if c = 0 then .ok none else .error .illegalEncoding

def cbarCode : Option (BitVec 4) → BitVec 8
  | none => 0
  | some n => 1#4 ++ n

/-! ### Shape checks of R46 and R44 -/

namespace Raw

def hd (r : Raw) : Hd := ⟨r.g, r.ext⟩

/-- Operand fields that the form does not use hold 0x00 (R46 rule 2). -/
def only (r : Raw) (d a b c : Bool) : Dec Unit :=
  needEnc ((d || r.dst == 0) && (a || r.sa == 0) && (b || r.sb == 0) && (c || r.sc == 0))

/-- MOD is zero (R44). -/
def noMod (r : Raw) : Dec Unit := needEnc (r.mod == 0)

/-- Only MOD[27], SAT, may be set (R150). -/
def satMod (r : Raw) : Dec Bool := do
  needEnc (r.mod.toNat ≤ 1)
  return r.mod.getLsbD 0

/-- The low w bits of FN with zeros above them, or check 3 fails. -/
def fnBits (r : Raw) (w : Nat) : Dec (BitVec w) := do
  needFn (r.fn.toNat < 2 ^ w)
  return r.fn.truncate w

/-- FN must be 0x00. -/
def fn0 (r : Raw) : Dec Unit := needFn (r.fn == 0)

/-- The form takes 64 bits only. -/
def only64 (r : Raw) : Dec Unit := needEnc r.ext.is64

/-- X24 of a 96-bit-only form (family K). -/
def x24 (r : Raw) : Dec (BitVec 24) :=
  match r.ext with
  | .l96 x => .ok x
  | _ => .error .illegalEncoding

/-- FN for the .32 and .64 forms coded 0x00 and c. -/
def fnW64 (r : Raw) (c : BitVec 8) : Dec Bool := do
  needFn (r.fn == 0 || r.fn == c)
  return r.fn == c

end Raw

/-- The value of an Option, or check 3 fails. -/
def orFn {α : Type} : Option α → Dec α
  | some a => .ok a
  | none => .error .illegalOpcode

/-- The value of an Option, or check 4 fails. -/
def orEnc {α : Type} : Option α → Dec α
  | some a => .ok a
  | none => .error .illegalEncoding

/-! ### The operand shapes the forms share -/

/-- DST and SA (SB, SC zero). -/
def Raw.da (r : Raw) : Dec (Opnd × Opnd) := do
  r.only true true false false
  return (← opndOf r.dst, ← opndOf r.sa)

/-- DST, SA and SB (SC zero). -/
def Raw.dab (r : Raw) : Dec (Opnd × Opnd × Opnd) := do
  r.only true true true false
  return (← opndOf r.dst, ← opndOf r.sa, ← opndOf r.sb)

/-- DST, SA, SB and SC; no 64-bit form (R46 rule 3). -/
def Raw.dabc (r : Raw) : Dec (Opnd × Opnd × Opnd × Opnd) := do
  needEnc (!r.ext.is64)
  return (← opndOf r.dst, ← opndOf r.sa, ← opndOf r.sb, ← opndOf r.sc)

/-- SA and SB (DST, SC zero). -/
def Raw.ab (r : Raw) : Dec (Opnd × Opnd) := do
  r.only false true true false
  return (← opndOf r.sa, ← opndOf r.sb)

/-! ### The opcode tables of R55 -/

/-- Opcodes 0x00 to 0x13. -/
def decodeControl (r : Raw) : Dec Instr :=
  match r.opc.toNat with
  | 0x00 => do r.fn0; r.noMod; r.only false false false false; return .nop r.hd
  | 0x01 => do r.fn0; r.noMod; r.only false false false false; return .bra r.hd
  | 0x02 => do r.fn0; r.noMod; r.only64; r.only false true false false; return .brx r.g (← opndOf r.sa)
  | 0x03 => do r.fn0; r.noMod; r.only true false false false; return .call r.hd (← numOf 7 r.dst)
  | 0x04 => do
      r.fn0; r.noMod; r.only64; r.only true true false false
      return .callx r.g (← numOf 7 r.dst) (← opndOf r.sa)
  | 0x05 => do r.fn0; r.noMod; r.only64; r.only false false false false; return .ret r.g
  | 0x06 => do r.fn0; r.noMod; r.only64; r.only false false false false; return .exit r.g
  | 0x07 => do r.fn0; r.noMod; r.only64; r.only true true false false; return .alloc r.g r.dst r.sa
  | 0x08 => do
      needEnc (r.mod.toNat < 8)
      r.only true true true false
      return .plop r.hd (← predOf r.dst) (← predOf r.sa) (← predOf r.sb) (r.mod.truncate 3) r.fn
  | 0x09 => do
      let f ← r.fnBits 1
      r.noMod; r.only true true false false
      let d ← predOf r.dst
      let a ← predOf r.sa
      return if f = 0 then .pmov r.hd d a else .pmovNot r.hd d a
  | 0x0A => do
      let w ← r.fnBits 1
      needEnc (r.mod.toNat < 8)
      let (d, a, b) ← r.dab
      return .sel r.hd (w == 1) d a b (r.mod.truncate 3)
  | 0x0B => do
      needFn (r.fn.toNat ≤ 2)
      r.noMod
      let (d, a) ← r.da
      return .mov r.hd (if r.fn = 0 then .w32 else if r.fn = 1 then .w64 else .w128) d a
  | 0x0C => do
      let w ← r.fnBits 1
      r.noMod; r.only true false false false
      return .movi r.hd (w == 1) (← opndOf r.dst)
  | 0x0D => do
      let f ← r.fnBits 5
      needFn ((f.extractLsb' 2 3).toNat ≤ 5)
      r.noMod
      let (d, a, b) ← r.dab
      return .shfl r.hd (shflOf (f.extractLsb' 0 2)) (f.extractLsb' 2 3) d a b
  | 0x0E => do
      let f ← r.fnBits 2
      needFn (f != 3)
      r.noMod
      let (d, a) ← r.da
      return .qswap r.hd f d a
  | 0x0F => do
      let f ← r.fnBits 2
      r.noMod
      let (d, a) ← r.da
      return .qbcast r.hd f d a
  | 0x10 => do
      let f ← r.fnBits 2
      r.noMod; r.only true true false false
      let a ← predOf r.sa
      if f = 3 then return .voteBallot r.hd (← opndOf r.dst) a
      let d ← predOf r.dst
      return if f = 0 then .voteAll r.hd d a else if f = 1 then .voteAny r.hd d a else .voteUni r.hd d a
  | 0x11 => do
      let f ← r.fnBits 4
      let op ← orFn (reduxOf (f.extractLsb' 0 3))
      needFn (!f.getLsbD 3 || op == .min || op == .max)
      r.noMod
      let (d, a) ← r.da
      return .redux r.hd op (f.getLsbD 3) d a
  | 0x12 => do r.noMod; r.only64; r.only false false false false; return .brk r.hd r.fn
  | 0x13 => do
      let f ← r.fnBits 1
      r.noMod
      if f = 0 then
        r.only false false false false
        return .basteOff r.hd
      r.only false true false false
      return .basteOn r.hd (← opndOf r.sa)
  | _ => .error .illegalOpcode

/-- Opcodes 0x20 to 0x3C. -/
def decodeInt (r : Raw) : Dec Instr :=
  let it := ityOf (r.fn.extractLsb' 0 3)
  match r.opc.toNat with
  | 0x20 => do
      let f ← r.fnBits 4
      let sat ← r.satMod
      let (d, a, b) ← r.dab
      return .iadd r.hd it (f.getLsbD 3) sat d a b
  | 0x21 => do
      let _ ← r.fnBits 3
      needFn it.scalar
      r.noMod
      let (d, a, b, c) ← r.dabc
      return .iadd3 r.hd it d a b c
  | 0x22 => do
      let _ ← r.fnBits 3
      let sat ← r.satMod
      let (d, a, b) ← r.dab
      return .imul r.hd it sat d a b
  | 0x23 => do
      let _ ← r.fnBits 3
      needFn it.scalar
      r.noMod
      let (d, a, b) ← r.dab
      return .imulh r.hd it d a b
  | 0x24 => do
      let _ ← r.fnBits 1
      let sat ← r.satMod
      let (d, a, b, c) ← r.dabc
      return .imad r.hd it sat d a b c
  | 0x25 => do
      let _ ← r.fnBits 1
      r.noMod
      let (d, a, b, c) ← r.dabc
      return .imadW r.hd it d a b c
  | 0x26 => do
      let _ ← r.fnBits 3
      r.noMod
      let (d, a, b) ← r.dab
      return .imin r.hd it d a b
  | 0x27 => do
      let _ ← r.fnBits 3
      r.noMod
      let (d, a, b) ← r.dab
      return .imax r.hd it d a b
  | 0x28 => do
      let _ ← r.fnBits 3
      needFn it.signed
      let sat ← r.satMod
      let (d, a) ← r.da
      return .iabs r.hd it sat d a
  | 0x29 => do
      let _ ← r.fnBits 3
      needFn (it.regs == 1)
      r.noMod
      let (d, a, b, c) ← r.dabc
      return .isad r.hd it d a b c
  | 0x2A => do
      r.noMod
      let (d, a, b, c) ← r.dabc
      return .log3 r.hd r.fn d a b c
  | 0x2B => do
      let f ← r.fnBits 4
      r.noMod
      let (d, a, b) ← r.dab
      return .shl r.hd it (f.getLsbD 3) d a b
  | 0x2C => do
      let f ← r.fnBits 4
      r.noMod
      let (d, a, b) ← r.dab
      return .shr r.hd it (f.getLsbD 3) d a b
  | 0x2D => do
      let f ← r.fnBits 4
      r.noMod
      let (d, a, b) ← r.dab
      return .sar r.hd it (f.getLsbD 3) d a b
  | 0x2E => do
      let f ← r.fnBits 4
      needFn (it == .u32 || it == .u64)
      r.noMod
      let (d, a, b) ← r.dab
      return .rot r.hd it (f.getLsbD 3) d a b
  | 0x2F => do
      let f ← r.fnBits 2
      r.noMod
      let (d, a, b, c) ← r.dabc
      return .fsh r.hd (f.getLsbD 0) (f.getLsbD 1) d a b c
  | 0x30 => do
      let _ ← r.fnBits 3
      needFn it.scalar
      r.noMod
      let (d, a, b) ← r.dab
      return .bfx r.hd it d a b
  | 0x31 => do
      let _ ← r.fnBits 3
      needFn (it == .u32 || it == .u64)
      r.noMod
      let (d, a, b, c) ← r.dabc
      return .bfi r.hd it d a b c
  | 0x32 => do
      r.fn0; r.noMod
      let (d, a, b, c) ← r.dabc
      return .prmt r.hd d a b c
  | 0x33 => do
      let w ← r.fnW64 6
      r.noMod
      let (d, a) ← r.da
      return .popc r.hd w d a
  | 0x34 => do
      let w ← r.fnW64 6
      r.noMod
      let (d, a) ← r.da
      return .clz r.hd w d a
  | 0x35 => do
      let w ← r.fnW64 6
      r.noMod
      let (d, a) ← r.da
      return .ctz r.hd w d a
  | 0x36 => do
      let w ← r.fnW64 6
      r.noMod
      let (d, a) ← r.da
      return .brev r.hd w d a
  | 0x37 => do
      let f ← r.fnBits 4
      r.noMod
      let (d, a, b) ← r.dab
      return .lea r.hd (f.extractLsb' 0 3) (f.getLsbD 3) d a b
  | 0x38 => do
      let f ← r.fnBits 2
      let sat ← r.satMod
      let (d, a, b, c) ← r.dabc
      return .idp4 r.hd (f.getLsbD 0) (f.getLsbD 1) sat d a b c
  | 0x39 => do
      let f ← r.fnBits 3
      let sat ← r.satMod
      let (d, a, b, c) ← r.dabc
      return .idp2 r.hd (f.getLsbD 0) (f.getLsbD 1) (f.getLsbD 2) sat d a b c
  | 0x3A => do
      let f ← r.fnBits 6
      needFn it.scalar
      let cc ← orFn (iccOf (f.extractLsb' 3 3))
      r.noMod; r.only true true true false
      return .icmp r.hd it cc (ppairOf r.dst) (← opndOf r.sa) (← opndOf r.sb)
  | 0x3B => do
      r.fn0; r.noMod
      let (a, b) ← r.ab
      return .i2p r.hd a b
  | 0x3C => do
      r.fn0; r.noMod; r.only true false false false
      return .p2i r.hd (← opndOf r.dst)
  | _ => .error .illegalOpcode

/-- FN of a two-source floating form: FF without SAT, NEGC, ABSC and bit 7. -/
def Raw.ff2 (r : Raw) : Dec (FMod × FF × Opnd × Opnd × Opnd) := do
  needFn ((ffOf r.fn).two && !r.fn.getLsbD 0 && !r.fn.getLsbD 7)
  let (d, a, b) ← r.dab
  return (fmodOf r.mod, ffOf r.fn, d, a, b)

/-- FN of a three-source floating form: FF without SAT and bit 7. -/
def Raw.ff3 (r : Raw) : Dec (FMod × FF × Opnd × Opnd × Opnd × Opnd) := do
  needFn (!r.fn.getLsbD 0 && !r.fn.getLsbD 7)
  let (d, a, b, c) ← r.dabc
  return (fmodOf r.mod, ffOf r.fn, d, a, b, c)

/-- FN of a one-source floating form: FF bits 1 and 4. -/
def Raw.ff1 (r : Raw) : Dec (FMod × FF × Opnd × Opnd) := do
  needFn ((ffOf r.fn).one && !r.fn.getLsbD 0 && !r.fn.getLsbD 7)
  let (d, a) ← r.da
  return (fmodOf r.mod, ffOf r.fn, d, a)

/-- Opcodes 0x50 to 0x6A, the arithmetic of the floating pipe. -/
def decodeFloat (r : Raw) : Dec Instr :=
  match r.opc.toNat with
  | 0x50 => do let (m, f, d, a, b) ← r.ff2; return .fadd r.hd m f d a b
  | 0x51 => do let (m, f, d, a, b) ← r.ff2; return .fmul r.hd m f d a b
  | 0x52 => do let (m, f, d, a, b, c) ← r.ff3; return .ffma r.hd m f d a b c
  | 0x53 => do let (m, f, d, a, b) ← r.ff2; return .fmin r.hd m f d a b
  | 0x54 => do let (m, f, d, a, b) ← r.ff2; return .fmax r.hd m f d a b
  | 0x55 => do let (m, f, d, a) ← r.ff1; return .frnd r.hd m f d a
  | 0x56 => do
      r.fn0; r.noMod
      let (d, a) ← r.da
      return .fclass r.hd d a
  | 0x57 => do
      let f ← r.fnBits 4
      let cc ← orFn (fccOf f)
      r.only true true true false
      return .fcmp r.hd (fmodOf r.mod) cc (ppairOf r.dst) (← opndOf r.sa) (← opndOf r.sb)
  | 0x58 => do
      let f ← r.fnBits 2
      r.noMod
      if f = 0 ∨ f = 3 then
        r.only false true false false
        let a ← opndOf r.sa
        return if f = 0 then .fsetmodeWmode r.hd a else .fsetmodeCstat r.hd a
      r.only true false false false
      let d ← opndOf r.dst
      return if f = 1 then .fsetmodeRmode r.hd d else .fsetmodeRstat r.hd d
  | 0x59 => do let (m, f, d, a, b) ← r.ff2; return .dadd r.hd m f d a b
  | 0x5A => do let (m, f, d, a, b) ← r.ff2; return .dmul r.hd m f d a b
  | 0x5B => do let (m, f, d, a, b, c) ← r.ff3; return .dfma r.hd m f d a b c
  | 0x5C => do let (m, f, d, a, b) ← r.ff2; return .dmin r.hd m f d a b
  | 0x5D => do let (m, f, d, a, b) ← r.ff2; return .dmax r.hd m f d a b
  | 0x5E => do
      let f ← r.fnBits 4
      let cc ← orFn (fccOf f)
      r.only true true true false
      return .dcmp r.hd (fmodOf r.mod) cc (ppairOf r.dst) (← opndOf r.sa) (← opndOf r.sb)
  | 0x60 => do let (m, f, d, a, b) ← r.ff2; return .hadd2 r.hd m f d a b
  | 0x61 => do let (m, f, d, a, b) ← r.ff2; return .hmul2 r.hd m f d a b
  | 0x62 => do let (m, f, d, a, b, c) ← r.ff3; return .hfma2 r.hd m f d a b c
  | 0x63 => do
      needFn ((ffOf r.fn).two && !r.fn.getLsbD 0)
      let (d, a, b) ← r.dab
      return .hmnmx2 r.hd (fmodOf r.mod) (ffOf r.fn) (r.fn.getLsbD 7) d a b
  | 0x64 => do let (m, f, d, a, b) ← r.ff2; return .badd2 r.hd m f d a b
  | 0x65 => do let (m, f, d, a, b) ← r.ff2; return .bmul2 r.hd m f d a b
  | 0x66 => do let (m, f, d, a, b, c) ← r.ff3; return .bfma2 r.hd m f d a b c
  | 0x68 => do
      needFn (ffOf r.fn).two
      let (d, a, b) ← r.dab
      return .qadd4 r.hd (fmodOf r.mod) (ffOf r.fn) (r.fn.getLsbD 7) (r.fn.getLsbD 0) d a b
  | 0x69 => do
      needFn (ffOf r.fn).two
      let (d, a, b) ← r.dab
      return .qmul4 r.hd (fmodOf r.mod) (ffOf r.fn) (r.fn.getLsbD 7) (r.fn.getLsbD 0) d a b
  | 0x6A => do
      let (d, a, b, c) ← r.dabc
      return .qfma4 r.hd (fmodOf r.mod) (ffOf r.fn) (r.fn.getLsbD 7) (r.fn.getLsbD 0) d a b c
  | _ => .error .illegalOpcode

/-- Opcodes 0x70 to 0x81, conversions, special functions and hashed random numbers. -/
def decodeSpecial (r : Raw) : Dec Instr :=
  match r.opc.toNat with
  | 0x70 => do
      r.only true true true false
      needEnc (r.sb.toNat < 32)
      let fd ← orEnc (fmtOf (r.fn.extractLsb' 0 5))
      let fs ← orEnc (fmtOf (r.sb.truncate 5))
      return .cvt r.hd (fmodOf r.mod) fd fs (r.fn.extractLsb' 6 2) (r.fn.getLsbD 5) (← opndOf r.dst) (← opndOf r.sa)
  | 0x71 => do
      let f ← r.fnBits 5
      let e ← orFn (mxOf (f.extractLsb' 0 3))
      if f.getLsbD 4 then
        let (d, a, b) ← r.dab
        return .cvtmxQ r.hd (fmodOf r.mod) e (f.getLsbD 3) d a b
      let (d, a) ← r.da
      return .cvtmx r.hd (fmodOf r.mod) e (f.getLsbD 3) d a
  | 0x78 => do let (m, f, d, a) ← r.ff1; return .rcp r.hd m f d a
  | 0x79 => do let (m, f, d, a) ← r.ff1; return .rsq r.hd m f d a
  | 0x7A => do let (m, f, d, a) ← r.ff1; return .sqrt r.hd m f d a
  | 0x7B => do let (m, f, d, a) ← r.ff1; return .ex2 r.hd m f d a
  | 0x7C => do let (m, f, d, a) ← r.ff1; return .lg2 r.hd m f d a
  | 0x7D => do let (m, f, d, a) ← r.ff1; return .sin r.hd m f d a
  | 0x7E => do let (m, f, d, a) ← r.ff1; return .cos r.hd m f d a
  | 0x7F => do let (m, f, d, a) ← r.ff1; return .tanh r.hd m f d a
  | 0x80 => do
      r.fn0; r.noMod
      let (d, a, b, c) ← r.dabc
      return .hrand r.hd d a b c
  | 0x81 => do
      let f ← r.fnBits 2
      let t ← orFn (dropOf f)
      r.noMod
      let (d, a, b, c) ← r.dabc
      return .drop r.hd t d a b c
  | _ => .error .illegalOpcode

/-- The width, sign extension and space of a load or store: FN[2:0], FN[3], FN[5:4]. -/
def Raw.wsx (r : Raw) : Dec (Wid × Bool × Spc) := do
  let f ← r.fnBits 6
  let w ← orFn (widOf (f.extractLsb' 0 3))
  needFn (!f.getLsbD 3 || w == .w8 || w == .w16)
  let s ← orFn (spcOf (f.extractLsb' 4 2))
  needFn (s != .w)
  return (w, f.getLsbD 3, s)

/-- The MOD of the atomic forms: scope in MOD[29:27], space in MOD[30]. -/
def Raw.scpSpc (r : Raw) : Dec (Scp × Spc) := do
  needEnc (r.mod.toNat < 16)
  let c ← orEnc (scpOf (r.mod.truncate 3))
  return (c, spcBit (r.mod.getLsbD 3))

/-- Opcodes 0x90 to 0xBA. -/
def decodeMemory (r : Raw) : Dec Instr :=
  let hnt := r.mod.extractLsb' 1 2
  let nb := r.mod.getLsbD 0
  match r.opc.toNat with
  | 0x90 => do
      let (w, sx, sp) ← r.wsx
      needEnc (r.mod.toNat < 8)
      let (d, a) ← r.da
      return .ld r.hd w sx sp nb hnt d a
  | 0x91 => do
      let (w, sx, sp) ← r.wsx
      needFn (!sx)
      needEnc (r.mod.toNat < 8 && !nb)
      let (a, b) ← r.ab
      return .st r.hd w sp hnt a b
  | 0x92 => do
      let (w, sx, sp) ← r.wsx
      needFn (!sx && (w == .w64 || w == .w128))
      needEnc (r.mod.toNat < 8)
      let (d, a) ← r.da
      return .ldv r.hd w sp nb hnt d a
  | 0x93 => do
      let f ← r.fnBits 4
      let w ← orFn (widOf (f.extractLsb' 0 3))
      needFn (!f.getLsbD 3 || w == .w8 || w == .w16)
      needEnc (r.mod.toNat < 2)
      let (d, a) ← r.da
      return .ldw r.hd w (f.getLsbD 3) nb d a
  | 0x94 => do
      let op ← orFn (aopOf (r.fn.extractLsb' 0 4))
      needFn (op != .cas)
      let (c, sp) ← r.scpSpc
      r.only true true true op.readsC
      return .atom r.hd op (atyOf (r.fn.extractLsb' 4 2)) (ordOf (r.fn.extractLsb' 6 2)) c sp
        (← opndOf r.dst) (← opndOf r.sa) (← opndOf r.sb) (← opndOf r.sc)
  | 0x95 => do
      let op ← orFn (fop3Of (r.fn.extractLsb' 0 2))
      needFn ((r.fn.extractLsb' 2 4).toNat ≤ 1)
      let (c, sp) ← r.scpSpc
      let (d, a, b) ← r.dab
      return .atomf r.hd op (r.fn.getLsbD 2) (ordOf (r.fn.extractLsb' 6 2)) c sp d a b
  | 0x96 => do
      needFn (r.fn.extractLsb' 0 4 == 0 && !r.fn.getLsbD 5)
      let (c, sp) ← r.scpSpc
      let (d, a, b, x) ← r.dabc
      return .cas r.hd (r.fn.getLsbD 4) (ordOf (r.fn.extractLsb' 6 2)) c sp d a b x
  | 0x97 => do
      needFn (r.fn.extractLsb' 0 6 == 0)
      let (c, sp) ← r.scpSpc
      let (d, a, b, x) ← r.dabc
      return .cas128 r.hd (ordOf (r.fn.extractLsb' 6 2)) c sp d a b x
  | 0x98 => do
      let op ← orFn (aopOf (r.fn.extractLsb' 0 4))
      needFn (op != .cas && op != .exch && !r.fn.getLsbD 6)
      let (c, sp) ← r.scpSpc
      r.only false true true op.readsC
      return .red r.hd op (atyOf (r.fn.extractLsb' 4 2)) (ordOf (r.fn.extractLsb' 6 2)) c sp
        (← opndOf r.sa) (← opndOf r.sb) (← opndOf r.sc)
  | 0x99 => do
      let f ← r.fnBits 1
      needEnc (r.mod.toNat < 8 && !nb)
      r.only false true false false
      return .pref r.hd (f == 1) hnt (← opndOf r.sa)
  | 0x9A => do r.fn0; r.noMod; r.only true false false false; return .xbeg r.hd (← vregOf r.dst)
  | 0x9B => do r.fn0; r.noMod; r.only true false false false; return .xend r.hd (← vregOf r.dst)
  | 0x9C => do r.noMod; r.only false false false false; return .xabt r.hd r.fn
  | 0xA0 => do
      let (w, sx, sp) ← r.wsx
      needFn (w != .w128)
      let c ← orEnc (scpOf (r.mod.truncate 3))
      let (d, a) ← r.da
      return .lda r.hd w sx sp c (r.mod.extractLsb' 3 2) d a
  | 0xA1 => do
      let (w, sx, sp) ← r.wsx
      needFn (!sx && w != .w128)
      let c ← orEnc (scpOf (r.mod.truncate 3))
      let (a, b) ← r.ab
      return .strel r.hd w sp c (r.mod.extractLsb' 3 2) a b
  | 0xA2 => do
      let f ← r.fnBits 2
      needFn (f != 3)
      needEnc (r.mod.toNat < 8)
      let c ← orEnc (scpOf (r.mod.truncate 3))
      r.only64; r.only false false false false
      return if f = 0 then .fenceAcq r.g c else if f = 1 then .fenceRel r.g c else .fenceAr r.g c
  | 0xB8 => do
      r.fn0; r.noMod
      let (a, b) ← r.ab
      return .cflush r.hd a b
  | 0xB9 => do
      r.fn0; r.noMod
      let (a, b) ← r.ab
      return .cinv r.hd a b
  | 0xBA => do
      r.fn0; r.noMod
      let (a, b) ← r.ab
      return .czero r.hd a b
  | _ => .error .illegalOpcode

/-- Opcodes 0xC0 to 0xFD outside the tile range. -/
def decodeSystem (r : Raw) : Dec Instr :=
  match r.opc.toNat with
  | 0xC0 => do
      let f ← r.fnBits 4
      let ds ← orFn (spcOf (f.extractLsb' 0 2))
      let ss ← orFn (spcOf (f.extractLsb' 2 2))
      r.noMod
      let x ← r.x24
      needEnc (x.toNat < 2 ^ 18)
      return .cpy r.g ds ss (← cbarOf r.dst) (x.truncate 16) (x.extractLsb' 16 2) (← opndOf r.sa) (← opndOf r.sb)
        (← opndOf r.sc)
  | 0xC1 => do
      let f ← r.fnBits 4
      needFn (f.extractLsb' 0 2 == 1)
      let ss ← orFn (spcOf (f.extractLsb' 2 2))
      r.noMod
      let x ← r.x24
      return .cpym r.g ss (← cbarOf r.dst) x (← opndOf r.sa) (← opndOf r.sb) (← opndOf r.sc)
  | 0xC2 => do r.fn0; r.noMod; r.only true false false false; return .cseal r.hd (← opndOf r.dst)
  | 0xC3 => do r.fn0; r.noMod; r.only false true false false; return .cwait r.hd (← opndOf r.sa)
  | 0xC4 => do
      let f ← r.fnBits 3
      r.noMod; r.only true false false false
      return .crdptr r.hd f (← opndOf r.dst)
  | 0xC5 => do r.fn0; r.noMod; r.only true false false false; return .cfixq r.hd (← opndOf r.dst)
  | 0xC8 => do
      r.fn0; r.noMod; r.only true true true false
      return .bari r.hd (← numOf 4 r.dst) (← opndOf r.sa) (← opndOf r.sb)
  | 0xC9 => do r.fn0; r.noMod; r.only true false false false; return .bara r.hd (← numOf 4 r.dst)
  | 0xCA => do r.fn0; r.noMod; r.only true false false false; return .barw r.hd (← numOf 4 r.dst)
  | 0xCB => do
      r.fn0; r.noMod; r.only true false true false
      return .barx r.hd (← numOf 4 r.dst) (← opndOf r.sb)
  | 0xD0 => do
      r.fn0; r.noMod; r.only false true true true
      let x ← r.x24
      needEnc (x == 0)
      return .fput r.g (← opndOf r.sa) (← opndOf r.sb) (← opndOf r.sc)
  | 0xD1 => do
      r.fn0; r.noMod; r.only false true true true
      let x ← r.x24
      needEnc (x == 0)
      return .fget r.g (← opndOf r.sa) (← opndOf r.sb) (← opndOf r.sc)
  | 0xD2 => do
      let f ← r.fnBits 1
      r.noMod
      let x ← r.x24
      needEnc (x == 0)
      let (a, b) ← r.ab
      return if f = 0 then .fsigSet r.g a b else .fsigAdd r.g a b
  | 0xD3 => do
      let f ← r.fnBits 4
      let op ← orFn (fop3Of (f.extractLsb' 0 2))
      let fm ← orFn (fredFmtOf (f.extractLsb' 2 2))
      r.noMod; r.only false true true true
      let x ← r.x24
      needEnc (x.toNat < 2 ^ 16)
      return .fred r.g op fm (x.truncate 16) (← opndOf r.sa) (← opndOf r.sb) (← opndOf r.sc)
  | 0xD4 => do
      let op ← orFn (aopOf (r.fn.extractLsb' 0 4))
      r.noMod
      r.only true true true op.readsC
      let x ← r.x24
      needEnc (x.toNat < 8)
      let c ← orEnc (scpOf (x.truncate 3))
      return .fatom r.g op (atyOf (r.fn.extractLsb' 4 2)) (ordOf (r.fn.extractLsb' 6 2)) c
        (← opndOf r.dst) (← opndOf r.sa) (← opndOf r.sb) (← opndOf r.sc)
  | 0xF0 => do
      r.fn0; r.noMod
      let (a, b) ← r.ab
      return .spawn r.hd a b
  | 0xF1 => do r.fn0; r.noMod; r.only false false false false; return .yield r.hd
  | 0xF2 => do
      let f ← r.fnBits 2
      r.noMod
      let (a, b) ← r.ab
      return .waitmem r.hd (wcondOf f) a b
  | 0xF3 => do r.fn0; r.noMod; r.only false true false false; return .sleep r.hd (← opndOf r.sa)
  | 0xF8 => do r.noMod; r.only64; r.only false false false false; return .trap r.g r.fn
  | 0xF9 => do r.fn0; r.noMod; r.only64; r.only false false false false; return .eret r.g
  | 0xFA => do r.fn0; r.noMod; r.only true false false false; return .srd r.hd (← opndOf r.dst)
  | 0xFB => do r.fn0; r.noMod; r.only false true false false; return .swr r.hd (← opndOf r.sa)
  | 0xFC => do r.fn0; r.noMod; r.only64; r.only false false false false; return .halt r.g
  | 0xFD => do
      let f ← r.fnBits 2
      needFn (f != 3)
      r.noMod
      if f = 0 then
        let (a, b) ← r.ab
        return .tlbiPage r.hd a b
      if f = 1 then
        r.only false false true false
        return .tlbiAsid r.hd (← opndOf r.sb)
      r.only false false false false
      return .tlbiAll r.hd
  | _ => .error .illegalOpcode

/-- The form of an instruction, before the checks that Instr.wf repeats. -/
def decodeForm (r : Raw) : Dec Instr :=
  if r.opc.toNat < 0x20 then decodeControl r
  else if r.opc.toNat < 0x50 then decodeInt r
  else if r.opc.toNat < 0x70 then decodeFloat r
  else if r.opc.toNat < 0x90 then decodeSpecial r
  else if r.opc.toNat < 0xC0 then decodeMemory r
  else decodeSystem r

/-- The SIMT instruction of a set of fields: checks 2, 3 and 4 of R59. -/
def decodeRaw (r : Raw) : Dec Instr := do
  let i ← decodeForm r
  needEnc (r.xmod == 0)
  needEnc i.wf
  return i

/-! ### Tile streams (R57, R350, R374) -/

/-- The fields of a tile instruction; n is the length in words, 2, 3 or 4. -/
structure TRaw where
  n : BitVec 3
  opc : BitVec 8
  td : BitVec 4
  ta : BitVec 4
  tb : BitVec 4
  tc : BitVec 4
  tmod : BitVec 6
  aux : BitVec 8
  tfn : BitVec 24
  timm : Word
  timm2 : Word
  deriving DecidableEq, Repr

namespace TRaw

/-- Length, and unused tile fields and TMOD bits zero (R350). -/
def shape (r : TRaw) (n : BitVec 3) (d a b c rnd : Bool) : Dec Unit :=
  needEnc (r.n == n && (d || r.td == 0) && (a || r.ta == 0) && (b || r.tb == 0) && (c || r.tc == 0)
    && r.tmod.extractLsb' 3 3 == 0 && (rnd || r.tmod == 0))

/-- TFN below 2^w and AUX below 2^v (check 3). -/
def codes (r : TRaw) (w v : Nat) : Dec Unit := needFn (r.tfn.toNat < 2 ^ w && r.aux.toNat < 2 ^ v)

/-- The three formats and the accumulate bit of a matrix form (R368). -/
def mm (r : TRaw) : Dec (Fmt × Fmt × Fmt × Bool) := do
  needFn (r.tfn.toNat < 2 ^ 16)
  let fa ← orFn (fmtOf (r.tfn.extractLsb' 0 5))
  let fb ← orFn (fmtOf (r.tfn.extractLsb' 5 5))
  let fc ← orFn (fmtOf (r.tfn.extractLsb' 10 5))
  return (fa, fb, fc, r.tfn.getLsbD 15)

end TRaw

/-- The form of a tile instruction. -/
def decodeTForm (r : TRaw) : Dec Instr :=
  match r.opc.toNat with
  | 0x00 => do
      r.codes 0 0
      needEnc (r.td == 0 && r.ta == 0 && r.tb == 0 && r.tc == 0 && r.tmod == 0 && r.timm == 0 && r.timm2 == 0)
      return .tileNop ((r.n - 1).truncate 2)
  | 0xE0 => do
      needFn (r.tfn.toNat < 2 && ctlAssigned r.aux)
      r.shape 3 false false false false false
      return if r.tfn = 0 then .tswr r.aux r.timm else .tsrd r.aux r.timm
  | 0xE1 => do
      r.codes 3 0
      r.shape 4 true false false false false
      return .tld r.td (r.tfn.truncate 2) (r.tfn.getLsbD 2) r.timm r.timm2
  | 0xE2 => do
      r.codes 3 0
      needFn (r.tfn.extractLsb' 0 2 == 0)
      r.shape 4 false true false false false
      return .tst r.ta (r.tfn.getLsbD 2) r.timm r.timm2
  | 0xE3 => do
      r.codes 1 0
      if r.tfn = 0 then
        r.shape 2 true false false false false
        return .tzero r.td
      r.shape 2 true true false false false
      return .tmov r.td r.ta
  | 0xE4 => do
      r.codes 0 2
      r.shape 2 false true false false false
      return .tsend (r.aux.truncate 2) r.ta
  | 0xE5 => do
      r.codes 0 2
      r.shape 2 true false false false false
      return .trecv (r.aux.truncate 2) r.td
  | 0xE6 => do
      r.codes 1 4
      r.shape 2 false false false false false
      return if r.tfn = 0 then .tarrive (r.aux.truncate 4) else .twait (r.aux.truncate 4)
  | 0xE7 => do
      r.codes 0 2
      r.shape 4 false false false false false
      return .tloop (r.aux.truncate 2) r.timm r.timm2
  | 0xE8 => do
      r.codes 0 0
      r.shape 3 false false false false false
      return .tbra r.timm
  | 0xE9 => do
      r.codes 0 0
      r.shape 2 false false false false false
      return .tend
  | 0xEA => do
      let (fa, fb, fc, acc) ← r.mm
      needFn (r.aux == 0 && fa.matrix && fb.matrix && fa.pairs fb && fc.acc)
      r.shape 2 true true true false false
      return .tmma r.td r.ta r.tb fa fb fc acc
  | 0xEB => do
      let (fa, fb, fc, acc) ← r.mm
      needFn (r.aux.toNat < 4 && fa.mx && fb.mx && fc.acc)
      r.shape 2 true true true false false
      return .tmmax r.td r.ta r.tb fa fb fc acc (r.aux.truncate 2)
  | 0xEC => do
      let (fa, fb, fc, acc) ← r.mm
      needFn (r.aux == 0 && fa.matrix && fb.matrix && fa.pairs fb && fa != .fp32 && fc.acc)
      r.shape 2 true true true true false
      return .tmmas r.td r.ta r.tb r.tc fa fb fc acc
  | 0xED => do
      r.codes 6 0
      let f ← orFn (fmtOf (r.tfn.extractLsb' 1 5))
      needFn f.acc
      if r.tfn.getLsbD 0 then
        r.shape 3 true true false false true
        return .tscale r.td r.ta f (r.tmod.truncate 3) r.timm
      r.shape 2 true true true false false
      return .tadd r.td r.ta r.tb f
  | 0xEE => do
      r.codes 11 0
      let fd ← orFn (fmtOf (r.tfn.extractLsb' 0 5))
      let fs ← orFn (fmtOf (r.tfn.extractLsb' 5 5))
      needFn (fd.tcvt && fs.tcvt)
      r.shape 2 true true false false true
      return .tcvt r.td r.ta fd fs (r.tfn.getLsbD 10) (r.tmod.truncate 3)
  | _ => .error .illegalOpcode

/-- The tile instruction of a set of fields. -/
def decodeTRaw (r : TRaw) : Dec Instr := do
  let i ← decodeTForm r
  needEnc i.wf
  return i

/-! ### Words and fields -/

/-- The number of words a first word's length code gives; none for code 00 (R38). -/
def lenWords (w0 : Word) : Option Nat :=
  match (w0.extractLsb' 0 2).toNat with
  | 1 => some 2
  | 2 => some 3
  | 3 => some 4
  | _ => none

/-- The SIMT fields of an instruction's words; words past its length are not read. -/
def Raw.ofWords (w0 w1 w2 w3 : Word) : Raw where
  opc := w0.extractLsb' 2 8
  g := ⟨w0.extractLsb' 10 8, w0.extractLsb' 18 3, w0.extractLsb' 21 3, w0.extractLsb' 24 3⟩
  mod := w0.extractLsb' 27 5
  dst := w1.extractLsb' 0 8
  sa := w1.extractLsb' 8 8
  sb := w1.extractLsb' 16 8
  fn := w1.extractLsb' 24 8
  sc := if w0.extractLsb' 0 2 = 1#2 then 0 else w2.extractLsb' 0 8
  xmod := if w0.extractLsb' 0 2 = 3#2 then w2.extractLsb' 8 24 else 0
  ext := if w0.extractLsb' 0 2 = 1#2 then .l64
    else if w0.extractLsb' 0 2 = 2#2 then .l96 (w2.extractLsb' 8 24) else .l128 w3

/-- The tile fields of an instruction's words. -/
def TRaw.ofWords (w0 w1 w2 w3 : Word) : TRaw where
  n := 0#1 ++ w0.extractLsb' 0 2 + 1
  opc := w0.extractLsb' 2 8
  td := w0.extractLsb' 10 4
  ta := w0.extractLsb' 14 4
  tb := w0.extractLsb' 18 4
  tc := w0.extractLsb' 22 4
  tmod := w0.extractLsb' 26 6
  aux := w1.extractLsb' 0 8
  tfn := w1.extractLsb' 8 24
  timm := if w0.extractLsb' 0 2 = 1#2 then 0 else w2
  timm2 := if w0.extractLsb' 0 2 = 3#2 then w3 else 0

/-- The instruction of the words of a SIMT stream, after framing. -/
def decodeSimt (w0 w1 w2 w3 : Word) : Dec Instr := decodeRaw (Raw.ofWords w0 w1 w2 w3)

/-- The instruction of the words of a tile stream, after framing. -/
def decodeTile (w0 w1 w2 w3 : Word) : Dec Instr := decodeTRaw (TRaw.ofWords w0 w1 w2 w3)

/-- Whether a first word's opcode is one of the tile streams' own, 0xE0 to 0xEF (R58). -/
def tileOpcode (w0 : Word) : Bool := (w0.extractLsb' 2 8).toNat / 16 == 0xE

/-- The decoder on an instruction numbered as the opcode table numbers it: bit 0 is the least significant bit of
the first word. Words of opcode 0xE0 to 0xEF are read as a tile stream, all others as a SIMT stream. -/
def decodeTableWord (nbits w : Nat) : Option Instr :=
  let x := w % 2 ^ nbits
  let w0 := BitVec.ofNat 32 x
  let w1 := BitVec.ofNat 32 (x / 2 ^ 32)
  let w2 := BitVec.ofNat 32 (x / 2 ^ 64)
  let w3 := BitVec.ofNat 32 (x / 2 ^ 96)
  match lenWords w0 with
  | none => none
  | some _ =>
    match (if tileOpcode w0 then decodeTile w0 w1 w2 w3 else decodeSimt w0 w1 w2 w3) with
    | .ok i => some i
    | .error _ => none

/-! ### The encoder (R43, R45, R55, R57) -/

/-- The SIMT fields of a form: opcode, header, FN, MOD and the operand codes. -/
def Hd.raw (h : Hd) (opc fn : BitVec 8) (mod : BitVec 5) (dst sa sb sc : BitVec 8) : Raw :=
  ⟨opc, h.g, mod, dst, sa, sb, fn, sc, 0, h.ext⟩

def Guard.h64 (g : Guard) : Hd := ⟨g, .l64⟩
def Guard.h96 (g : Guard) (x : BitVec 24) : Hd := ⟨g, .l96 x⟩

/-- FN from a type code and the bit above it. -/
def itFn (it : ITy) (b3 : Bool) : BitVec 8 := 0#4 ++ BitVec.ofBool b3 ++ it.code

/-- A one-bit MOD[27]. -/
def mod27 (b : Bool) : BitVec 5 := 0#4 ++ BitVec.ofBool b

def bit8 (b : Bool) : BitVec 8 := 0#7 ++ BitVec.ofBool b

/-- FN of a load or store: width, sign extension, space. -/
def memFn (w : Wid) (sx : Bool) (sp : Spc) : BitVec 8 := 0#2 ++ sp.code ++ BitVec.ofBool sx ++ w.code

/-- MOD of a load or store: NB and the reuse hint. -/
def memMod (nb : Bool) (hnt : BitVec 2) : BitVec 5 := 0#2 ++ hnt ++ BitVec.ofBool nb

/-- FN of ATOM, RED and FATOM. -/
def atomFn (op : Aop) (ty : Aty) (ord : Ord) : BitVec 8 := ord.code ++ ty.code ++ op.code

/-- MOD of the atomic forms. -/
def atomMod (scp : Scp) (sp : Spc) : BitVec 5 := 0#1 ++ BitVec.ofBool sp.bit ++ scp.code

/-- MOD of LDA and STREL. -/
def ldaMod (scp : Scp) (hnt : BitVec 2) : BitVec 5 := hnt ++ scp.code

/-- The fields of a SIMT instruction; none for tile forms and events. -/
def encodeRaw : Instr → Option Raw
  | .nop h => some (h.raw 0x00 0 0 0 0 0 0)
  | .bra h => some (h.raw 0x01 0 0 0 0 0 0)
  | .brx g a => some (g.h64.raw 0x02 0 0 0 a.code 0 0)
  | .call h k => some (h.raw 0x03 0 0 (0#1 ++ k) 0 0 0)
  | .callx g k a => some (g.h64.raw 0x04 0 0 (0#1 ++ k) a.code 0 0)
  | .ret g => some (g.h64.raw 0x05 0 0 0 0 0 0)
  | .exit g => some (g.h64.raw 0x06 0 0 0 0 0 0)
  | .alloc g n l => some (g.h64.raw 0x07 0 0 n l 0 0)
  | .plop h d a b c t => some (h.raw 0x08 t (0#2 ++ c) (predCode d) (predCode a) (predCode b) 0)
  | .pmov h d a => some (h.raw 0x09 0 0 (predCode d) (predCode a) 0 0)
  | .pmovNot h d a => some (h.raw 0x09 1 0 (predCode d) (predCode a) 0 0)
  | .sel h w d a b c => some (h.raw 0x0A (bit8 w) (0#2 ++ c) d.code a.code b.code 0)
  | .mov h w d a => some (h.raw 0x0B (match w with | .w64 => 1 | .w128 => 2 | _ => 0) 0 d.code a.code 0 0)
  | .movi h w d => some (h.raw 0x0C (bit8 w) 0 d.code 0 0 0)
  | .shfl h m seg d a b => some (h.raw 0x0D (0#3 ++ seg ++ m.code) 0 d.code a.code b.code 0)
  | .qswap h m d a => some (h.raw 0x0E (0#6 ++ m) 0 d.code a.code 0 0)
  | .qbcast h q d a => some (h.raw 0x0F (0#6 ++ q) 0 d.code a.code 0 0)
  | .voteAll h d a => some (h.raw 0x10 0 0 (predCode d) (predCode a) 0 0)
  | .voteAny h d a => some (h.raw 0x10 1 0 (predCode d) (predCode a) 0 0)
  | .voteUni h d a => some (h.raw 0x10 2 0 (predCode d) (predCode a) 0 0)
  | .voteBallot h d a => some (h.raw 0x10 3 0 d.code (predCode a) 0 0)
  | .redux h op sgn d a => some (h.raw 0x11 (0#4 ++ BitVec.ofBool sgn ++ op.code) 0 d.code a.code 0 0)
  | .brk h code => some (h.raw 0x12 code 0 0 0 0 0)
  | .basteOff h => some (h.raw 0x13 0 0 0 0 0 0)
  | .basteOn h a => some (h.raw 0x13 1 0 0 a.code 0 0)
  | .iadd h it sub sat d a b => some (h.raw 0x20 (itFn it sub) (mod27 sat) d.code a.code b.code 0)
  | .iadd3 h it d a b c => some (h.raw 0x21 (itFn it false) 0 d.code a.code b.code c.code)
  | .imul h it sat d a b => some (h.raw 0x22 (itFn it false) (mod27 sat) d.code a.code b.code 0)
  | .imulh h it d a b => some (h.raw 0x23 (itFn it false) 0 d.code a.code b.code 0)
  | .imad h it sat d a b c => some (h.raw 0x24 (itFn it false) (mod27 sat) d.code a.code b.code c.code)
  | .imadW h it d a b c => some (h.raw 0x25 (itFn it false) 0 d.code a.code b.code c.code)
  | .imin h it d a b => some (h.raw 0x26 (itFn it false) 0 d.code a.code b.code 0)
  | .imax h it d a b => some (h.raw 0x27 (itFn it false) 0 d.code a.code b.code 0)
  | .iabs h it sat d a => some (h.raw 0x28 (itFn it false) (mod27 sat) d.code a.code 0 0)
  | .isad h it d a b c => some (h.raw 0x29 (itFn it false) 0 d.code a.code b.code c.code)
  | .log3 h t d a b c => some (h.raw 0x2A t 0 d.code a.code b.code c.code)
  | .shl h it cl d a b => some (h.raw 0x2B (itFn it cl) 0 d.code a.code b.code 0)
  | .shr h it cl d a b => some (h.raw 0x2C (itFn it cl) 0 d.code a.code b.code 0)
  | .sar h it cl d a b => some (h.raw 0x2D (itFn it cl) 0 d.code a.code b.code 0)
  | .rot h it rt d a b => some (h.raw 0x2E (itFn it rt) 0 d.code a.code b.code 0)
  | .fsh h rt cl d a b c => some (h.raw 0x2F (0#6 ++ BitVec.ofBool cl ++ BitVec.ofBool rt) 0 d.code a.code b.code c.code)
  | .bfx h it d a b => some (h.raw 0x30 (itFn it false) 0 d.code a.code b.code 0)
  | .bfi h it d a b c => some (h.raw 0x31 (itFn it false) 0 d.code a.code b.code c.code)
  | .prmt h d a b c => some (h.raw 0x32 0 0 d.code a.code b.code c.code)
  | .popc h w d a => some (h.raw 0x33 (if w then 6 else 0) 0 d.code a.code 0 0)
  | .clz h w d a => some (h.raw 0x34 (if w then 6 else 0) 0 d.code a.code 0 0)
  | .ctz h w d a => some (h.raw 0x35 (if w then 6 else 0) 0 d.code a.code 0 0)
  | .brev h w d a => some (h.raw 0x36 (if w then 6 else 0) 0 d.code a.code 0 0)
  | .lea h sft sgn d a b => some (h.raw 0x37 (0#4 ++ BitVec.ofBool sgn ++ sft) 0 d.code a.code b.code 0)
  | .idp4 h sa sb sat d a b c =>
    some (h.raw 0x38 (0#6 ++ BitVec.ofBool sb ++ BitVec.ofBool sa) (mod27 sat) d.code a.code b.code c.code)
  | .idp2 h sa sb hi sat d a b c =>
    some (h.raw 0x39 (0#5 ++ BitVec.ofBool hi ++ BitVec.ofBool sb ++ BitVec.ofBool sa) (mod27 sat) d.code a.code b.code
      c.code)
  | .icmp h it cc pp a b => some (h.raw 0x3A (0#2 ++ cc.code ++ it.code) 0 pp.code a.code b.code 0)
  | .i2p h a b => some (h.raw 0x3B 0 0 0 a.code b.code 0)
  | .p2i h d => some (h.raw 0x3C 0 0 d.code 0 0 0)
  | .fadd h m f d a b => some (h.raw 0x50 (f.code false false) m.code d.code a.code b.code 0)
  | .fmul h m f d a b => some (h.raw 0x51 (f.code false false) m.code d.code a.code b.code 0)
  | .ffma h m f d a b c => some (h.raw 0x52 (f.code false false) m.code d.code a.code b.code c.code)
  | .fmin h m f d a b => some (h.raw 0x53 (f.code false false) m.code d.code a.code b.code 0)
  | .fmax h m f d a b => some (h.raw 0x54 (f.code false false) m.code d.code a.code b.code 0)
  | .frnd h m f d a => some (h.raw 0x55 (f.code false false) m.code d.code a.code 0 0)
  | .fclass h d a => some (h.raw 0x56 0 0 d.code a.code 0 0)
  | .fcmp h m cc pp a b => some (h.raw 0x57 (0#4 ++ cc.code) m.code pp.code a.code b.code 0)
  | .fsetmodeWmode h a => some (h.raw 0x58 0 0 0 a.code 0 0)
  | .fsetmodeRmode h d => some (h.raw 0x58 1 0 d.code 0 0 0)
  | .fsetmodeRstat h d => some (h.raw 0x58 2 0 d.code 0 0 0)
  | .fsetmodeCstat h a => some (h.raw 0x58 3 0 0 a.code 0 0)
  | .dadd h m f d a b => some (h.raw 0x59 (f.code false false) m.code d.code a.code b.code 0)
  | .dmul h m f d a b => some (h.raw 0x5A (f.code false false) m.code d.code a.code b.code 0)
  | .dfma h m f d a b c => some (h.raw 0x5B (f.code false false) m.code d.code a.code b.code c.code)
  | .dmin h m f d a b => some (h.raw 0x5C (f.code false false) m.code d.code a.code b.code 0)
  | .dmax h m f d a b => some (h.raw 0x5D (f.code false false) m.code d.code a.code b.code 0)
  | .dcmp h m cc pp a b => some (h.raw 0x5E (0#4 ++ cc.code) m.code pp.code a.code b.code 0)
  | .hadd2 h m f d a b => some (h.raw 0x60 (f.code false false) m.code d.code a.code b.code 0)
  | .hmul2 h m f d a b => some (h.raw 0x61 (f.code false false) m.code d.code a.code b.code 0)
  | .hfma2 h m f d a b c => some (h.raw 0x62 (f.code false false) m.code d.code a.code b.code c.code)
  | .hmnmx2 h m f mx d a b => some (h.raw 0x63 (f.code mx false) m.code d.code a.code b.code 0)
  | .badd2 h m f d a b => some (h.raw 0x64 (f.code false false) m.code d.code a.code b.code 0)
  | .bmul2 h m f d a b => some (h.raw 0x65 (f.code false false) m.code d.code a.code b.code 0)
  | .bfma2 h m f d a b c => some (h.raw 0x66 (f.code false false) m.code d.code a.code b.code c.code)
  | .qadd4 h m f e5 sat d a b => some (h.raw 0x68 (f.code e5 sat) m.code d.code a.code b.code 0)
  | .qmul4 h m f e5 sat d a b => some (h.raw 0x69 (f.code e5 sat) m.code d.code a.code b.code 0)
  | .qfma4 h m f e5 sat d a b c => some (h.raw 0x6A (f.code e5 sat) m.code d.code a.code b.code c.code)
  | .cvt h m fd fs pk sat d a =>
    some (h.raw 0x70 (pk ++ BitVec.ofBool sat ++ fd.code) m.code d.code a.code (0#3 ++ fs.code) 0)
  | .cvtmx h m e sat d a => some (h.raw 0x71 (0#4 ++ BitVec.ofBool sat ++ e.code) m.code d.code a.code 0 0)
  | .cvtmxQ h m e sat d a b => some (h.raw 0x71 (1#4 ++ BitVec.ofBool sat ++ e.code) m.code d.code a.code b.code 0)
  | .rcp h m f d a => some (h.raw 0x78 (f.code false false) m.code d.code a.code 0 0)
  | .rsq h m f d a => some (h.raw 0x79 (f.code false false) m.code d.code a.code 0 0)
  | .sqrt h m f d a => some (h.raw 0x7A (f.code false false) m.code d.code a.code 0 0)
  | .ex2 h m f d a => some (h.raw 0x7B (f.code false false) m.code d.code a.code 0 0)
  | .lg2 h m f d a => some (h.raw 0x7C (f.code false false) m.code d.code a.code 0 0)
  | .sin h m f d a => some (h.raw 0x7D (f.code false false) m.code d.code a.code 0 0)
  | .cos h m f d a => some (h.raw 0x7E (f.code false false) m.code d.code a.code 0 0)
  | .tanh h m f d a => some (h.raw 0x7F (f.code false false) m.code d.code a.code 0 0)
  | .hrand h d a b c => some (h.raw 0x80 0 0 d.code a.code b.code c.code)
  | .drop h t d a b c => some (h.raw 0x81 (0#6 ++ t.code) 0 d.code a.code b.code c.code)
  | .ld h w sx sp nb hnt d a => some (h.raw 0x90 (memFn w sx sp) (memMod nb hnt) d.code a.code 0 0)
  | .st h w sp hnt a b => some (h.raw 0x91 (memFn w false sp) (memMod false hnt) 0 a.code b.code 0)
  | .ldv h w sp nb hnt d a => some (h.raw 0x92 (memFn w false sp) (memMod nb hnt) d.code a.code 0 0)
  | .ldw h w sx nb d a => some (h.raw 0x93 (memFn w sx .g) (memMod nb 0) d.code a.code 0 0)
  | .atom h op ty ord scp sp d a b c =>
    some (h.raw 0x94 (atomFn op ty ord) (atomMod scp sp) d.code a.code b.code c.code)
  | .atomf h op bf ord scp sp d a b =>
    some (h.raw 0x95 (ord.code ++ 0#3 ++ BitVec.ofBool bf ++ op.code) (atomMod scp sp) d.code a.code b.code 0)
  | .cas h w ord scp sp d a b c =>
    some (h.raw 0x96 (ord.code ++ 0#1 ++ BitVec.ofBool w ++ 0#4) (atomMod scp sp) d.code a.code b.code c.code)
  | .cas128 h ord scp sp d a b c => some (h.raw 0x97 (ord.code ++ 0#6) (atomMod scp sp) d.code a.code b.code c.code)
  | .red h op ty ord scp sp a b c => some (h.raw 0x98 (atomFn op ty ord) (atomMod scp sp) 0 a.code b.code c.code)
  | .pref h llc hnt a => some (h.raw 0x99 (bit8 llc) (memMod false hnt) 0 a.code 0 0)
  | .xbeg h d => some (h.raw 0x9A 0 0 (vregCode d) 0 0 0)
  | .xend h d => some (h.raw 0x9B 0 0 (vregCode d) 0 0 0)
  | .xabt h code => some (h.raw 0x9C code 0 0 0 0 0)
  | .lda h w sx sp scp hnt d a => some (h.raw 0xA0 (memFn w sx sp) (ldaMod scp hnt) d.code a.code 0 0)
  | .strel h w sp scp hnt a b => some (h.raw 0xA1 (memFn w false sp) (ldaMod scp hnt) 0 a.code b.code 0)
  | .fenceAcq g scp => some (g.h64.raw 0xA2 0 (0#2 ++ scp.code) 0 0 0 0)
  | .fenceRel g scp => some (g.h64.raw 0xA2 1 (0#2 ++ scp.code) 0 0 0 0)
  | .fenceAr g scp => some (g.h64.raw 0xA2 2 (0#2 ++ scp.code) 0 0 0 0)
  | .cflush h a b => some (h.raw 0xB8 0 0 0 a.code b.code 0)
  | .cinv h a b => some (h.raw 0xB9 0 0 0 a.code b.code 0)
  | .czero h a b => some (h.raw 0xBA 0 0 0 a.code b.code 0)
  | .cpy g ds ss bar dist hnt a b c =>
    some ((g.h96 (0#6 ++ hnt ++ dist)).raw 0xC0 (0#4 ++ ss.code ++ ds.code) 0 (cbarCode bar) a.code b.code c.code)
  | .cpym g ss bar len a b c =>
    some ((g.h96 len).raw 0xC1 (0#4 ++ ss.code ++ 1#2) 0 (cbarCode bar) a.code b.code c.code)
  | .cseal h d => some (h.raw 0xC2 0 0 d.code 0 0 0)
  | .cwait h a => some (h.raw 0xC3 0 0 0 a.code 0 0)
  | .crdptr h n d => some (h.raw 0xC4 (0#5 ++ n) 0 d.code 0 0 0)
  | .cfixq h d => some (h.raw 0xC5 0 0 d.code 0 0 0)
  | .bari h n a b => some (h.raw 0xC8 0 0 (0#4 ++ n) a.code b.code 0)
  | .bara h n => some (h.raw 0xC9 0 0 (0#4 ++ n) 0 0 0)
  | .barw h n => some (h.raw 0xCA 0 0 (0#4 ++ n) 0 0 0)
  | .barx h n b => some (h.raw 0xCB 0 0 (0#4 ++ n) 0 b.code 0)
  | .fput g a b c => some ((g.h96 0).raw 0xD0 0 0 0 a.code b.code c.code)
  | .fget g a b c => some ((g.h96 0).raw 0xD1 0 0 0 a.code b.code c.code)
  | .fsigSet g a b => some ((g.h96 0).raw 0xD2 0 0 0 a.code b.code 0)
  | .fsigAdd g a b => some ((g.h96 0).raw 0xD2 1 0 0 a.code b.code 0)
  | .fred g op fm id a b c =>
    some ((g.h96 (0#8 ++ id)).raw 0xD3 (0#4 ++ fredFmtCode fm ++ op.code) 0 0 a.code b.code c.code)
  | .fatom g op ty ord scp d a b c =>
    some ((g.h96 (0#21 ++ scp.code)).raw 0xD4 (atomFn op ty ord) 0 d.code a.code b.code c.code)
  | .spawn h a b => some (h.raw 0xF0 0 0 0 a.code b.code 0)
  | .yield h => some (h.raw 0xF1 0 0 0 0 0 0)
  | .waitmem h cc a b => some (h.raw 0xF2 (0#6 ++ cc.code) 0 0 a.code b.code 0)
  | .sleep h a => some (h.raw 0xF3 0 0 0 a.code 0 0)
  | .trap g n => some (g.h64.raw 0xF8 n 0 0 0 0 0)
  | .eret g => some (g.h64.raw 0xF9 0 0 0 0 0 0)
  | .srd h d => some (h.raw 0xFA 0 0 d.code 0 0 0)
  | .swr h a => some (h.raw 0xFB 0 0 0 a.code 0 0)
  | .halt g => some (g.h64.raw 0xFC 0 0 0 0 0 0)
  | .tlbiPage h a b => some (h.raw 0xFD 0 0 0 a.code b.code 0)
  | .tlbiAsid h b => some (h.raw 0xFD 1 0 0 0 b.code 0)
  | .tlbiAll h => some (h.raw 0xFD 2 0 0 0 0 0)
  | _ => none

/-- The words of SIMT fields. -/
def Raw.words (r : Raw) : List Word :=
  let w0 (len : BitVec 2) : Word := r.mod ++ r.g.gc ++ r.g.gb ++ r.g.ga ++ r.g.gtt ++ r.opc ++ len
  let w1 : Word := r.fn ++ r.sb ++ r.sa ++ r.dst
  match r.ext with
  | .l64 => [w0 1, w1]
  | .l96 x => [w0 2, w1, x ++ r.sc]
  | .l128 x => [w0 3, w1, r.xmod ++ r.sc, x]

/-- TFN of a matrix form. -/
def mmTfn (fa fb fc : Fmt) (acc : Bool) : BitVec 24 :=
  0#8 ++ BitVec.ofBool acc ++ fc.code ++ fb.code ++ fa.code

/-- The fields of a tile instruction; none for SIMT forms and events. -/
def encodeTRaw : Instr → Option TRaw
  | .tileNop len => some ⟨0#1 ++ len + 1, 0x00, 0, 0, 0, 0, 0, 0, 0, 0, 0⟩
  | .tswr c v => some ⟨3, 0xE0, 0, 0, 0, 0, 0, c, 0, v, 0⟩
  | .tsrd c v => some ⟨3, 0xE0, 0, 0, 0, 0, 0, c, 1, v, 0⟩
  | .tld d hnt tr a str => some ⟨4, 0xE1, d, 0, 0, 0, 0, 0, 0#21 ++ BitVec.ofBool tr ++ hnt, a, str⟩
  | .tst t tr a str => some ⟨4, 0xE2, 0, t, 0, 0, 0, 0, 0#21 ++ BitVec.ofBool tr ++ 0#2, a, str⟩
  | .tzero d => some ⟨2, 0xE3, d, 0, 0, 0, 0, 0, 0, 0, 0⟩
  | .tmov d a => some ⟨2, 0xE3, d, a, 0, 0, 0, 0, 1, 0, 0⟩
  | .tsend p a => some ⟨2, 0xE4, 0, a, 0, 0, 0, 0#6 ++ p, 0, 0, 0⟩
  | .trecv p d => some ⟨2, 0xE5, d, 0, 0, 0, 0, 0#6 ++ p, 0, 0, 0⟩
  | .tarrive n => some ⟨2, 0xE6, 0, 0, 0, 0, 0, 0#4 ++ n, 0, 0, 0⟩
  | .twait n => some ⟨2, 0xE6, 0, 0, 0, 0, 0, 0#4 ++ n, 1, 0, 0⟩
  | .tloop n off trip => some ⟨4, 0xE7, 0, 0, 0, 0, 0, 0#6 ++ n, 0, off, trip⟩
  | .tbra off => some ⟨3, 0xE8, 0, 0, 0, 0, 0, 0, 0, off, 0⟩
  | .tend => some ⟨2, 0xE9, 0, 0, 0, 0, 0, 0, 0, 0, 0⟩
  | .tmma d a b fa fb fc acc => some ⟨2, 0xEA, d, a, b, 0, 0, 0, mmTfn fa fb fc acc, 0, 0⟩
  | .tmmax d a b fa fb fc acc st => some ⟨2, 0xEB, d, a, b, 0, 0, 0#6 ++ st, mmTfn fa fb fc acc, 0, 0⟩
  | .tmmas d a b c fa fb fc acc => some ⟨2, 0xEC, d, a, b, c, 0, 0, mmTfn fa fb fc acc, 0, 0⟩
  | .tadd d a b f => some ⟨2, 0xED, d, a, b, 0, 0, 0, 0#18 ++ f.code ++ 0#1, 0, 0⟩
  | .tscale d a f rnd x => some ⟨3, 0xED, d, a, 0, 0, 0#3 ++ rnd, 0, 0#18 ++ f.code ++ 1#1, x, 0⟩
  | .tcvt d a fd fs sat rnd => some ⟨2, 0xEE, d, a, 0, 0, 0#3 ++ rnd, 0, 0#13 ++ BitVec.ofBool sat ++ fs.code ++ fd.code, 0, 0⟩
  | _ => none

/-- The words of tile fields. -/
def TRaw.words (r : TRaw) : List Word :=
  let w0 : Word := r.tmod ++ r.tc ++ r.tb ++ r.ta ++ r.td ++ r.opc ++ (r.n - 1).truncate 2
  let w1 : Word := r.tfn ++ r.aux
  if r.n = 2 then [w0, w1] else if r.n = 3 then [w0, w1, r.timm] else [w0, w1, r.timm, r.timm2]

/-- The words of a well-formed instruction; an event has none. -/
def encode (i : Instr) : List Word :=
  match encodeRaw i with
  | some r => r.words
  | none =>
    match encodeTRaw i with
    | some r => r.words
    | none => []

/-- The decoder on a list of words, in a SIMT stream. -/
def decodeSimtWords (ws : List Word) : Dec Instr :=
  decodeSimt (ws.getD 0 0) (ws.getD 1 0) (ws.getD 2 0) (ws.getD 3 0)

/-- The decoder on a list of words, in a tile stream. -/
def decodeTileWords (ws : List Word) : Dec Instr :=
  decodeTile (ws.getD 0 0) (ws.getD 1 0) (ws.getD 2 0) (ws.getD 3 0)

end Sys2Proof
end

