-- ==== Sys2Proof/Machine/State.lean ====
section
/-! DEFINITION. The state of one package, as plain data, the state after reset, and why a step can stop.
Every structure cites the rule that gives the machine the state it holds. -/

namespace Sys2Proof.Machine

/-! ### Tables -/

/-- A table keyed by numbers: a list in rising key order. -/
abbrev Tab (α : Type) := List (Nat × α)

/-- The entry at a key. -/
def find? {α : Type} (k : Nat) : Tab α → Option α
  | [] => none
  | (k', v) :: t => if k = k' then some v else find? k t

/-- The entry at a key, or a default where the table lists none. -/
def getD {α : Type} (d : α) (t : Tab α) (k : Nat) : α := (find? k t).getD d

/-- Set the entry at a key. -/
def put {α : Type} (k : Nat) (v : α) : Tab α → Tab α
  | [] => [(k, v)]
  | (k', w) :: t => if k < k' then (k, v) :: (k', w) :: t else if k = k' then (k, v) :: t else (k', w) :: put k v t

/-- Remove the entry at a key. -/
def del {α : Type} (k : Nat) : Tab α → Tab α
  | [] => []
  | (k', w) :: t => if k < k' then (k', w) :: t else if k = k' then t else (k', w) :: del k t

/-- Set the entry at a key, listing no entry equal to the default. -/
def putD {α : Type} [DecidableEq α] (d : α) (k : Nat) (v : α) (t : Tab α) : Tab α :=
  if v = d then del k t else put k v t

/-- Memory: bytes by address, strictly rising, no byte equal to 0x00, which an unlisted address reads as. -/
abbrev Memory := List Host.Cell

/-- The canonical form of a table without default entries. -/
def Memory.wf : Memory → Bool
  | [] => true
  | [(_, b)] => b != 0
  | (a, b) :: (a', b') :: t => b != 0 && a < a' && Memory.wf ((a', b') :: t)

/-! ### Threads (04 R102, R119, R124; 06 R187, R201; 09 R268; 11 R314; 20 R499, R504, R507, R513) -/

/-- A frame of the on-chip link stack with the registers it retains (R124). -/
structure Frame where
  retpc : Nat
  k : Nat
  ncode : Nat
  livep : Nat
  saved : List Word
  deriving DecidableEq, Repr

/-- A deferred record (R187). -/
structure Deferred where
  pc : Nat
  va : Nat
  code : BitVec 8
  count : Nat
  deriving DecidableEq, Repr

/-- A bounded transaction (R201, R203, R206): the status register, the handler, the read set and the write set as
sector numbers of physical addresses, and the cclk of XBEG. -/
structure Txn where
  status : BitVec 7
  handler : Nat
  reads : List Nat
  writes : Tab SecVal
  began : Nat
  deriving DecidableEq, Repr

/-- Why a thread is held (R106 rule 3). -/
inductive Hold where
  | yield (until_ : Nat)
  | sleep (until_ : Nat)
  | waitmem (va : Nat) (recheck : Nat)
  | barrier (n : BitVec 4)
  deriving DecidableEq, Repr

/-- The kinds of replay record (R504). -/
inductive RKind where
  | load | ldw | acquire | atomic | waitmem | fatomDone
  deriving DecidableEq, Repr

/-- A replay record (R504): the instruction, its PC, the lane's address and operands, and the number of the access it
comes from, which says its place in program order while the block stays resident. -/
structure Replay where
  seq : Option Nat
  pc : Nat
  va : Nat
  kind : RKind
  ins : Instr
  b : QWord
  c : QWord
  deriving DecidableEq, Repr

/-- A fabric resumption record (R404): an FPUT, FGET or FRED not all sent. -/
structure Resume where
  get : Bool
  daddr : Nat
  saddr : Nat
  rem : Nat
  batch : Word
  deriving DecidableEq, Repr

/-- A CFLUSH or CINV in progress (10 R294): its range, the sector address it stands at, whether that sector's step is
with the slice, and the fault the step ended with. -/
structure Maint where
  base : Nat
  len : Nat
  next : Nat
  sent : Bool
  fail : Option (BitVec 8)
  deriving DecidableEq, Repr

/-- One thread. The window is the list v, whose length is n. before holds the PC, the on-chip frames and the spill pointer
as they stood before the spill engine worked for the instruction at that PC (04 R126 rule 4). -/
structure Thread where
  pc : Nat
  p : BitVec 8
  v : List Word
  live : Nat
  depth : Nat
  links : List Frame
  spill : Nat
  before : Option (Nat × List Frame × Nat)
  sdcnt : Word
  exited : Bool
  off : Bool
  priv : Bool
  halted : Bool
  ready : Nat
  hold : Option Hold
  deferred : Option Deferred
  met : List HemTag
  metFault : Option (BitVec 8)
  ob : Word
  seals : List Word
  txn : Option Txn
  epc : Nat
  frec : List Word
  retryPc : Nat
  retries : Nat
  replay : List Replay
  resume : List Resume
  maint : Option Maint
  published : Bool
  shot : Bool
  deriving DecidableEq, Repr

/-- A thread at its start, less what the dispatcher places (R102, R475). -/
def Thread.start : Thread where
  pc := 0
  p := 0
  v := List.replicate 8 0
  live := 8
  depth := 0
  links := []
  spill := 0
  before := none
  sdcnt := 0
  exited := false
  off := false
  priv := false
  halted := false
  ready := 0
  hold := none
  deferred := none
  met := []
  metFault := none
  ob := 1
  seals := []
  txn := none
  epc := 0
  frec := []
  retryPc := 0
  retries := 0
  replay := []
  resume := []
  maint := none
  published := false
  shot := false

/-! ### Groups (04 R103; 06 R179; 08 R236, R240; 11 R302, R318; 20 R499, R507) -/

/-- What a store-queue entry does in one lane (R179, R181). half is what is left of a 128-bit store whose other half has
been performed (R194): its upper or its lower 8 bytes. zero is what is left of a CZERO, and whether a sector of it has
faulted (10 R297). -/
inductive StKind where
  | store (nbytes : Nat) (val : QWord)
  | half (hi : Bool) (val : DWord)
  | zero (len : Nat) (bad : Bool)
  | atom (op : Aop) (ty : Aty) (b c : DWord)
  | atomf (op : FOp3) (bf16 : Bool) (b : Word)
  | cas (nbytes : Nat) (cmp swap : QWord)
  | signal (add : Bool) (b : DWord)
  deriving DecidableEq, Repr

/-- One lane of a store-queue entry: its address, its effect, whether it is done, the fault of a publish it waited for,
and its thread's mode at issue. -/
structure StLane where
  lane : Nat
  va : Nat
  kind : StKind
  done : Bool
  fail : Option (BitVec 8)
  priv : Bool
  deriving DecidableEq, Repr

/-- An entry of a group's store queue (R179). seq orders it among the accesses; acc is the access record of an
atomic with return; rel and acq are the ordering of its ORD; tags are the sectors that its lanes have tagged as a
release, each with its tag (09 R260); hnt is the hint of its fills, and looked the sectors that it has looked up
(R174, R209). -/
structure StEntry where
  seq : Nat
  pc : Nat
  shared : Bool
  rel : Bool
  acq : Bool
  acc : Option Nat
  tags : List (Nat × HemTag)
  hnt : BitVec 2
  looked : List Nat
  lanes : List StLane
  deriving DecidableEq, Repr

/-- What basting restores, and the marks of its slots (R240, R241, R245). invP lists for each lane the predicates whose last
write was invalid: the slot that holds all eight is invalid while there is one. -/
structure Baste where
  trigger : Nat
  since : Nat
  pcs : List Nat
  vs : List (List Word)
  ps : List (BitVec 8)
  sds : List Word
  s : List Word
  fpstat : Word
  slotV : List (List Nat)
  slotP : List Bool
  slotS : List Nat
  invV : List (List Nat)
  invP : List (BitVec 8)
  invS : List Nat
  deriving DecidableEq, Repr

/-- One group. -/
structure Group where
  s : List Word
  fpmode : Word
  fpstat : Word
  lanefault : BitVec 32
  bastOn : Bool
  bastTh : Nat
  bast : Option Baste
  lastTrig : Option Nat
  age : Nat
  fav : Option Nat
  waits : Nat
  prio : Bool
  active : Bool
  pendAt : Nat
  core : Nat
  quad : Nat
  slot : Nat
  cidx : Nat
  cc : Word
  tok : List Word
  pmask : BitVec 32
  pmaskPc : Nat
  olds : List QWord
  storeQ : List StEntry
  started : Bool
  issued : Bool
  ended : Bool
  killed : Bool
  threads : List Thread
  deriving DecidableEq, Repr

/-- A group at its start, less what the dispatcher places (R87, R88, R103, R236, R302, R318). -/
def Group.start : Group where
  s := List.replicate 64 0
  fpmode := 1
  fpstat := 0
  lanefault := 0
  bastOn := true
  bastTh := 200
  bast := none
  lastTrig := none
  age := 0
  fav := none
  waits := 0
  prio := false
  active := false
  pendAt := 0
  core := 0
  quad := 0
  slot := 0
  cidx := 0
  cc := 0
  tok := List.replicate 16 0
  pmask := 0
  pmaskPc := 0
  olds := List.replicate 32 0
  storeQ := []
  started := false
  issued := false
  ended := false
  killed := false
  threads := List.replicate 32 Thread.start

/-! ### Blocks (11 R302 to R327; 13 R341 to R364; 19 R465, R467; 20 R507) -/

/-- A named barrier (R318). -/
structure Barrier where
  ph : Word
  cnt : Nat
  arr : Nat
  txb : Int
  eb : Word
  aseq : List Word
  deriving DecidableEq, Repr

def Barrier.reset : Barrier := ⟨0, 0, 0, 0, 0, [0, 0, 0, 0]⟩

/-- One slice of a collective: where it stands and what it still has to move (R303 to R312, R325). seq orders it among
the accesses of its group; fixed marks one whose remainder is a fix-up entry; dist and hnt are X24 of its own
instruction. -/
structure Slice where
  seq : Nat
  grp : Nat
  lane : Nat
  pc : Nat
  dspc : Spc
  sspc : Spc
  daddr : Nat
  saddr : Nat
  rem : Nat
  len : Nat
  mask : BitVec 64
  priv : Bool
  done : Bool
  fixed : Bool
  dist : BitVec 16
  hnt : BitVec 2
  deriving DecidableEq, Repr

/-- A collective in flight (R302, R304): its number, opcode, DST field, slices and the threads whose
batches it belongs to, as (group, lane, batch), and whether it has completed. -/
structure Coll where
  num : Nat
  multi : Bool
  bar : Option (BitVec 4)
  firstPc : Nat
  slices : List Slice
  batches : List (Nat × Nat × Word)
  closed : Bool
  deriving DecidableEq, Repr

/-- A unit of a CPYM in the holding buffer of a cluster (R311): its number, its slice, its .S address, its bytes, and
the clusters that have not acknowledged it. -/
structure HoldU where
  id : Nat
  blk : Nat
  coll : Nat
  grp : Nat
  addr : Nat
  val : QWord
  dsts : List Nat
  deriving DecidableEq, Repr

/-- A fix-up entry (R325). -/
structure Fixup where
  dspc : Spc
  sspc : Spc
  daddr : Nat
  saddr : Nat
  rem : Nat
  bar : Option (BitVec 4)
  dist : BitVec 16
  hnt : BitVec 2
  grp : Nat
  lane : Nat
  coll : Nat
  deriving DecidableEq, Repr

/-- What a tile copy waits for (R348, R357, R361, R364). -/
inductive TWait where
  | none
  | send (port : BitVec 2) (tile : BitVec 4)
  | recv (port : BitVec 2) (tile : BitVec 4)
  | matrix (ins : Instr) (k : Nat)
  deriving DecidableEq, Repr

/-- A tile-sequencer fault: whether it was the deferred record, and whether it has been delivered to the trap unit
(R362). -/
structure TFault where
  pc : Nat
  va : Nat
  code : BitVec 8
  aux : Nat
  deferred : Bool
  told : Bool
  broken : Bool
  deriving DecidableEq, Repr

/-- One copy of a block's tile stream (R341, R344 to R347, R364, R371, R372). Tile bytes are tables by slot offset;
ctl lists the control registers in AUX order 0x00 to 0x43. bad holds the bytes, by slot and offset, whose ECC shows an
error that it cannot correct; slot 16 stands for the array's partial accumulators (14 R375 rule 5). rowp is the row that a
TST is at and rowBusy says that the row has been begun; issued says that the instruction at spc has been issued. -/
structure Tile where
  core : Nat
  cidx : Nat
  buf : List Word
  lines : Nat
  base : Nat
  tiles : List Memory
  bad : List (Nat × Nat)
  ctl : Tab Word
  stok : List Word
  deferred : Option Deferred
  spc : Nat
  ended : Bool
  fault : Option TFault
  wait : TWait
  partials : List Word
  rowp : Option Nat
  rowBusy : Bool
  issued : Bool
  scale : Tab SecVal
  retries : Nat
  retryPc : Nat
  deriving DecidableEq, Repr

/-- One lease range (R453, R468). -/
structure Range where
  base : Nat
  len : Nat
  rw : Bool
  deriving DecidableEq, Repr

/-- A launch frame's header (R467). -/
structure LFrame where
  entry : Nat
  nblk : Nat
  bthreads : Nat
  regs : Nat
  scratch : Nat
  span : Nat
  ordered : Bool
  progress : Bool
  ws : Bool
  mcx : Nat
  mcy : Nat
  yield : Nat
  policy : BitVec 10
  polset : BitVec 5
  bwt : Nat
  pwt : Nat
  spillbase : Nat
  spillsz : Nat
  tsaddr : Nat
  tslines : Nat
  ranges : List Range
  deriving DecidableEq, Repr

def LFrame.zero : LFrame := ⟨0, 1, 32, 64, 0, 0, false, false, false, 0, 0, 0, 0, 0, 0, 0, 0, 0, 0, 0, []⟩

/-- A continuation record (R465). -/
structure Record where
  code : Nat
  frame : Nat
  join : Nat
  task : Bool
  arg : Word
  deriving DecidableEq, Repr

/-- One resident block (R11, R465, R467, R472, R507). cores lists the COREIDs with CIDX 0 to C − 1, and scrOff where its
portion lies in the carve-out of each. timer is the cclk at which the progress timer last returned to 0. slot is the save
slot that a pre-emption of it has taken, roomFor the BLKID of the waiting block that its room goes to (R478), and halting
its cores that have accepted the halt. -/
structure Block where
  gridid : Nat
  stream : Nat
  asid : Nat
  blkid : Nat
  nblk : Nat
  fr : LFrame
  record : Record
  cluster : Nat
  cores : List Nat
  scratch : Memory
  scrOff : List Nat
  nb : List Barrier
  cwp : List Word
  colls : List Coll
  abandoned : Bool
  fixups : List Fixup
  replaying : Bool
  tiles : List Tile
  timer : Nat
  heldMark : Bool
  halting : List Nat
  slot : Option Nat
  roomFor : Option Nat
  killed : Bool
  groups : List Group
  order : List (Nat × Nat × BitVec 4) := []
  deriving DecidableEq, Repr

/-! ### Cores (06 R172 to R184; 09 R255 to R263; 10 R287) -/

/-- L1 sector states (R287). -/
inductive L1St where
  | s | e | o | m | isd | imd | sma | oma | sia | eia | mia | oia
  deriving DecidableEq, Repr

/-- One L1 sector (R173, R256, R287), keyed by its physical sector number: state, data with tag and poison, the name it
bears (ASID and virtual sector), its recorded write permission and access mode, its replacement hint, the quadrant whose
basting unit fetched it, and the group (block, group) whose entry of the pending-store buffer a request for it holds (R180).
-/
structure L1E where
  st : L1St
  val : SecVal
  asid : Nat
  vsec : Nat
  wok : Bool
  mode : BitVec 2
  hnt : BitVec 2
  baste : Option Nat
  own : Option (Nat × Nat)
  deriving DecidableEq, Repr

/-- A pending-store entry (R180, R181, R250), keyed by physical sector: byte mask, data, epoch, and the threads that
own stores in it, as (block, group, lane, PC, VA). -/
structure Pend where
  mask : BitVec 64
  data : SecData
  epoch : Word
  owners : List (Nat × Nat × Nat × Nat × Nat)
  deriving DecidableEq, Repr

/-- A posted entry (R180, R181 rule 3): the sector it covers, its home, its thread. -/
structure Posted where
  id : Nat
  sec : Nat
  home : Nat
  blk : Nat
  grp : Nat
  lane : Nat
  pc : Nat
  va : Nat
  sent : Bool
  deriving DecidableEq, Repr

/-- A known watermark (R258). -/
structure Known where
  pkg : Nat
  core : Nat
  pw : Word
  deriving DecidableEq, Repr

/-- One requester recorded by a drain (R263). -/
structure PubWait where
  who : PubWho
  seq : Word
  deriving DecidableEq, Repr

/-- A drain in progress (R259, R263): the sectors and posted entries still in it, its target, the requesters recorded,
and the threads whose fence demanded it. -/
structure Drain where
  secs : List Nat
  posts : List Nat
  target : Word
  waits : List PubWait
  demands : List (Nat × Nat × Nat)
  deriving DecidableEq, Repr

/-- An instruction-cache line (R37, R453): its ASID and line address, and its 32 words. -/
structure ILine where
  asid : Nat
  line : Nat
  words : List Word
  x : Bool
  priv : Bool
  deriving DecidableEq, Repr

/-- The carve-out of a core (R172, R176). -/
structure Carve where
  cur : BitVec 3
  tgt : BitVec 3
  busy : Bool
  done : Bool
  err : Bool
  deriving DecidableEq, Repr

/-- One core. macs is the part of 1,024 multiply-adds not yet in MXA_MACS (14 R383). poolWait lists, in the order of their
requests, the accesses that have found no entry of the pending-store buffer: the group (block, group) and the place in
program order (R180). -/
structure Core where
  l1 : Tab L1E
  pend : Tab Pend
  posted : List Posted
  icache : List ILine
  carve : Carve
  rseq : Word
  pw : Word
  known : List Known
  drain : Option Drain
  lastGrp : List (Nat × Nat × Nat)
  haltReq : Option Nat
  poolWait : List (Nat × Nat × Nat)
  macs : Nat
  deriving DecidableEq, Repr

/-- A core at package reset (R172, R176, R255). -/
def Core.reset : Core where
  l1 := []
  pend := []
  posted := []
  icache := []
  carve := ⟨0, 0, false, false, false⟩
  rseq := 0
  pw := 0
  known := []
  drain := none
  lastGrp := []
  haltReq := none
  poolWait := []
  macs := 0

/-! ### Accesses in flight (06 R180, R549; 09 R264; 11 R313) -/

/-- Where one lane of an access stands (R264, R549). half is a 128-bit load one of whose halves is bound: the half still to
read, and the value of the other (R193). reacq is an atomic performed earlier whose acquire has still to be made, with its
old value; a fault says whether it met a broken lease, and the old value of an atomic performed before it (R499). -/
inductive LaneSt where
  | todo
  | half (hi : Bool) (val : DWord)
  | waitPub (pkg core : Nat) (seq : Word) (val : QWord)
  | bound (val : QWord)
  | reacq (val : QWord)
  | fault (code : BitVec 8) (va : Nat) (broken : Bool) (old : Option QWord)
  deriving DecidableEq, Repr

/-- One lane of an access: its effective address, its SB and SC values, its state, its thread's mode at issue. -/
structure AccLane where
  lane : Nat
  va : Nat
  b : QWord
  c : QWord
  st : LaneSt
  priv : Bool
  deriving DecidableEq, Repr

/-- What an access is (R549). -/
inductive AccKind where
  | load | ldw | acquire | atomic | waitmem | fatom
  deriving DecidableEq, Repr

/-- A returning access in flight: its name, its place in program order among the accesses and store-queue entries of its
group, its group, its instruction, its PC and the next, the cclk of its issue, the lanes of its issue group, those of them
in which a later instruction has issued (or that it serves from replay records, so that it leaves their PC alone), the
sectors that it has looked up (R209), and its own lanes. -/
structure Acc where
  id : Nat
  seq : Nat
  blk : Nat
  grp : Nat
  pc : Nat
  npc : Nat
  ins : Instr
  kind : AccKind
  issued : Nat
  group : BitVec 32
  late : BitVec 32
  looked : List Nat
  lanes : List AccLane
  deriving DecidableEq, Repr

/-! ### The slice directory (10 R281, R285, R286) -/

inductive DirSt where
  | i | s | x | o
  deriving DecidableEq, Repr

/-- TRANS codes of R281. -/
inductive Trans where
  | stable | bM | bH | bF | bI | bFI | bD | bW | bE
  deriving DecidableEq, Repr

/-- The copy that a home granted to this package (R281 PKGST). -/
inductive PkgSt where
  | i | s | e | o | m
  deriving DecidableEq, Repr

/-- What a home asks of a package that holds a copy (R422): data keeping S or O, data keeping nothing, data keeping S,
or the discard of every copy; lost is the Mending Engine's discard of what a dead home gave, which nobody is told of
(R438). -/
inductive Recall where
  | s | x | dg | inv | lost
  deriving DecidableEq, Repr

/-- Requests a slice serves (R283, R284, R288, R291): L1 requests of a core, maintenance steps of a core, requests of
another package for a sector homed here, and a home's recall of a sector homed elsewhere. -/
inductive DReq where
  | gets (core : Nat) | getx (core : Nat) | getz (core : Nat) | upg (core : Nat)
  | cflq (core : Nat) | cinvq (core : Nat)
  | podS (src : Nat) | podX (src : Nat) | podU (src : Nat)
  | recall (k : Recall)
  | pref (hnt : BitVec 2)
  deriving DecidableEq, Repr

/-- The grant a slice has sent and awaits DONE for: the core, and the STATE, OWNER and CLV it leaves (R285). -/
structure Grant where
  core : Nat
  st : DirSt
  owner : Nat
  deriving DecidableEq, Repr

/-- A directory entry with the LLC data of its sector (R281). keeps marks an UPG whose core keeps its copy through the
invalidation (R285). -/
structure DirE where
  st : DirSt
  trans : Trans
  owner : Nat
  clv : BitVec 64
  lv : Bool
  ld : Bool
  acks : Nat
  held : Option (Nat × SecVal)
  pkgst : PkgSt
  val : SecVal
  req : Option DReq
  grant : Option Grant
  fifo : List DReq
  keeps : Bool
  deriving DecidableEq, Repr

def SecVal.zero : SecVal := ⟨0, none, false⟩

def DirE.reset : DirE :=
  ⟨.i, .stable, 0, 0, false, false, 0, none, .i, SecVal.zero, none, none, [], false⟩

/-- Messages of the package's mesh between an L1 and a slice, and PUB_ACKs (R22, R283). -/
inductive MKind where
  | gets | getx | getz | upg | cflq | cinvq
  | fwdGets | fwdGetx | fwdWb | fwdWbi | inv
  | dataS | dataE | dataM | fwdData | putc | putm | upgAck | upgMiss | invAck | done | wbAck | mntAck
  | memRead | memWrite | pubReq | pubAck
  deriving DecidableEq, Repr

/-- One message in flight: its kind, the core (or cluster) it names, its sector, its data, a flag (dirty data, or no
other holder in the cluster, or a but-one INV's core plus one), a sequence, and its place on the mesh. -/
structure Msg where
  kind : MKind
  core : Nat
  sec : Nat
  val : SecVal
  flag : Nat
  seq : Word
  who : PubWho
  deriving DecidableEq, Repr

/-- A flit at a mesh router (R19 to R26): its router, class, destination router, virtual channel, injection time and input
port; the packet it belongs to, its place in it (0 is the header) and the packet's number of payload flits (R21); and the
message that the packet carries, without its data. -/
structure Flit where
  at_ : Nat
  dst : Nat
  cls : MsgClass
  esc : Bool
  inj : Nat
  inPort : Nat
  pkt : Nat
  idx : Nat
  len : Nat
  msg : Msg
  deriving DecidableEq, Repr

/-! ### Translation (18) -/

/-- A leaf as a TLB entry holds it (R447, R450). -/
structure Tlb where
  asid : Nat
  vpage : Nat
  size : Nat
  pa : Nat
  r : Bool
  w : Bool
  x : Bool
  priv : Bool
  mode : BitVec 2
  hwin : Bool
  afb : Bool
  dirty : Bool
  pins : Nat
  broken : Bool
  deriving DecidableEq, Repr

/-- A valid non-leaf entry as the walk cache holds it (R450): ASID, level, the virtual address over the level's page size,
and the node that the entry points to. -/
structure WalkNode where
  asid : Nat
  lvl : Nat
  idx : Nat
  node : Nat
  deriving DecidableEq, Repr

/-- The kinds of shootdown (R457). -/
inductive ShKind where
  | page | asid | all
  deriving DecidableEq, Repr

/-- A shootdown in progress: what it names, the thread whose TLBI started it, and what used a removed translation and
is not yet performed: accesses that wait for a publish, requests outside the package, posted and pending stores. -/
structure Shoot where
  kind : ShKind
  asid : Nat
  va : Nat
  asker : Option (Nat × Nat × Nat)
  accs : List Nat
  posts : List (Nat × Nat)
  pends : List (Nat × Nat)
  reqs : List (Nat × Word)
  hreqs : List Nat
  deriving DecidableEq, Repr

/-- The translation engines' package registers and tables (R450, R457, R458). tlb is keyed by cluster. -/
structure Xlt where
  rtbase : DWord
  shootVa : DWord
  shootReg : Word
  busy : Bool
  done : Bool
  err : Bool
  tlb : Tab (List Tlb)
  nodes : Tab (List WalkNode)
  shoot : Option Shoot
  deriving DecidableEq, Repr

/-! ### The fabric engine (15) -/

/-- For whom a request left the package. -/
inductive FOwner where
  | lane (acc lane : Nat)
  | posted (core id : Nat)
  | sector (sec : Nat)
  | slice (blk coll grp : Nat)
  | tile (blk copy : Nat)
  | bulk (id addr : Nat)
  | source (id : Nat)
  | engine
  | pub (core : Nat)
  | fetch (core : Nat)
  | spill (blk grp lane : Nat)
  | disp (queue : Nat)
  | svc
  deriving DecidableEq, Repr

/-- Pod coherence messages that this package sends (R422). -/
inductive PMsg where
  | fwdS | fwdX | fwdDg | inv | grantS | grantE | grantM | grantU | fwdData (dirty : Bool) | empty | invAck | wbAck
  | dataAck | refuse (code : BitVec 8) | poisonNotice | drop | wb
  deriving DecidableEq, Repr

/-- What a request asks of its target: an access performed at its home, a home-agent request, a PUB_REQ, a
contribution chunk with its round and that round's op, format and count (R400 to R402), an ABANDON, a DOWN_NOTICE, or a forward, invalidation or notice of the home (R422). -/
inductive FOp where
  | home (op : HomeOp)
  | rdS (sec : Nat) | rdX (sec : Nat) | upg (sec : Nat) | drop (sec : Nat) | wb (sec : Nat) (v : SecVal)
  | pub (core : Nat) (seq : Word)
  | chunk (id : BitVec 16) (round : Nat) (op : FOp3) (fmt : Fmt) (count chunk : Nat) (vals : List Word)
  | abandon (seq : Word)
  | notice (down : DWord)
  | pod (k : PMsg) (sec : Nat)
  deriving DecidableEq, Repr

/-- An unacknowledged request of a stream (R389 to R394), with the deadline it was first sent under, and its result once
the response has arrived; more holds the sectors of a read beyond the first. stn is the station that its last packet left
by, and last the cclk in which it did (R388, R393). -/
structure FReq where
  dst : Nat
  seq : Word
  obit : Bool
  op : FOp
  owner : FOwner
  sent : Nat
  dl : Nat
  resends : Nat
  result : Option (FabStatus × SecVal)
  more : List SecData
  stn : Nat
  last : Nat
  deriving DecidableEq, Repr

/-- States of a duplicate-filter entry (R392). -/
inductive DupSt where
  | inProgress | done | abandoned
  deriving DecidableEq, Repr

/-- An entry of the duplicate filter, by source and sequence number, with the request it holds back and its saved
result (R392). -/
structure Dup where
  src : Nat
  seq : Word
  st : DupSt
  obit : Bool
  held : Option HomeOp
  result : Option (FabStatus × SecVal)
  deriving DecidableEq, Repr

/-- A migration counter (R386). -/
structure Mig where
  asid : Nat
  vpage : Nat
  home : Nat
  count : Nat
  deriving DecidableEq, Repr

/-- A bulk fabric instruction of a lane: FPUT (kind 0), FGET (1) or FRED (2) (R397, R400), with what it still has to
send. A FRED holds its round, the result chunks written and its contribution, widened to FP32. -/
structure Bulk where
  id : Nat
  blk : Nat
  grp : Nat
  lane : Nat
  pc : Nat
  kind : Nat
  daddr : Nat
  saddr : Nat
  rem : Nat
  batch : Word
  round : Nat
  op : FOp3
  fmt : Fmt
  coll : BitVec 16
  count : Nat
  chunks : List Nat
  vals : List Word
  priv : Bool
  deriving DecidableEq, Repr

/-- A registered reduction collective (R399, R400): its members and this package's rounds begun. -/
structure Collective where
  id : BitVec 16
  members : List Nat
  rounds : Nat
  deriving DecidableEq, Repr

/-- The fabric engine (R386 to R405). low is the LOW last seen of a source; waiting holds, unnumbered, the requests that
wait at the source for room in their streams (R389). -/
structure Fab where
  tmo : Word
  mig : Word
  collLo : Word
  collHi : Word
  collBusy : Bool
  collDone : Bool
  collErr : Bool
  next : Tab Word
  unacked : List FReq
  waiting : List FReq
  dups : List Dup
  low : Tab Word
  migs : List Mig
  reach : Tab (List Nat)
  kept : Tab SecVal
  bulks : List Bulk
  colls : List Collective
  deriving DecidableEq, Repr

/-! ### The home agent (16) and the Mending Engine (17) -/

/-- TRANS codes of a pod directory entry (R412). -/
inductive PTrans where
  | stable | pF | pI | pFI | pH
  deriving DecidableEq, Repr

/-- Who asks the home for a transaction: a package, this package's slice, the host, or the home itself. -/
inductive PWho where
  | pkg (p : Nat) | slice | host | home
  deriving DecidableEq, Repr

/-- What a home transaction does (R418, R421, R423): the three requests, the recalls that leave S or nothing, and an
eviction. -/
inductive PKind where
  | rdS | rdX | upg | downgrade | recall | evict
  deriving DecidableEq, Repr

structure PReq where
  who : PWho
  kind : PKind
  deriving DecidableEq, Repr

/-- A pod directory entry (R412), keyed by its region's first sector: SZ, the sharers of MV and CV, the owner, and the
answers a transaction awaits (1024 stands for the host). -/
structure PodE where
  st : DirSt
  trans : PTrans
  owner : Nat
  hown : Bool
  host : Bool
  sz : Nat
  mv : BitVec 16
  cv : BitVec 64
  touch : Bool
  acks : List Nat
  fwd : Bool
  dirty : Bool
  req : Option PReq
  held : Option (Nat × SecVal)
  started : Nat
  dl : Nat
  deriving DecidableEq, Repr

def PodE.fresh : PodE := ⟨.i, .stable, 0, false, false, 0, 0, 0, true, [], false, false, none, none, 0, 0⟩

structure HomeAgent where
  ctl : Word
  cellSel : Word
  seamIdx : Word
  seamLo : Word
  seamHi : Word
  merge : Word
  tmo : Word
  cells : Tab Nat
  down : BitVec 64
  seam : Tab (BitVec 64)
  seamBusy : Option Nat
  err : Bool
  pod : Tab PodE
  lastSweep : Nat
  poison : List Nat
  deriving DecidableEq, Repr

/-- A Mending walk (R436, R441): its cell, the sectors whose entries and the lines it has still to visit, and what its
record names. -/
structure Walk where
  cell : Nat
  entries : List Nat
  lines : List Nat
  cause : Nat
  pkg : Nat
  epoch : Nat
  poisoned : Nat
  deriving DecidableEq, Repr

/-- The Mending Engine (R430 to R442). rot counts the BEACONs sent to each package, by which they rotate over the
stations that reach it (R431). -/
structure Mend where
  ctl : Word
  beacon : Word
  down : DWord
  epoch : Nat
  busy : Bool
  walks : List Walk
  seen : Tab Nat
  lastSent : Nat
  rot : Tab Nat
  deriving DecidableEq, Repr

/-! ### The dispatcher (19) -/

/-- A stream descriptor as loaded (R461). -/
structure Stream where
  asid : Nat
  en : Bool
  policy : BitVec 12
  deadline : Nat
  corelim : Nat
  bwlim : Nat
  pwrlim : Nat
  savebase : Nat
  saven : Nat
  stopped : Bool
  killed : Bool
  deriving DecidableEq, Repr

/-- A queue descriptor as loaded (R462). -/
structure Queue where
  ring : Nat
  log2n : Nat
  cls : Nat
  en : Bool
  spn : Bool
  stream : Nat
  head : Nat
  tail : Nat
  parked : Bool
  deriving DecidableEq, Repr

/-- A saved block: its save slot, the BLKID of the block that takes its room first (R478), what the slot has no field for
(of each group, whether it was killed and whether it has issued, and the records of the collectives in flight). -/
structure SavedBlk where
  blkid : Nat
  slot : Nat
  behind : Option Nat
  groups : List (Bool × Bool)
  colls : List Coll
  deriving DecidableEq, Repr

/-- A grid: the record that made it, its frame once read, its blocks not yet placed (from nextBlk on), those saved, and the
BLKIDs below which every group has issued (R470 to R477). A grid not yet admitted has no GRIDID and stands at 2^32 plus its
queue. -/
structure Grid where
  id : Nat
  queue : Nat
  stream : Nat
  asid : Nat
  record : Record
  recAddr : Nat
  read : Bool
  fr : LFrame
  opened : Nat
  nblk : Nat
  nextBlk : Nat
  saved : List SavedBlk
  ended : Nat
  admitted : Bool
  admitAt : Nat
  killed : Bool
  cores : List Nat
  deriving DecidableEq, Repr

/-- A join push that waits for room in its ring (R466 rule 4). -/
structure Push where
  queue : Nat
  bytes : List Byte
  deriving DecidableEq, Repr

structure Disp where
  qtbase : DWord
  stbase : DWord
  ctl : Word
  bad : Bool
  drop : Bool
  err : Bool
  pkgbud : Word
  streams : Tab Stream
  queues : Tab Queue
  grids : Tab Grid
  nextGrid : Nat
  pushes : List Push
  last : Tab Nat
  deriving DecidableEq, Repr

/-! ### The trap unit's package registers (20 R513) and the host port (21), package (22) -/

structure Trap where
  hvec : DWord
  hmask : DWord
  ctl : Word
  drop : Bool
  deriving DecidableEq, Repr

/-- A host request outstanding (R521 to R527): reads, writes, AtomicOps (with AFB of the leaf and whether the atomic is a
release), the zero-length read that goes before the coherent fallback of a release, and transfers of CXL.cache. -/
inductive HostOp where
  | read (pa : Nat) (nbytes : Nat)
  | write (pa : Nat) (nbytes : Nat) (v : SecData)
  | atomic (pa : Nat) (afb rel : Bool) (op : HomeOp)
  | flush (pa : Nat) (op : HomeOp)
  | coherent (pa : Nat) (op : HomeOp)
  | writeback (sec : Nat) (v : SecVal)
  deriving DecidableEq, Repr

structure HostReq where
  id : Nat
  op : HostOp
  owner : FOwner
  madeAt : Nat
  sent : Bool
  result : Option (FabStatus × SecVal)
  deriving DecidableEq, Repr

/-- The host port (R520 to R535): kept heads and tails of the I/O-core queues, the cclk of the last beats, and the
requests outstanding. -/
structure HostPort where
  ctl : Word
  up : Bool
  cxl : Bool
  down : Bool
  dberr : Bool
  drop : Bool
  hb : Word
  hbaddr : DWord
  hdm : Word
  svcmem : Word
  ioqbase : DWord
  beat : Nat
  lastBeat : Nat
  lastSent : Nat
  reqs : List HostReq
  ioqTail : Tab Nat
  ioqHead : Tab Nat
  deriving DecidableEq, Repr

/-- Present units as fused (R539, R545). -/
structure Caps where
  cores : List Nat
  slices : List Nat
  stations : List Nat
  hbm : List Nat
  mem : Nat
  cuffs : List Nat
  deriving DecidableEq, Repr

/-- The package's identity, boot, limits and errors (R541 to R547). throttling is the cclk at which throttling began, and
throttle the throttled cclk before it. -/
structure Pkg where
  id : BitVec 10
  caps : Caps
  booted : Bool
  bootFail : Bool
  pwrcap : Word
  eccCe : Word
  eccUe : Word
  eccLoc : Word
  mchk : Word
  stopped : Bool
  throttling : Option Nat
  throttle : Nat
  deriving DecidableEq, Repr

/-! ### Where lines lie, and replacement (06 R172 to R174; 10 R281, R289, R290; 16 R418) -/

/-- One L1 set: the ways taken, each with the number of its 128-byte line, and the bits of the tree order, node n in bit
n − 1, each pointing to the half that holds the next victim: 1 the higher ways. -/
structure L1Set where
  lines : List (Nat × Nat)
  tree : BitVec 7
  deriving DecidableEq, Repr

/-- What an access does at the LLC (R289): the RRPV of a line it fills, whether its hit leaves RRPV unchanged, and whether it
pins. -/
structure Reuse where
  rrpv : BitVec 2
  stream : Bool
  pin : Bool
  deriving DecidableEq, Repr

/-- One LLC line of a set: its number, its way, RRPV, and for a pinned line the count at which it was pinned. -/
structure LlcLine where
  line : Nat
  way : Nat
  rrpv : BitVec 2
  pin : Option Nat
  deriving DecidableEq, Repr

/-- L1 sets by 512 times the core plus the set, LLC sets by 8,192 times the slice plus the set, the cclk at which each pod
directory entry was last used, and how many lines have been pinned. A line that its cache no longer holds is not in its
set, whatever the list says. -/
structure Repl where
  l1 : Tab L1Set
  llc : Tab (List LlcLine)
  pod : Tab Nat
  pins : Nat
  deriving DecidableEq, Repr

/-! ### The issue turn, the agenda and the outbox -/

/-- A SIMT issue group: block, group, lanes, the PC and the PC after (R107). -/
structure Cur where
  blk : Nat
  grp : Nat
  lanes : BitVec 32
  pc : Nat
  npc : Nat
  deriving DecidableEq, Repr

/-- What issues now: nothing, a SIMT issue group, or a tile copy (block, copy, PC, next SPC). -/
inductive Issuing where
  | none
  | simt (c : Cur)
  | tile (blk copy pc nspc : Nat)
  deriving DecidableEq, Repr

/-- Soft errors that no event of the table names (12 R332; 14 R375; 16 R425; 22 R545): a corrected one; one that ECC cannot
correct in a sector of home HBM, a 128-byte segment of the weight store, a byte of a tile (slot and offset) or the partial
accumulators of a copy; and one in a unit where the manual gives it no effect but its count, by MGT_ECC_LOC. -/
inductive SoftErr where
  | corrected
  | hbm (sec : Nat)
  | weight (seg : Nat)
  | tile (blk copy slot off : Nat)
  | sums (blk copy : Nat)
  | lost (unit : BitVec 4) (inst : BitVec 16)
  deriving DecidableEq, Repr

/-- Which agent acts next: an engine event, a quadrant that issues, a tile copy that issues, a copy engine that moves
one unit of a slice, the fabric engine at work on bulk transfers and held requests, or none: a soft error striking, the host
reading BAR0 (R521), or the board controller reading or writing a register through the management port (R548). -/
inductive Turn where
  | event (i : Instr)
  | issue (core quad : Nat)
  | tile (blk copy : Nat)
  | copy (blk coll grp : Nat)
  | fabric
  | soft (e : SoftErr)
  | barRead (off nbytes : Nat)
  | mgtRead (reg : Nat)
  | mgtWrite (reg : Nat) (v : Word)
  deriving DecidableEq, Repr

/-- What the package has delivered outside itself or to software: fault records and the other records of I/O-core
queues, packets, interrupts, host traffic. -/
inductive Out where
  | ioq (queue : Nat) (bytes : List Byte)
  | irq (queue : Nat)
  | packet (dst : Nat) (seq low : Word) (obit : Bool) (op : FOp) (stn : Nat)
  | response (dst : Nat) (seq : Word) (st : FabStatus) (v : SecVal) (more : List SecData)
  | abandoned (dst : Nat) (seq : Word)
  | pubAck (dst core : Nat) (pw : Word) (st : FabStatus)
  | home (dst : Nat) (k : PMsg) (sec : Nat) (v : SecVal)
  | beacon (dst stn : Nat) (down : DWord)
  | notice (down : DWord)
  | noticeAck (dst : Nat)
  | host (r : HostReq)
  | backInv (sec : Nat)
  | hostReply (pa : Nat) (v : SecVal) (err : Bool)
  | beat (addr n : Nat)
  | spdm (bytes : List Byte)
  | bar (off v : Nat)
  | mgt (reg v : Nat)
  | svc (st : FabStatus) (v : DWord)
  | mchk (cause : BitVec 8)
  deriving DecidableEq, Repr

/-- The machine: one package. -/
structure State where
  agenda : List Turn
  now : Nat
  cur : Issuing
  out : List Out
  mem : Memory
  wstore : Memory
  wsPoison : Tab (BitVec 128)
  wsReaders : Nat
  wsWrite : List (Nat × List Byte)
  blocks : Tab Block
  cores : Tab Core
  accs : List Acc
  nextId : Nat
  dir : Tab DirE
  net : List Msg
  flits : List Flit
  credits : Tab Nat
  vcs : Tab Nat
  pkts : Nat
  hold : Tab (List HoldU)
  xlt : Xlt
  fab : Fab
  hom : HomeAgent
  mnd : Mend
  dsp : Disp
  trp : Trap
  hst : HostPort
  pkg : Pkg
  counters : Tab Nat
  stallAt : Tab Nat
  repl : Repl
  deriving DecidableEq, Repr

/-! ### The state after reset -/

/-- The fully enabled part (R9, R539; assumption log 7). -/
def Caps.full : Caps where
  cores := List.range 256
  slices := List.range 256
  stations := List.range 64
  hbm := List.range 128
  mem := 512
  cuffs := (List.range 256).filter fun i =>
    let c := i / 4
    if i % 4 = 0 then c / 8 != 7 else if i % 4 = 1 then c % 8 != 7 else if i % 4 = 2 then c / 8 != 0 else c % 8 != 0

def Xlt.reset : Xlt where
  rtbase := 0
  shootVa := 0
  shootReg := 0
  busy := false
  done := false
  err := false
  tlb := []
  nodes := []
  shoot := none

/-- FAB_TMO.DL 50, FAB_MIG.THRESH 4,096 (R395). -/
def Fab.reset : Fab where
  tmo := 50
  mig := 4096
  collLo := 0
  collHi := 0
  collBusy := false
  collDone := false
  collErr := false
  next := []
  unacked := []
  waiting := []
  dups := []
  low := []
  migs := []
  reach := []
  kept := []
  bulks := []
  colls := []

/-- HOM_MERGE 1,000 and HOM_TMO 20 (R414, R426). -/
def HomeAgent.reset : HomeAgent where
  ctl := 0
  cellSel := 0
  seamIdx := 0
  seamLo := 0
  seamHi := 0
  merge := 1000
  tmo := 20
  cells := []
  down := 0
  seam := []
  seamBusy := none
  err := false
  pod := []
  lastSweep := 0
  poison := []

/-- MND_BEACON.PERIOD 10 in [15:0] and MISS 3 above it (R430). -/
def Mend.reset : Mend where
  ctl := 0
  beacon := 0x0003000A
  down := 0
  epoch := 0
  busy := false
  walks := []
  seen := []
  lastSent := 0
  rot := []

/-- DSP_PKGBUD: BWTOT 4,096 and PWTOT 2,300 (R488). -/
def Disp.reset : Disp where
  qtbase := 0
  stbase := 0
  ctl := 0
  bad := false
  drop := false
  err := false
  pkgbud := 0x08FC1000
  streams := []
  queues := []
  grids := []
  nextGrid := 1
  pushes := []
  last := []

def Trap.reset : Trap := ⟨0, 0, 0, false⟩

/-- HST_HB: PERIOD 100 in [15:0] and MISS 3 above it (R535). -/
def HostPort.reset : HostPort where
  ctl := 0
  up := false
  cxl := false
  down := false
  dberr := false
  drop := false
  hb := 0x00030064
  hbaddr := 0
  hdm := 0
  svcmem := 0
  ioqbase := 0
  beat := 0
  lastBeat := 0
  lastSent := 0
  reqs := []
  ioqTail := []
  ioqHead := []

/-- MGT_PWRCAP 2,300 (R545). -/
def Pkg.reset (strap : BitVec 10) : Pkg where
  id := strap
  caps := Caps.full
  booted := false
  bootFail := false
  pwrcap := 2300
  eccCe := 0
  eccUe := 0
  eccLoc := 0
  mchk := 0
  stopped := false
  throttling := none
  throttle := 0

/-- The machine right after package reset. -/
def State.reset : State where
  agenda := []
  now := 0
  cur := .none
  out := []
  mem := []
  wstore := []
  wsPoison := []
  wsReaders := 0
  wsWrite := []
  blocks := []
  cores := []
  accs := []
  nextId := 0
  dir := []
  net := []
  flits := []
  credits := []
  vcs := []
  pkts := 0
  hold := []
  xlt := Xlt.reset
  fab := Fab.reset
  hom := HomeAgent.reset
  mnd := Mend.reset
  dsp := Disp.reset
  trp := Trap.reset
  hst := HostPort.reset
  pkg := Pkg.reset 0
  counters := []
  stallAt := []
  repl := ⟨[], [], [], 0⟩

/-! ### Why a step can stop -/

/-- Machine faults. The spec gives every access, encoding and event an outcome inside the machine (a fault code that
the trap unit contains, a refused command, a dropped request), so no meaning of this model answers one: the type has
no constructor. -/
inductive Fault where
  deriving DecidableEq, Repr

/-- Refusals. -/
inductive Refusal where
  /-- Raised by an arm of exec whose instruction has no meaning yet. Safe: nothing is claimed of it. -/
  | notModelled (mnemonic : String)
  deriving DecidableEq, Repr

/-- What a step answers. -/
abbrev Ans := Host.Outcome State Fault Refusal

end Sys2Proof.Machine
end

