-- ==== Sys2Proof/Machine/Route.lean ====
section
/-! DEFINITION. Where the engines stand on the mesh and how a message travels it: the router of every engine, the class, the
endpoints and the flits of every message (01 R10, R17, R20 to R22; 10 R283). -/

namespace Sys2Proof.Machine

/-- A bit range of a number. -/
def bitsOf (x hi lo : Nat) : Nat := x / 2 ^ lo % 2 ^ (hi + 1 - lo)

/-- The home slice of an address (10 R280). -/
def sliceNum (caps : Caps) (pa : Nat) : Nat :=
  let h := Nat.xor (Nat.xor (Nat.xor (bitsOf pa 14 7) (bitsOf pa 22 15)) (Nat.xor (bitsOf pa 30 23) (bitsOf pa 38 31)))
    (Nat.xor (bitsOf pa 46 39) (bitsOf pa 51 47))
  caps.slices.getD (h * caps.slices.length / 256) 0

/-- The router at coordinates (R17). -/
def routerAt (x y z : Nat) : Nat := x + 8 * y + 64 * z

/-- The die, compute or cache, that holds a router (R17). -/
def routerDie (r : Nat) : Nat := r % 8 / 4 + 2 * (r / 8 % 8 / 4)

/-- What is attached to the mesh: a cluster, an LLC slice, a quarter of the fabric engine, a die's weight-store controller
or home-agent part, and the engines at the package's corner: dispatcher, Mending Engine, host port, service cores. -/
inductive MeshEnd where
  | cluster (c : Nat)
  | slice (k : Nat)
  | quarter (d : Nat)
  | weights (d : Nat)
  | homePart (d : Nat)
  | corner
  deriving DecidableEq, Repr

/-- The routers that something is attached to (R17, R20). -/
def MeshEnd.routers : MeshEnd → List Nat
  | .cluster c => [routerAt (c % 8) (c / 8) 0]
  | .slice k => [routerAt (k / 4 % 8) (k / 4 / 8) 1]
  | .quarter d => (List.range 4).map fun i => routerAt (if d % 2 = 0 then 0 else 7) (4 * (d / 2) + i) 1
  | .weights d | .homePart d => [routerAt (4 * (d % 2) + 1) (4 * (d / 2) + 1) 1]
  | .corner => [routerAt 0 0 1, routerAt 1 0 1]

/-- The router by which a packet enters or leaves the mesh at a cclk: which of several is Config's (assumption log 33). -/
def MeshEnd.router (e : MeshEnd) (now : Nat) : Nat := e.routers.getD (Config.attachPick now % e.routers.length) 0

/-- The die of a slice (R17). -/
def sliceDie (k : Nat) : Nat := routerDie ((MeshEnd.slice k).router 0)

/-- The fabric quarter of a Withes station, and the switch it connects to (R10). -/
def stationQuarter (k : Nat) : Nat := k / 16
def stationSwitch (k : Nat) : Nat := k

/-- The class of each message (R22; 10 R283; a PUB_REQ is a request and a PUB_ACK a completion without data). -/
def MKind.cls : MKind → MsgClass
  | .gets | .getx | .getz | .upg | .cflq | .cinvq | .memRead | .pubReq => .request
  | .fwdGets | .fwdGetx | .fwdWb | .fwdWbi | .inv => .forward
  | .dataS | .dataE | .dataM | .fwdData => .data
  | .putc | .putm | .memWrite => .writeback
  | .upgAck | .upgMiss | .invAck | .done | .wbAck | .mntAck | .pubAck => .response

/-- The payload flits of a message: one for a 64-byte sector (R21). A hem tag rides in the header. -/
def MKind.payload : MKind → Nat
  | .dataS | .dataE | .dataM | .fwdData | .putm | .memWrite => 1
  | _ => 0

/-- The classes that a receiver of a class may wait for before it consumes a packet (R22). -/
def MsgClass.mayWait : MsgClass → List MsgClass
  | .request => [.forward, .response, .data]
  | .forward => [.response, .data, .writeback]
  | .response | .data | .writeback | .bridge => []

/-- Where an asker of a publish stands. No message of the mesh names a peer: its request comes by the fabric. -/
def askerPlace (caps : Caps) : PubWho → MeshEnd
  | .core c => .cluster (c / 4)
  | .slice sec => .slice (sliceNum caps (64 * sec))
  | .peer _ _ => .quarter 0

/-- From where to where a message goes (10 R283; 09 R264). INV and INV_ACK name a cluster, the others a core. -/
def Msg.ends (caps : Caps) (m : Msg) : MeshEnd × MeshEnd :=
  let sl : MeshEnd := .slice (sliceNum caps (64 * m.sec))
  let cl : MeshEnd := .cluster (m.core / 4)
  match m.kind with
  | .gets | .getx | .getz | .upg | .cflq | .cinvq | .putc | .putm | .fwdData | .upgMiss | .done => (cl, sl)
  | .fwdGets | .fwdGetx | .fwdWb | .fwdWbi | .dataS | .dataE | .dataM | .upgAck | .wbAck | .mntAck => (sl, cl)
  | .inv => (sl, .cluster m.core)
  | .invAck => (.cluster m.core, sl)
  | .memRead => (sl, .homePart (sliceDie (sliceNum caps (64 * m.sec))))
  | .memWrite => (sl, .homePart (sliceDie (sliceNum caps (64 * m.sec))))
  | .pubReq => (askerPlace caps m.who, cl)
  | .pubAck => (cl, askerPlace caps m.who)

/-- A message without its data, as its packet's flits name it. -/
def Msg.key (m : Msg) : Msg := { m with val := SecVal.zero }

/-- The flits with which a message enters the mesh at a cclk, as packet number p; none between two places of one router,
whose crossbar joins them (R20, R21). -/
def Msg.flits (caps : Caps) (now p : Nat) (m : Msg) : List Flit :=
  let (a, b) := m.ends caps
  if a.router now = b.router now then []
  else (List.range (m.kind.payload + 1)).map fun i =>
    ⟨a.router now, b.router now, m.kind.cls, false, now, 0, p, i, m.kind.payload, m.key⟩

end Sys2Proof.Machine
end

