-- ==== Sys2Proof/Machine/Ops.lean ====
section
/-! DEFINITION. The named operations over the state: bytes and sectors of memory, reading and writing one location
coherently, access to cores, blocks, groups and threads, counters, I/O-core queues, fault records, the containment
walk, taking a fault into a handler and returning from it. -/

namespace Sys2Proof.Machine

/-! ### Bytes and sectors -/

/-- One byte of a memory. -/
def Memory.byte (m : Memory) (a : Nat) : Byte := getD 0 m a

/-- Write one byte, keeping the canonical form. -/
def Memory.setByte (m : Memory) (a : Nat) (b : Byte) : Memory := putD 0 a b m

/-- n bytes from an address upward. -/
def Memory.bytes (m : Memory) (a n : Nat) : List Byte := (List.range n).map fun i => m.byte (a + i)

/-- Write consecutive bytes. -/
def Memory.setBytes (m : Memory) (a : Nat) : List Byte → Memory
  | [] => m
  | b :: bs => (m.setByte a b).setBytes (a + 1) bs

/-- The number that little-endian bytes hold (00 R4). -/
def ofBytes : List Byte → Nat
  | [] => 0
  | b :: bs => b.toNat + 256 * ofBytes bs

/-- n little-endian bytes of a number. -/
def toBytes : Nat → Nat → List Byte
  | 0, _ => []
  | n + 1, x => BitVec.ofNat 8 x :: toBytes n (x / 256)

/-- A little-endian number in a memory. -/
def Memory.num (m : Memory) (a n : Nat) : Nat := ofBytes (m.bytes a n)

/-- Write a little-endian number. -/
def Memory.setNum (m : Memory) (a n x : Nat) : Memory := m.setBytes a (toBytes n x)

/-- The 64 bytes of sector number sec of a memory. -/
def Memory.sector (m : Memory) (sec : Nat) : SecData := BitVec.ofNat 512 (m.num (64 * sec) 64)

/-- The bit mask of a byte mask. -/
def expandMask (m : BitVec 64) : SecData :=
  (List.range 64).foldl (fun acc i => if m.getLsbD i then acc ||| (0xFF#512 <<< (8 * i)) else acc) 0

/-- Bytes of v where the mask is set, bytes of d elsewhere. -/
def mergeSec (d : SecData) (m : BitVec 64) (v : SecData) : SecData :=
  (d &&& ~~~(expandMask m)) ||| (v &&& expandMask m)

/-- The byte mask of n bytes from offset o. -/
def maskOf (o n : Nat) : BitVec 64 := ((1#64 <<< n) - 1) <<< o

/-- A value of n bytes placed at offset o of a sector. -/
def placeSec (o : Nat) (v : Nat) : SecData := BitVec.ofNat 512 v <<< (8 * o)

/-- n bytes at offset o of a sector, as a number. -/
def takeSec (d : SecData) (o n : Nat) : Nat := (d >>> (8 * o)).toNat % 2 ^ (8 * n)

/-- Write the bytes of a sector that a mask selects. -/
def Memory.setSector (m : Memory) (sec : Nat) (mask : BitVec 64) (v : SecData) : Memory :=
  (List.range 64).foldl
    (fun m i => if mask.getLsbD i then m.setByte (64 * sec + i) (v.extractLsb' (8 * i) 8) else m) m

/-! ### Global physical addresses (01 R31) -/

/-- The home package of an address. -/
def gpaHome (pa : Nat) : Nat := pa / 2 ^ 52 % 1024

/-- The address within its home. -/
def gpaOff (pa : Nat) : Nat := pa % 2 ^ 52

/-- The address of an offset in a home. -/
def gpaOf (home off : Nat) : Nat := home * 2 ^ 52 + off % 2 ^ 52

/-- The home package of a sector number of a global physical address. -/
def secHome (sec : Nat) : Nat := gpaHome (64 * sec)

/-- The byte offset in its home at which a sector starts. -/
def secOff (sec : Nat) : Nat := gpaOff (64 * sec)

/-- A group of the system class: one of its threads is privileged (R103, R114). -/
def Group.system (y : Group) : Bool := y.threads.any fun t => !t.exited && t.priv

/-- A group turns to the system class: it stands in the order of those that wait for a place of the active set, which the next
turn of its quadrant gives it where one is free (R114). -/
def Group.joinSystem (now : Nat) (y : Group) : Group := if y.system then y else { y with active := false, pendAt := now }

namespace State

/-- The package's own ID (01 R30). -/
def self (s : State) : Nat := s.pkg.id.toNat

/-- A sector is homed on this package. -/
def homed (s : State) (sec : Nat) : Bool := secHome sec == s.self

/-! ### Cores, blocks, groups, threads -/

def core (s : State) (c : Nat) : Core := getD Core.reset s.cores c

def modCore (s : State) (c : Nat) (f : Core → Core) : State :=
  { s with cores := putD Core.reset c (f (s.core c)) s.cores }

def blk? (s : State) (b : Nat) : Option Block := find? b s.blocks

def modBlk (s : State) (b : Nat) (f : Block → Block) : State :=
  match s.blk? b with
  | some x => { s with blocks := put b (f x) s.blocks }
  | none => s

def grp? (s : State) (b g : Nat) : Option Group := (s.blk? b).bind fun x => x.groups[g]?

def modGrp (s : State) (b g : Nat) (f : Group → Group) : State :=
  s.modBlk b fun x => { x with groups := x.groups.modify g f }

def thr? (s : State) (b g l : Nat) : Option Thread := (s.grp? b g).bind fun x => x.threads[l]?

def modThr (s : State) (b g l : Nat) (f : Thread → Thread) : State :=
  s.modGrp b g fun x => { x with threads := x.threads.modify l f }

/-- A directory entry. -/
def dirE (s : State) (sec : Nat) : DirE := getD DirE.reset s.dir sec

def setDir (s : State) (sec : Nat) (e : DirE) : State := { s with dir := putD DirE.reset sec e s.dir }

/-- An L1 sector of a core; none in state I. -/
def l1? (s : State) (c sec : Nat) : Option L1E := find? sec (s.core c).l1

def setL1 (s : State) (c sec : Nat) (e : L1E) : State := s.modCore c fun x => { x with l1 := put sec e x.l1 }

def delL1 (s : State) (c sec : Nat) : State := s.modCore c fun x => { x with l1 := del sec x.l1 }

/-- A grid of the dispatcher, by its GRIDID. -/
def grid? (s : State) (g : Nat) : Option Grid := find? g s.dsp.grids

def setGrid (s : State) (g : Grid) : State := { s with dsp := { s.dsp with grids := put g.id g s.dsp.grids } }

/-- Deliver something outside the package, or to software. -/
def emit (s : State) (o : Out) : State := { s with out := s.out ++ [o] }

/-- Put a message on the mesh: its packet enters at its sender's router (01 R20, R21). -/
def send (s : State) (m : Msg) : State :=
  { s with net := s.net ++ [m], flits := s.flits ++ m.flits s.pkg.caps s.now s.pkts, pkts := s.pkts + 1 }

/-- A message has arrived: the last flit of its packet, which leaves the mesh after the others, has been sunk at its
destination (01 R21, R22). -/
def landed (s : State) (m : Msg) : Bool :=
  decide (s.flits.countP (fun f => f.msg == m.key && f.idx == f.len) < s.net.countP (·.key == m.key))

/-- The progress timer of a block returns to 0 (19 R478); the field holds the cclk at which it last did. -/
def progress (s : State) (b : Nat) : State := s.modBlk b fun x => { x with timer := s.now, heldMark := false }

/-! ### Counters (01 R34): the counter with index i of engine row k (R511), of one unit -/

def counterKey (row idx unit : Nat) : Nat := (row * 64 + idx) * 2048 + unit

def bump (s : State) (row idx unit n : Nat) : State :=
  let k := counterKey row idx unit
  { s with counters := putD 0 k ((getD 0 s.counters k + n) % 2 ^ 48) s.counters }

def counter (s : State) (row idx unit : Nat) : Nat := getD 0 s.counters (counterKey row idx unit)

end State

/-! ### One location, coherently (06 R182; 09 R251; 15 R385)

An access that the spec has performed at the home slice, or by the walker, the dispatcher, a copy or a service core
through it, is one step over every copy of the sector in the package (assumption log 9). -/

/-- A cache state that answers for its sector. -/
def L1St.owned : L1St → Bool
  | .m | .o | .oma | .e => true
  | _ => false

/-- A cache state that holds data. -/
def L1St.hasData : L1St → Bool
  | .isd | .imd => false
  | _ => true

/-- A message that carries the sector's data to a new holder, or from its owner. -/
def MKind.carriesData : MKind → Bool
  | .dataE | .dataM | .fwdData => true
  | _ => false

namespace State

/-- The data of a sector in HBM, with the mark of a poisoned sector (R291, R425). -/
def memSec (s : State) (sec : Nat) : SecVal :=
  ⟨s.mem.sector (secOff sec / 64), none, s.hom.poison.contains sec⟩

/-- The current value of a sector in this package: its owner's, one on its way, the slice's, or memory's. -/
def cohRead (s : State) (sec : Nat) : SecVal :=
  let e := s.dirE sec
  let owned := e.st == .x || e.st == .o
  match s.cores.findSome? fun (_, c) => (find? sec c.l1).bind fun e => if e.st.owned then some e.val else none with
  | some v => v
  | none =>
    match s.net.findSome? fun m => if m.sec = sec && m.kind.carriesData then some m.val else none with
    | some v => v
    | none =>
      match (e.held.bind fun (c, v) => if owned && c == e.owner then some v else none) with
      | some v => v
      | none =>
        match (if owned then s.net.find? fun m => m.kind == .putm && m.sec == sec && m.core == e.owner else none) with
        | some m => m.val
        | none => if e.lv then e.val else s.memSec sec

/-- Apply a change to every copy of a sector in the package. -/
def mapCopies (s : State) (sec : Nat) (f : SecVal → SecVal) : State :=
  let s := { s with
    cores := s.cores.map fun (k, c) =>
      (k, { c with l1 := c.l1.map fun (x, e) => if x = sec then (x, { e with val := f e.val }) else (x, e) })
    net := s.net.map fun m => if m.sec = sec then { m with val := f m.val } else m
    dir := s.dir.map fun (k, e) =>
      if k = sec then (k, { e with val := f e.val, held := e.held.map fun (c, v) => (c, f v) }) else (k, e) }
  if s.homed sec && !(s.dirE sec).lv then
    let v := f (s.memSec sec)
    { s with
      mem := s.mem.setSector (secOff sec / 64) (-1) v.bytes
      hom := { s.hom with poison := if v.psn then (if s.hom.poison.contains sec then s.hom.poison
        else s.hom.poison ++ [sec]) else s.hom.poison.filter (· != sec) } }
  else s

/-- Abort every transaction whose footprint a write (or, for its write set, any access) by another agent meets: the
threads of the group except one, or of every group (R204). The abort itself is in abortTxn. -/
def conflicts (s : State) (sec : Nat) (write : Bool) (me : Option (Nat × Nat × Nat)) : List (Nat × Nat × Nat) :=
  s.blocks.flatMap fun (b, x) =>
    (x.groups.zipIdx).flatMap fun (g, gi) =>
      (g.threads.zipIdx).filterMap fun (t, l) =>
        match t.txn with
        | some x =>
          if me != some (b, gi, l) && ((find? sec x.writes).isSome || (write && x.reads.contains sec))
          then some (b, gi, l) else none
        | none => none

end State

/-! ### Bounded transactions: the abort (06 R205, R206) -/

/-- The status word of R206. -/
def txnStatus (cause code fcode : BitVec 8) : Word := 0#8 ++ fcode ++ code ++ cause

/-- Set a V register of a window; nothing outside it. -/
def setV (v : List Word) (n : Nat) (x : Word) : List Word := v.set n x

namespace State

/-- A speculative sector is invalidated in the L1 that owns it: the copy is given up as a clean one, the slice having been
given its data before the transaction wrote it (R203 rule 2, R206 rule 1; assumption log 54). -/
def invalidateSpec (s : State) (c sec : Nat) : State :=
  match s.l1? c sec with
  | some e =>
    if e.st = .e ∨ e.st = .m then
      (s.setL1 c sec { e with st := .eia }).send ⟨.putc, c, sec, SecVal.zero, 1, 0, .core c⟩
    else s
  | none => s

/-- An abort: the speculative sectors are invalidated, the status register written, the PC set to the handler (R206). A
load or atomic of the thread still in progress is withdrawn, and its stores not yet retired are dropped. -/
def abortTxn (s : State) (b g l : Nat) (cause code fcode : BitVec 8) : State :=
  match s.thr? b g l with
  | some t =>
    match t.txn with
    | some x =>
      let c := ((s.grp? b g).map (·.core)).getD 0
      let s := s.modThr b g l fun t =>
        { t with txn := none, v := setV t.v x.status.toNat (txnStatus cause code fcode), pc := x.handler }
      let s := x.writes.foldl (fun s (sec, _) => s.invalidateSpec c sec) s
      let s := { s with accs := (s.accs.map fun (a : Acc) =>
        if a.blk = b ∧ a.grp = g then { a with lanes := a.lanes.filter fun z => z.lane != l } else a).filter fun a =>
          a.lanes != [] }
      let s := s.modGrp b g fun y => { y with storeQ := y.storeQ.map fun e =>
        { e with lanes := e.lanes.map fun z => if z.lane = l then { z with done := true } else z } }
      s.bump 2 3 c 1
    | none => s
  | none => s

/-- Abort the transactions of a list of threads with cause 0x10. -/
def abortAll (s : State) : List (Nat × Nat × Nat) → State
  | [] => s
  | (b, g, l) :: t => (s.abortTxn b g l 0x10 0 0).abortAll t

/-- Another agent reads a sector: the transactions that wrote it abort (R204 rule 1). -/
def readBy (s : State) (sec : Nat) : State := s.abortAll (s.conflicts sec false none)

/-- Write the bytes of a sector that a mask selects, in every copy. A write of all 64 bytes clears poison (R194). -/
def cohWrite (s : State) (sec : Nat) (mask : BitVec 64) (v : SecData) : State :=
  let t := s.mapCopies sec fun x => { x with bytes := mergeSec x.bytes mask v, psn := x.psn && mask != -1 }
  let t := if (t.dirE sec).lv then t.setDir sec { t.dirE sec with ld := true } else t
  t.abortAll (s.conflicts sec true none)

/-- Remove the hem tag of a sector from every copy (R261 rule 4). -/
def untag (s : State) (sec : Nat) : State := s.mapCopies sec fun x => { x with tag := none }

/-- A little-endian number of own HBM, read through the home slice. -/
def homeNum (s : State) (off n : Nat) : Nat :=
  let a := gpaOf s.self off
  if a % 64 + n ≤ 64 then takeSec (s.cohRead (a / 64)).bytes (a % 64) n
  else ofBytes ((List.range n).map fun i =>
    let a := gpaOf s.self (off + i)
    BitVec.ofNat 8 (takeSec (s.cohRead (a / 64)).bytes (a % 64) 1))

/-- Write bytes of own HBM through the home slice. -/
def homeSetBytes (s : State) (off : Nat) : List Byte → State
  | [] => s
  | b :: bs =>
    let a := gpaOf s.self off
    (s.cohWrite (a / 64) (maskOf (a % 64) 1) (placeSec (a % 64) b.toNat)).homeSetBytes (off + 1) bs

/-- Write a little-endian number that lies within one sector of own HBM, through the home slice. -/
def homeSetNum (s : State) (off n x : Nat) : State :=
  let a := gpaOf s.self off
  s.cohWrite (a / 64) (maskOf (a % 64) n) (placeSec (a % 64) (x % 2 ^ (8 * n)))

/-! ### I/O-core queues (21 R532 to R534) -/

/-- The slot size and the number of slots of a queue; none where it is disabled. -/
def ioqShape (s : State) (q : Nat) : Option (Nat × Nat × Nat) :=
  let d := s.homeNum (gpaOff s.hst.ioqbase.toNat + 32 * q) 16
  let ring := d % 2 ^ 62
  let lg := d / 2 ^ 64 % 32
  let esz := d / 2 ^ 69 % 4
  if d / 2 ^ 71 % 2 = 1 ∧ 4 ≤ lg ∧ lg ≤ 20 ∧ esz < 3 then some (ring, lg, 16 * 2 ^ esz) else none

/-- A queue has a bound core: an I/O core or a large core (R532). -/
def ioqBound (s : State) (q : Nat) : Bool :=
  let c := s.homeNum (gpaOff s.hst.ioqbase.toNat + 32 * q + 9) 1 % 128
  decide (c ≤ 47) || (decide (64 ≤ c) && decide (c ≤ 71))

/-- Whether a doorbell write of v replaces the kept value t (R533). -/
def halfAbove (v t : Nat) : Bool := 1 ≤ (v + 2 ^ 32 - t % 2 ^ 32) % 2 ^ 32 && (v + 2 ^ 32 - t % 2 ^ 32) % 2 ^ 32 < 2 ^ 31

/-- Raise the kept tail of a queue; an interrupt where it changes and differs from the head (R533). -/
def ioqTailSet (s : State) (q v : Nat) : State :=
  let t := getD 0 s.hst.ioqTail q
  if halfAbove v t then
    let s := { s with hst := { s.hst with ioqTail := putD 0 q v s.hst.ioqTail } }
    let s := s.homeSetNum (gpaOff s.hst.ioqbase.toNat + 32 * q + 16) 4 v
    if v != getD 0 s.hst.ioqHead q && s.ioqBound q then s.emit (.irq q) else s
  else s

/-- A hardware producer's record: written and counted, or dropped where the queue is full, too narrow or disabled;
true where it was written (R534). -/
def ioqPush (s : State) (q : Nat) (rec : List Byte) : State × Bool :=
  match s.ioqShape q with
  | none => (s, false)
  | some (ring, lg, sz) =>
    let tail := getD 0 s.hst.ioqTail q
    let head := getD 0 s.hst.ioqHead q
    if sz < rec.length ∨ 2 ^ lg ≤ (tail + 2 ^ 32 - head) % 2 ^ 32 then (s, false)
    else
      let s := s.homeSetBytes (gpaOff ring + sz * (tail % 2 ^ lg)) (rec ++ List.replicate (sz - rec.length) 0)
      let s := s.ioqTailSet q ((tail + 1) % 2 ^ 32)
      (s.emit (.ioq q rec), true)

end State

/-! ### Fault records (20 R491 to R493) -/

/-- A fault: its code, its level of origin and kind, what the record holds, and the PC after the instruction. -/
structure Flt where
  code : BitVec 8
  level : Nat
  kind : Nat
  aux : Nat
  pc : Nat
  npc : Nat
  va : Nat
  lmask : BitVec 32
  broken : Bool
  fetch : Bool
  deriving DecidableEq, Repr

/-- A synchronous thread fault at an instruction. -/
def Flt.sync (code : BitVec 8) (pc npc va : Nat) : Flt := ⟨code, 0, 0, 0, pc, npc, va, 0, false, false⟩

/-- The 512 bits of a record (R492). -/
def Flt.word (f : Flt) (act lvl asid gridid blkid grp lane core : Nat) : Nat :=
  f.code.toNat + f.level * 2 ^ 8 + f.kind * 2 ^ 11 + act * 2 ^ 14 + lvl * 2 ^ 16 + (if f.broken then 2 ^ 19 else 0)
    + f.aux % 2 ^ 32 * 2 ^ 32 + f.pc % 2 ^ 56 * 2 ^ 64 + f.va % 2 ^ 56 * 2 ^ 128 + f.lmask.toNat * 2 ^ 192
    + asid % 2 ^ 11 * 2 ^ 224 + gridid % 2 ^ 32 * 2 ^ 256 + blkid % 2 ^ 32 * 2 ^ 288 + grp % 2 ^ 7 * 2 ^ 320
    + lane % 32 * 2 ^ 327 + core % 256 * 2 ^ 332

/-- The sixteen words of a record. -/
def recWords (x : Nat) : List Word := (List.range 16).map fun i => BitVec.ofNat 32 (x / 2 ^ (32 * i))

namespace State

/-- Deliver a record: to the thread's TRP_FREC for records of thread origin, then to the queue TRP_CTL.FQUEUE
(R493). -/
def deliver (s : State) (b g l : Nat) (f : Flt) (act lvl : Nat) : State :=
  let x := s.blk? b
  let core := ((s.grp? b g).map (·.core)).getD 0
  let w := f.word act lvl ((x.map (·.asid)).getD 0) ((x.map (·.gridid)).getD 0) ((x.map (·.blkid)).getD 0) g l core
  let s := if f.level = 0 then s.modThr b g l fun t => { t with frec := recWords w } else s
  let s := s.bump 16 0 core 1
  match s.ioqPush (s.trp.ctl.toNat % 1024) (toBytes 64 w) with
  | (s, true) => s
  | (s, false) =>
    let s := s.bump 16 5 core 1
    { s with trp := { s.trp with drop := true } }

end State

/-! ### Ending threads, groups, blocks and grids (06 R189; 11 R303, R304; 13 R342; 19 R476; 20 R494, R498) -/

/-- A thread becomes a helper lane (R119): a transaction it held is gone, and it is no longer held. -/
def Thread.finish (t : Thread) : Thread := { t with exited := true, hold := none, txn := none, replay := [] }

/-- All threads of a group have exited. -/
def Group.allExited (g : Group) : Bool := g.threads.all (·.exited)

/-- Whether a collective lacks a group's slice. -/
def Coll.lacks (c : Coll) (g : Nat) : Bool := !c.slices.any (·.grp == g)

/-- The empty slice of a group (R303). -/
def Slice.empty (g pc : Nat) : Slice := ⟨0, g, 0, pc, .g, .g, 0, 0, 0, 0, 0, false, true, false, 0, 0⟩

/-- A collective in which every group has supplied its slice and every slice is done (R304). -/
def Coll.complete (c : Coll) (ngroups : Nat) : Bool :=
  (List.range ngroups).all (fun g => !c.lacks g) && c.slices.all (·.done)

/-- Collectives of a block in flight (R301, R327). -/
def Block.liveColls (x : Block) : List Coll := x.colls.filter (!·.closed)

namespace State

/-- The policy of a level for a block: the launch frame's where POLSET is set, else the stream's (R496). -/
def policy (s : State) (x : Block) (lvl : Nat) : Nat :=
  if lvl < 5 && x.fr.polset.getLsbD lvl then x.fr.policy.toNat / 4 ^ lvl % 4
  else (((find? x.stream s.dsp.streams).map (·.policy.toNat)).getD 0xAAA) / 4 ^ lvl % 4

/-- Withdraw the accesses and the posted work of one lane or group. -/
def dropAccs (s : State) (b : Nat) (p : Nat → Nat → Bool) : State :=
  let as := s.accs.map fun a =>
    if a.blk = b then { a with lanes := a.lanes.filter fun z => !p a.grp z.lane } else a
  { s with accs := as.filter fun a => a.blk != b || a.lanes != [] }

/-- One thread ends as a helper lane (R498 rule 3). Its stores in the store queue stay, but for those after number seq
where a fault of an access of that number is contained late (06 R549); an atomic whose result it would take goes. -/
def killThread (s : State) (b g l : Nat) (seq : Option Nat) : State :=
  let gone (e : StEntry) : Bool := e.acc.isSome || seq.any fun n => decide (n < e.seq)
  ((s.modThr b g l fun t => { t.finish with deferred := none }).modGrp b g fun y =>
    { y with
      storeQ := (y.storeQ.map fun e =>
        { e with lanes := e.lanes.filter fun z => z.lane != l || z.done || !gone e }).filter fun e =>
          e.lanes != [] }).dropAccs b fun g' l' => g' == g && l' == l

def killThreads (s : State) (b g : Nat) : List Nat → State
  | [] => s
  | l :: ls => (s.killThread b g l none).killThreads b g ls

/-- Exit reports of a group at block end (R494). -/
def exitReports (s : State) (b g : Nat) : State :=
  match s.grp? b g with
  | none => s
  | some y =>
    let s := if y.lanefault = 0 then s
      else s.deliver b g 0 ⟨0x09, 2, 2, 0, 0, 0, 0, y.lanefault, false, false⟩ 0 2
    (List.range 32).foldl (fun s l =>
      match y.threads[l]? with
      | some t =>
        match t.off, t.deferred with
        | true, some d => s.deliver b g l ⟨d.code, 0, 2, d.count, d.pc, d.pc, d.va, 0, false, false⟩ 0 0
        | _, _ => s
      | none => s) s

/-- Lower the pins of a grid's lease on a cluster when its last block there has ended (R452). -/
def unpin (s : State) (cluster asid : Nat) (rs : List Range) : State :=
  let hit (e : Tlb) : Bool := e.asid == asid && rs.any fun r => r.base < e.vpage + e.size && e.vpage < r.base + r.len
  { s with xlt := { s.xlt with tlb := put cluster ((getD [] s.xlt.tlb cluster).map fun e =>
      if hit e then { e with pins := e.pins - 1 } else e) s.xlt.tlb } }

/-- The ranges of a block's lease, the spill area's included (R468). -/
def leaseOf (fr : LFrame) (nblk : Nat) : List Range :=
  fr.ranges ++ (if fr.spillsz = 0 then [] else [⟨fr.spillbase, fr.spillsz * nblk * fr.bthreads, true⟩])

/-- A block may issue: its stream buffers are loaded, and in an ordered grid every group of the block before it has
issued (13 R340; 19 R474). -/
def gateOpen (s : State) (x : Block) : Bool :=
  x.tiles.all (fun t => !t.buf.isEmpty)
    && (!x.fr.ordered || decide (x.blkid ≤ (((find? x.gridid s.dsp.grids).map (·.opened)).getD 0)))

/-- Start the groups of every block whose gate is open. -/
def startBlocks (s : State) : State :=
  let start (x : Block) : Block := { x with groups := x.groups.map fun y => { y with started := true } }
  { s with blocks := s.blocks.map fun (b, x) => if s.gateOpen x then (b, start x) else (b, x) }

/-- Every group of a block of an ordered grid has issued, or the block ends: the next block may start (19 R474). -/
def orderNext (s : State) (x : Block) : State :=
  match find? x.gridid s.dsp.grids with
  | some g => if g.opened = x.blkid then (s.setGrid { g with opened := g.opened + 1 }).startBlocks else s
  | none => s

/-- A batch of a thread still holds a collective or a bulk fabric transfer (11 R314). -/
def batchLive (s : State) (b g l : Nat) (n : Word) : Bool :=
  ((s.blk? b).map fun x => x.liveColls.any fun c => c.batches.contains (g, l, n)).getD false
    || (s.fab.bulks.any fun k => k.blk == b && k.grp == g && k.lane == l && k.batch == n)
    || ((s.thr? b g l).map fun t => t.resume.any (·.batch == n)).getD false

/-- Sealed batches that have completed leave the lists of a block's threads (11 R314). -/
def settleBatches (s : State) (b : Nat) : State :=
  s.modBlk b fun x => { x with groups := x.groups.zipIdx.map fun (y, g) => { y with
    threads := y.threads.zipIdx.map fun (t, l) => { t with seals := t.seals.filter fun n => s.batchLive b g l n } } }

/-- Collectives that have completed are counted and end (11 R304, R329). Those older than every collective in flight
are forgotten. -/
def settleColls (s : State) (b : Nat) : State :=
  match s.blk? b with
  | none => s
  | some x =>
    let n := x.colls.countP fun c => !c.closed && c.complete x.groups.length
    let cs := x.colls.map fun c => if c.complete x.groups.length then { c with closed := true } else c
    ((s.modBlk b fun x => { x with colls := cs.dropWhile (·.closed) }).bump 7 0 x.cluster n).settleBatches b

/-- A block ends: exit reports, then its cost, its cores and, with the grid's last block on the cluster, its pins are
released; a grid whose last block has ended lowers the weight-store readers (R476). -/
def endBlock (s : State) (b : Nat) : State :=
  match s.blk? b with
  | none => s
  | some x =>
    let s := (List.range x.groups.length).foldl (fun s g => s.exitReports b g) s
    let s := x.groups.foldl (fun s y => match y.bast with
      | some z => s.bump 4 1 (4 * y.core + y.quad) (s.now - z.since)
      | none => s) s
    let s := { s with
      blocks := del b s.blocks
      accs := s.accs.filter fun a => a.blk != b
      hold := s.hold.map fun (k, us) => (k, us.filter (·.blk != b))
      fab := { s.fab with bulks := s.fab.bulks.filter (·.blk != b) } }
    let s := if x.fr.ordered then s.orderNext x else s
    let s := if s.blocks.any fun (_, y) => y.gridid == x.gridid && y.cluster == x.cluster then s
      else s.unpin x.cluster x.asid (leaseOf x.fr x.nblk)
    match find? x.gridid s.dsp.grids with
    | none => s
    | some g =>
      let g := { g with ended := g.ended + 1, cores := g.cores ++ x.cores }
      let s := s.setGrid g
      if g.nblk ≤ g.ended ∧ x.fr.ws then { s with wsReaders := s.wsReaders - 1 } else s

/-- End a block whose groups and copies have all ended, once the stores that they queued have retired (06 R183; R342). -/
def checkBlock (s : State) (b : Nat) : State :=
  match s.blk? b with
  | some x =>
    if x.groups.all (fun y => y.ended && y.storeQ.isEmpty) && x.tiles.all (·.ended) then s.endBlock b else s
  | none => s

/-- A block is killed: every group and copy of it ends, and the block with them once the stores that its threads had
queued have retired (R498; 06 R183). -/
def closeBlock (s : State) (b : Nat) : State :=
  let stop (y : Group) : Group := { y with
    ended := true
    killed := true
    threads := y.threads.map fun t => { t.finish with deferred := t.deferred }
    storeQ := (y.storeQ.filter (·.acc.isNone)) }
  ((s.modBlk b fun x => { x with
      killed := true
      groups := x.groups.map stop
      tiles := x.tiles.map fun t => { t with ended := true, fault := none, wait := .none } }).dropAccs b fun _ _ => true).checkBlock b

/-- Every block of a grid ends; its blocks not yet placed, and those saved, are discarded (R190, R498). now_ says that the
blocks end at once, with whatever their store queues hold (R190). -/
def killGrid (s : State) (gid : Nat) (now_ : Bool) : State :=
  let bs := s.blocks.filterMap fun (b, x) => if x.gridid = gid then some b else none
  let s := match find? gid s.dsp.grids with
    | some g =>
      let s := s.setGrid { g with killed := true, ended := g.nblk - bs.length, nextBlk := g.nblk, saved := [] }
      if bs = [] ∧ g.ended < g.nblk ∧ g.fr.ws ∧ g.admitted then { s with wsReaders := s.wsReaders - 1 } else s
    | none => s
  bs.foldl (fun s b => if now_ then s.endBlock b else s.closeBlock b) s

/-- Every grid of a stream is killed and no record of it is taken until a reload (R498). -/
def killStream (s : State) (st : Nat) : State :=
  let gs := s.dsp.grids.filterMap fun (k, g) => if g.stream = st then some k else none
  let s := gs.foldl (fun s g => s.killGrid g false) s
  { s with dsp := { s.dsp with streams := s.dsp.streams.map fun (k, x) =>
      if k = st then (k, { x with killed := true }) else (k, x) } }

end State

/-! ### The containment walk (20 R497 to R499) -/

/-- The level that acts and its action, from level lvl upward. -/
def containWalk (pol : Nat → Nat) (f : Flt) (retries : Nat) : Nat → Nat → Nat × Nat
  | lvl, 0 => (2, lvl)
  | lvl, fuel + 1 =>
    let p := pol lvl
    let p := if f.code = 0x25 ∧ lvl = 3 ∧ p ≠ 3 then 2 else p
    let p := if p = 3 ∧ 5 ≤ lvl then 2 else p
    let p := if p = 1 ∧ (f.code = 0x30 ∨ f.code = 0x31 ∨ f.code = 0x38) then 0 else p
    let p := if (p = 1 ∨ (p = 0 ∧ f.fetch)) ∧ 3 ≤ retries then 2 else p
    if p = 3 then containWalk pol f retries (lvl + 1) fuel else (p, lvl)

namespace State

/-- COLLECTIVE_ABANDONED at the block level: the block ends whatever its policy, and kill_parent passes it on (R304,
R497). -/
def abandon (s : State) (b g pc va : Nat) : State :=
  match s.blk? b with
  | none => s
  | some x =>
    let f : Flt := ⟨0x25, 3, 4, 0, pc, pc, va, 0, false, false⟩
    let (act, lvl) := containWalk (s.policy x) f 0 3 3
    let s := s.deliver b g 0 f act lvl
    if act = 2 && lvl == 4 then s.killGrid x.gridid false else if act = 2 && lvl == 5 then s.killStream x.stream
    else s.closeBlock b

/-- After threads of a group have exited: the group ends when all have; the block's collectives meet the end of the
group by R303 rule 3 (every thread by EXIT) or R304 (killed); a block without live groups and copies ends. -/
def groupExit (s : State) (b g : Nat) (killed : Bool) : State :=
  match s.blk? b, s.grp? b g with
  | some x, some y =>
    if y.allExited && !y.ended then
      let s := s.modGrp b g fun y => { y with ended := true, killed := killed }
      if killed then
        if x.colls.any (·.lacks g) then s.abandon b g (((x.colls.find? (·.lacks g)).map (·.firstPc)).getD 0) 0
        else (s.modBlk b fun x => { x with abandoned := true }).checkBlock b
      else
        ((s.modBlk b fun x => { x with
          colls := x.colls.map fun (c : Coll) =>
            if c.lacks g then { c with slices := c.slices ++ [Slice.empty g 0] } else c }).settleColls b).checkBlock b
    else s
  | _, _ => s

/-- kill_self at a level (R498 rule 3); seq is the number of the access whose late fault it contains (06 R549). -/
def killAt (s : State) (b g l lvl : Nat) (seq : Option Nat) : State :=
  match s.blk? b with
  | none => s
  | some x =>
    if lvl = 0 then (s.killThread b g l seq).groupExit b g true
    else if lvl = 1 then (s.killThreads b g ((List.range 4).map (· + l / 4 * 4))).groupExit b g true
    else if lvl = 2 then (s.killThreads b g (List.range 32)).groupExit b g true
    else if lvl = 3 then s.closeBlock b
    else if lvl = 4 then s.killGrid x.gridid false
    else s.killStream x.stream

/-! ### Taking a fault, and returning from a handler (20 R500, R501, R510; 06 R190) -/

/-- Whether a fault of a thread enters the handler (R501). -/
def entersHandler (s : State) (t : Thread) (f : Flt) : Bool :=
  f.level == 0 && f.code.toNat < 64 && s.trp.hmask.getLsbD f.code.toNat && s.trp.hvec != 0 && !t.priv
    && f.code != 0x09 && f.code != 0x12 && f.code != 0x25 && f.code != 0x38 && f.code != 0x3F

/-- The PC that word 0 of a fetch line stands for (R42). -/
def skipHeader (pc : Nat) : Nat := if pc % 128 = 0 then pc + 4 else pc

/-- The faulting thread enters its handler: TRP_EPC, TRP_FREC, privileged mode and the PC (R501). -/
def enterHandler (s : State) (b g l : Nat) (f : Flt) (epc : Nat) : State :=
  let s := (s.deliver b g l f 3 0).bump 16 1 (((s.grp? b g).map (·.core)).getD 0) 1
  (s.modGrp b g (Group.joinSystem s.now)).modThr b g l fun t =>
    { t with epc := epc, priv := true, pc := skipHeader (s.trp.hvec.toNat % 2 ^ 56 / 128 * 128) }

/-- A fault of one thread is taken: a transaction aborts instead (R205); LEASE_VIOLATION ends the grid (R190); a
handler is entered, or the containment walk runs and its action is applied (R497, R498). epc is the PC that TRP_EPC
takes on entry. -/
def takeFault (s : State) (b g l : Nat) (f : Flt) (epc : Nat) (seq : Option Nat := none) : State :=
  match s.blk? b, s.thr? b g l with
  | some x, some t =>
    if t.txn.isSome && f.code != 0x12 then s.abortTxn b g l 0x14 0 f.code
    else if f.code = 0x12 then (s.deliver b g l { f with level := 4 } 2 4).killGrid x.gridid true
    else if s.entersHandler t f then s.enterHandler b g l f epc
    else
      let tries := if t.retryPc = f.pc then t.retries else 0
      let (act, lvl) := containWalk (s.policy x) f tries 0 6
      let s := s.deliver b g l f act lvl
      if act = 2 then s.killAt b g l lvl seq
      else if act = 1 ∨ f.fetch then s.modThr b g l fun t => { t with retryPc := f.pc, retries := tries + 1 }
      else if f.kind = 1 then s
      else s.modThr b g l fun t => { t with pc := f.npc }
  | _, _ => s

/-- Faults of several threads of one group, in ascending lane order (R495). -/
def takeFaults (s : State) (b g : Nat) : List (Nat × Flt × Nat) → State
  | [] => s
  | (l, f, epc) :: t => (s.takeFault b g l f epc).takeFaults b g t

/-- Return from a handler: the PC of TRP_EPC by the word-0 rule, and unprivileged mode unless the ASID is 0 (R510). -/
def returnFrom (s : State) (b g l : Nat) : State :=
  let asid := ((s.blk? b).map (·.asid)).getD 0
  s.modThr b g l fun t => { t with pc := skipHeader t.epc, priv := asid == 0 }

/-- Enter a fault in a thread's deferred record (R187). -/
def deferFault (s : State) (b g l : Nat) (pc va : Nat) (code : BitVec 8) : State :=
  s.modThr b g l fun t =>
    { t with deferred := some (match t.deferred with
      | some d => { d with count := min 255 (d.count + 1) }
      | none => ⟨pc, va, code, 0⟩) }

/-- A store fault that is found after its thread went on: LEASE_VIOLATION ends the grid, any other enters the thread's
deferred record (R187, R190). -/
def storeFault (s : State) (b g l : Nat) (pc va : Nat) (code : BitVec 8) : State :=
  if code = 0x12 then s.takeFault b g l (Flt.sync code pc pc va) pc
  else s.deferFault b g l pc va code

end State

end Sys2Proof.Machine
end

