-- ==== Sys2Proof/Machine/Flags.lean ====
section
/-! DEFINITION. Number formats, exact values, rounding and the flags it raises (03 R70 to R97), the stochastic draw
and the hash (03 R78, R79), the reduction tree (03 R100). -/

namespace Sys2Proof.Machine

/-! ### Exact values -/

/-- An exact value: NaN with a sign, an infinity, or m · 2^e with a sign; with sticky set, the magnitude lies strictly
between m · 2^e and (m + 1) · 2^e. -/
inductive Val where
  | nan (sg : Bool)
  | inf (sg : Bool)
  | num (sg : Bool) (m : Nat) (e : Int) (sticky : Bool)
  deriving DecidableEq, Repr

def Val.zero (sg : Bool) : Val := .num sg 0 0 false

def Val.ofInt (x : Int) : Val := .num (x < 0) x.natAbs 0 false

def Val.sign : Val → Bool
  | .nan sg | .inf sg | .num sg _ _ _ => sg

def Val.isNan : Val → Bool
  | .nan _ => true
  | _ => false

def Val.isInf : Val → Bool
  | .inf _ => true
  | _ => false

def Val.isZero : Val → Bool
  | .num _ 0 _ false => true
  | _ => false

def Val.neg : Val → Val
  | .nan sg => .nan !sg
  | .inf sg => .inf !sg
  | .num sg m e st => .num (!sg) m e st

def Val.abs : Val → Val
  | .nan _ => .nan false
  | .inf _ => .inf false
  | .num _ m e st => .num false m e st

/-- The signed mantissa at exponent e0 ≤ e. -/
def scaled (sg : Bool) (m : Nat) (e e0 : Int) : Int :=
  let x : Int := (m * 2 ^ (e - e0).toNat : Nat)
  if sg then -x else x

/-- The exact sum of two finite values; a zero sum is −0 when both are −0, or when they cancel (or are zeros of
opposite signs) and the mode rounds down (R77). -/
def addNum (down : Bool) (sa : Bool) (ma : Nat) (ea : Int) (sb : Bool) (mb : Nat) (eb : Int) : Val :=
  let e0 := min ea eb
  let x := scaled sa ma ea e0 + scaled sb mb eb e0
  if x = 0 then .zero (if ma = 0 ∧ mb = 0 ∧ sa = sb then sa else down) else .num (x < 0) x.natAbs e0 false

/-- The exact sum (R85: infinity minus infinity is invalid); true where invalid. -/
def Val.add (down : Bool) : Val → Val → Val × Bool
  | .nan sg, _ => (.nan sg, false)
  | _, .nan sg => (.nan sg, false)
  | .inf a, .inf b => if a = b then (.inf a, false) else (.nan false, true)
  | .inf a, _ => (.inf a, false)
  | _, .inf b => (.inf b, false)
  | .num sa ma ea _, .num sb mb eb _ => (addNum down sa ma ea sb mb eb, false)

/-- The exact product; zero times infinity is invalid. -/
def Val.mul : Val → Val → Val × Bool
  | .nan sg, _ => (.nan sg, false)
  | _, .nan sg => (.nan sg, false)
  | .inf a, .num b m _ _ => if m = 0 then (.nan false, true) else (.inf (a != b), false)
  | .num b m _ _, .inf a => if m = 0 then (.nan false, true) else (.inf (a != b), false)
  | .inf a, .inf b => (.inf (a != b), false)
  | .num sa ma ea _, .num sb mb eb _ => (.num (sa != sb) (ma * mb) (ea + eb) false, false)

/-- The order of two non-NaN values, −0 and +0 equal: less, equal, greater. -/
def Val.cmp (a b : Val) : Ordering :=
  match a, b with
  | .inf x, .inf y => if x = y then .eq else if x then .lt else .gt
  | .inf x, _ => if x then .lt else .gt
  | _, .inf y => if y then .gt else .lt
  | .num sa ma ea _, .num sb mb eb _ =>
    let e0 := min ea eb
    compare (scaled sa ma ea e0) (scaled sb mb eb e0)
  | _, _ => .eq

/-- The order with −0 below +0 (R196, R100). -/
def Val.lt0 (a b : Val) : Bool :=
  match a.cmp b with
  | .lt => true
  | .gt => false
  | .eq => a.sign && !b.sign

/-! ### Formats -/

/-- The layout of a floating format (R70). -/
structure FSpec where
  bits : Nat
  eb : Nat
  mb : Nat
  bias : Nat
  hasInf : Bool
  hasNan : Bool
  deriving DecidableEq, Repr

/-- The layout of a format code; none for integers and E8M0. -/
def fmtSpec : Fmt → Option FSpec
  | .fp64 => some ⟨64, 11, 52, 1023, true, true⟩
  | .fp32 => some ⟨32, 8, 23, 127, true, true⟩
  | .fp16 => some ⟨16, 5, 10, 15, true, true⟩
  | .bf16 => some ⟨16, 8, 7, 127, true, true⟩
  | .e4m3 => some ⟨8, 4, 3, 7, false, true⟩
  | .e5m2 => some ⟨8, 5, 2, 15, true, true⟩
  | .e3m2 => some ⟨6, 3, 2, 3, false, false⟩
  | .e2m3 => some ⟨6, 2, 3, 1, false, false⟩
  | .e2m1 => some ⟨4, 2, 1, 1, false, false⟩
  | _ => none

/-- The exponent and mantissa fields of the largest finite value, as one number (R70). -/
def FSpec.maxMag (f : FSpec) : Nat :=
  if f.hasInf then (2 ^ f.eb - 1) * 2 ^ f.mb - 1
  else if f.hasNan then 2 ^ (f.eb + f.mb) - 2
  else 2 ^ (f.eb + f.mb) - 1

/-- The fields of an infinity. -/
def FSpec.infMag (f : FSpec) : Nat := (2 ^ f.eb - 1) * 2 ^ f.mb

/-- The fields of the canonical quiet NaN (R72). -/
def FSpec.nanMag (f : FSpec) : Nat :=
  if f.hasInf then (2 ^ f.eb - 1) * 2 ^ f.mb + 2 ^ (f.mb - 1) else 2 ^ (f.eb + f.mb) - 1

/-- An encoding with a sign. -/
def FSpec.enc (f : FSpec) (sg : Bool) (mag : Nat) : Nat := (if sg then 2 ^ (f.eb + f.mb) else 0) + mag

def FSpec.sign (f : FSpec) (x : Nat) : Bool := x / 2 ^ (f.eb + f.mb) % 2 == 1

/-- The exact value of an encoding (R71). -/
def FSpec.decode (f : FSpec) (x : Nat) : Val :=
  let sg := f.sign x
  let mag := x % 2 ^ (f.eb + f.mb)
  let ex := mag / 2 ^ f.mb
  let m := mag % 2 ^ f.mb
  if f.hasInf && mag > f.infMag then .nan sg
  else if f.hasInf && mag = f.infMag then .inf sg
  else if !f.hasInf && f.hasNan && mag = f.nanMag then .nan sg
  else if ex = 0 then .num sg m (1 - f.bias - f.mb) false
  else .num sg (2 ^ f.mb + m) ((ex : Int) - f.bias - f.mb) false

/-- A signalling NaN (R72). -/
def FSpec.isSnan (f : FSpec) (x : Nat) : Bool :=
  f.hasInf && f.eb + f.mb > 7 && (f.decode x).isNan && x / 2 ^ (f.mb - 1) % 2 == 0

/-- A subnormal encoding. -/
def FSpec.isSub (f : FSpec) (x : Nat) : Bool :=
  x / 2 ^ f.mb % 2 ^ f.eb == 0 && x % 2 ^ f.mb != 0

/-! ### Flags (R88) -/

abbrev Flags := BitVec 8

def flNV : Flags := 0x01
def flDZ : Flags := 0x02
def flOF : Flags := 0x04
def flUF : Flags := 0x08
def flNX : Flags := 0x10
def flSF : Flags := 0x20
def flDI : Flags := 0x40
def flDO : Flags := 0x80

/-! ### Rounding -/

/-- The choice of neighbour of R77, as whether hi is taken: mode, sign, whether lo is odd, the remainder below lo in
units of 2^−k, whether more lies below it, and the draw. -/
def chooseHi (mode : Nat) (sg odd : Bool) (rem k : Nat) (sticky : Bool) (draw : Nat) : Bool :=
  let half := compare (2 * rem) (2 ^ k)
  let half := if half = .eq ∧ sticky then .gt else half
  match mode with
  | 2 => false
  | 3 => !sg
  | 4 => sg
  | 5 => half != .lt
  | 6 => draw < rem * 2 ^ 24 / 2 ^ k
  | _ => half == .gt || (half == .eq && odd)

/-- A magnitude m · 2^e as a multiple of 2^q, with the remainder: the quotient, the remainder in units of 2^−k, k. -/
def quantum (m : Nat) (e q : Int) : Nat × Nat × Nat :=
  if q ≤ e then (m * 2 ^ (e - q).toNat, 0, 0)
  else
    let k := (q - e).toNat
    (m / 2 ^ k, m % 2 ^ k, k)

/-- round_to_format of a finite nonzero value (R77, R80, R83). -/
def FSpec.roundNum (f : FSpec) (sg : Bool) (m : Nat) (e : Int) (sticky : Bool) (mode : Nat) (sat fzo : Bool)
    (draw : Nat) : Nat × Flags :=
  let emin : Int := 1 - f.bias
  let ex := max ((Nat.log2 m : Int) + e) emin
  let (lo, rem, k) := quantum m e (ex - f.mb)
  let exact := rem == 0 && !sticky
  let mag := if !exact && chooseHi mode sg (lo % 2 == 1) rem k sticky draw then lo + 1 else lo
  -- the exponent and mantissa fields of mag, without an upper clamp
  let fields : Nat := if mag < 2 ^ f.mb then mag else (mag - 2 ^ f.mb) + (ex - emin + 1).toNat * 2 ^ f.mb
  let nx := if exact then 0 else flNX
  if f.maxMag < fields then
    let big := f.enc sg f.maxMag
    if sat then (big, flOF ||| flNX ||| flSF)
    else if f.hasInf then
      (if mode = 2 ∨ (mode = 3 ∧ sg) ∨ (mode = 4 ∧ !sg) then big else f.enc sg f.infMag, flOF ||| flNX)
    else if f.hasNan then (f.enc sg f.nanMag, flOF ||| flNX)
    else (big, flOF ||| flNX ||| flSF)
  else if mag < 2 ^ f.mb then
    if fzo && mag != 0 then (f.enc sg 0, flDO ||| flUF ||| flNX)
    else (f.enc sg mag, if exact then 0 else flNX ||| flUF)
  else (f.enc sg fields, nx)

/-- round_to_format (R77, R80 to R83): the encoding and the flags. -/
def FSpec.round (f : FSpec) (v : Val) (mode : Nat) (sat fzo : Bool) (draw : Nat) : Nat × Flags :=
  match v with
  | .nan sg => if f.hasNan then (f.enc sg f.nanMag, 0) else (f.enc sg 0, flNV)
  | .inf sg =>
    if f.hasInf then (if sat then (f.enc sg f.maxMag, flSF) else (f.enc sg f.infMag, 0))
    else if f.hasNan then (if sat then (f.enc sg f.maxMag, flSF) else (f.enc sg f.nanMag, flNV))
    else (f.enc sg f.maxMag, flSF)
  | .num sg m e st =>
    if m = 0 then (f.enc sg 0, 0) else f.roundNum sg m e st mode sat fzo draw

/-- flush_in (R82): a subnormal source becomes a zero of its sign, setting DI. -/
def FSpec.flushIn (f : FSpec) (x : Nat) (fzi : Bool) : Nat × Flags :=
  if fzi && f.isSub x then (f.enc (f.sign x) 0, flDI) else (x, 0)

/-- A finite value rounded to an integer under a mode (R91: the table of R77 with q = 1); true where inexact. -/
def roundInt (sg : Bool) (m : Nat) (e : Int) (sticky : Bool) (mode draw : Nat) : Int × Bool :=
  let (lo, rem, k) := quantum m e 0
  let exact := rem == 0 && !sticky
  let mag : Int := if !exact && chooseHi mode sg (lo % 2 == 1) rem k sticky draw then lo + 1 else lo
  (if sg then -mag else mag, !exact)

/-! ### Integer formats (R74) -/

/-- The range of an integer format: width and signedness. -/
def fmtInt? : Fmt → Option (Nat × Bool)
  | .s64 => some (64, true) | .u64 => some (64, false)
  | .s32 => some (32, true) | .u32 => some (32, false)
  | .s16 => some (16, true) | .u16 => some (16, false)
  | .s8 => some (8, true) | .u8 => some (8, false)
  | .s4 => some (4, true) | .u4 => some (4, false)
  | _ => none

def intMax (w : Nat) (sg : Bool) : Int := if sg then 2 ^ (w - 1) - 1 else 2 ^ w - 1
def intMin (w : Nat) (sg : Bool) : Int := if sg then -2 ^ (w - 1) else 0

/-- sat_int. -/
def satInt (v : Int) (w : Nat) (sg : Bool) : Int := max (intMin w sg) (min (intMax w sg) v)

/-- The low w bits of an integer. -/
def wrapInt (w : Nat) (v : Int) : Nat := (v % 2 ^ w).toNat

/-- The integer that w bits hold. -/
def intOf (w : Nat) (sg : Bool) (x : Nat) : Int :=
  if sg && 2 ^ (w - 1) ≤ x % 2 ^ w then (x % 2 ^ w : Nat) - 2 ^ w else (x % 2 ^ w : Nat)

/-! ### Conversions (R90 to R93) -/

/-- The exact value of an element of any format, after flushing; flags of the flush and of a signalling NaN. -/
def fmtDecode (f : Fmt) (x : Nat) (fzi : Bool) : Val × Flags :=
  match fmtSpec f, fmtInt? f with
  | some sp, _ =>
    let (y, fl) := sp.flushIn (x % 2 ^ sp.bits) fzi
    (sp.decode y, fl ||| (if sp.isSnan y then flNV else 0))
  | none, some (w, sg) => (Val.ofInt (intOf w sg x), 0)
  | none, none => (if x % 256 = 255 then .nan false else .num false 1 ((x % 256 : Nat) - 127) false, 0)

/-- A value in an integer format, from a floating or E8M0 source (R91). -/
def toIntFmt (w : Nat) (sg : Bool) (v : Val) (mode draw : Nat) : Nat × Flags :=
  match v with
  | .nan _ => (0, flNV)
  | .inf s => (wrapInt w (if s then intMin w sg else intMax w sg), flNV)
  | .num s m e st =>
    let (i, ix) := roundInt s m e st mode draw
    if satInt i w sg = i then (wrapInt w i, if ix then flNX else 0) else (wrapInt w (satInt i w sg), flNV ||| flNX)

/-- A value in E8M0 (R93). -/
def toE8m0 (v : Val) : Nat × Flags :=
  match v with
  | .nan _ | .inf _ => (0xFF, flNV)
  | .num sg m e _ =>
    if m = 0 then (0, flUF)
    else
      let k := (Nat.log2 m : Int) + e
      let c := max (-127) (min 127 k)
      ((c + 127).toNat, if c = k ∧ m = 2 ^ Nat.log2 m ∧ !sg then 0 else flNX)

/-- CVT of one element (R90, R92). -/
def cvtElem (fd fs : Fmt) (x : Nat) (mode : Nat) (sat fzi fzo : Bool) (draw : Nat) : Nat × Flags :=
  let (v, fl) := fmtDecode fs x fzi
  match fmtSpec fd, fmtInt? fd with
  | some sp, _ =>
    let (y, f2) := sp.round v mode sat fzo draw
    (y, fl ||| f2)
  | none, some (w, sg) =>
    match fmtInt? fs with
    | some (w', sg') =>
      let i := intOf w' sg' x
      if sat then (wrapInt w (satInt i w sg), if satInt i w sg = i then 0 else flSF) else (wrapInt w i, 0)
    | none =>
      let (y, f2) := toIntFmt w sg v mode draw
      (y, fl ||| f2)
  | none, none =>
    match v with
    | .nan _ => (0xFF, fl ||| flNV)
    | v =>
      let (y, f2) := toE8m0 v
      (y, fl ||| f2)

/-! ### The hash and the stochastic draw (R78, R79) -/

def rotl64 (x : BitVec 64) (n : Nat) : BitVec 64 := x.rotateLeft (n % 64)

/-- One round of hrand_mix. -/
def hrandRound (key : BitVec 64) (stream : Word) (x : BitVec 64) (i : Nat) : BitVec 64 :=
  let x := x + ((stream.zeroExtend 64) <<< (8 * i))
  let x := x ^^^ (x >>> 31)
  let x := x * 0xA3C59E176B2D4F0B#64
  x ^^^ rotl64 key (13 * i + 5)

/-- hrand_mix (R79). -/
def hrandMix (key addr : BitVec 64) (stream : Word) : Word :=
  let x := (List.range 4).foldl (hrandRound key stream) (addr ^^^ rotl64 key 17)
  let x := x ^^^ (x >>> 29)
  x.extractLsb' 0 32 ^^^ x.extractLsb' 32 32

/-- sr_draw (R78): the draw of element j for a thread. -/
def srDraw (fpmode blkid sdcnt : Word) (grpid lane j : Nat) : Nat :=
  let seed := (fpmode.extractLsb' 16 16).zeroExtend 64
  (hrandMix (seed * 0x0001000100010001#64) (blkid ++ sdcnt)
    (BitVec.ofNat 32 (j * 4096) ||| BitVec.ofNat 32 (32 * grpid + lane))).toNat % 2 ^ 24

/-! ### Reductions (R98 to R100) -/

def fp32S : FSpec := ⟨32, 8, 23, 127, true, true⟩
def bf16S : FSpec := ⟨16, 8, 7, 127, true, true⟩
def fp16S : FSpec := ⟨16, 5, 10, 15, true, true⟩

/-- FP32 addition with RNE, no flush, no flags; an invalid sum is the NaN of sign 0. -/
def add32 (x y : Nat) : Nat := (fp32S.round ((fp32S.decode x).add false (fp32S.decode y)).1 1 false false 0).1

/-- One level of the tree: neighbours added, an odd last one passed up. -/
def treeLevel : List Nat → List Nat
  | a :: b :: t => add32 a b :: treeLevel t
  | l => l

/-- tree_sum (R100). -/
def treeSum : Nat → List Nat → Nat
  | 0, l => l.headD 0
  | n + 1, l => if l.length ≤ 1 then l.headD 0 else treeSum n (treeLevel l)

/-- MIN and MAX of a reduction (R100): the NaN of the lowest member, or the least or greatest with −0 below +0. -/
def redMinMax (f : FSpec) (max : Bool) (l : List Nat) : Nat :=
  match l.find? fun x => (f.decode x).isNan with
  | some x => f.enc (f.sign x) f.nanMag
  | none => match l with
    | [] => 0
    | a :: t => t.foldl (fun m x =>
        if (if max then (f.decode m).lt0 (f.decode x) else (f.decode x).lt0 (f.decode m)) then x else m) a

/-! ### Atomic arithmetic (06 R195, R196) -/

/-- ATOM's new value (R195), at the width and signedness of the type. -/
def atomNew (op : Aop) (ty : Aty) (old b c : Nat) : Nat :=
  let w := 32 * ty.regs
  let sg := ty == .s32 || ty == .s64
  let lt := intOf w sg b < intOf w sg old
  match op with
  | .add => (old + b) % 2 ^ w
  | .min => if lt then b else old
  | .max => if lt then old else b
  | .and => Nat.land old b
  | .or => Nat.lor old b
  | .xor => Nat.xor old b
  | .exch => b
  | .inc => if c ≤ old then 0 else old + 1
  | .dec => if old = 0 ∨ c < old then c else old - 1
  | .cas => if old = c then b else old

/-- ATOMF's combination of one element (R196). -/
def fcombine (f : FSpec) (op : FOp3) (old b : Nat) : Nat :=
  let x := f.decode old
  let y := f.decode b
  match op with
  | .add => (f.round ((x.add false y).1) 1 false false 0).1
  | _ =>
    if x.isNan && y.isNan then f.enc false f.nanMag
    else if x.isNan then b
    else if y.isNan then old
    else if (if op = .min then y.lt0 x else x.lt0 y) then b else old

/-- ATOMF's new value. -/
def atomfNew (op : FOp3) (bf16 : Bool) (old b : Nat) : Nat :=
  if bf16 then
    fcombine bf16S op (old % 65536) (b % 65536) + 65536 * fcombine bf16S op (old / 65536 % 65536) (b / 65536 % 65536)
  else fcombine fp32S op old b

/-- FPMODE from a written value: RND 0 and 7 become 1, and bits [15:5] are zero (R87, 07 R222). -/
def fpmodeOf (x : Nat) : Word :=
  let r := x % 8
  BitVec.ofNat 32 ((if r = 0 ∨ r = 7 then 1 else r) + x / 8 % 4 * 8 + x / 65536 % 65536 * 65536)

end Sys2Proof.Machine
end

