-- ==== Sys2Proof/Machine/Operands.lean ====
section
/-! DEFINITION. Operands: guards (02 R48), sources of every kind (02 R47, R51 to R53), window and uniform checks
(04 R116, R122), destinations (04 R116), predicate pairs (02 R49, R50). -/

namespace Sys2Proof.Machine

/-! ### Predicates and guards -/

/-- Predicate n of a thread. -/
def Thread.pred (t : Thread) (n : BitVec 3) : Bool := t.p.getLsbD n.toNat

/-- Set one predicate. -/
def Thread.setPred (t : Thread) (n : BitVec 3) (b : Bool) : Thread :=
  { t with p := if b then t.p ||| (1#8 <<< n.toNat) else t.p &&& ~~~(1#8 <<< n.toNat) }

/-- A truth table over three predicates (R48, R138). -/
def table3 (tbl : BitVec 8) (a b c : Bool) : Bool :=
  tbl.getLsbD ((if a then 4 else 0) + (if b then 2 else 0) + (if c then 1 else 0))

/-- The guard of a thread (R48). -/
def Thread.guard (t : Thread) (g : Guard) : Bool := table3 g.gtt (t.pred g.ga) (t.pred g.gb) (t.pred g.gc)

/-- The writes of a compare to its pair (R49, R50): the guard-true thread's, or the guard-false thread's under .U. -/
def Thread.comparePair (t : Thread) (pp : PPair) (gt c : Bool) : Thread :=
  let d := t.pred pp.pd
  let e := t.pred pp.pe
  match pp.pf with
  | .n => if gt then (t.setPred pp.pd c).setPred pp.pe !c else t
  | .u => if gt then (t.setPred pp.pd c).setPred pp.pe !c else (t.setPred pp.pd false).setPred pp.pe false
  | .a => if gt then (t.setPred pp.pd (d && c)).setPred pp.pe (e && c) else t
  | .o => if gt then (t.setPred pp.pd (d || c)).setPred pp.pe (e || c) else t

/-! ### Sources -/

/-- How a source field is read: an integer of a width, packed integers of a width in 32 bits, a floating value, or
packed floating values in 32 bits (R47, R53). -/
inductive Kind where
  | int (w : Nat)
  | pint (w : Nat)
  | flt (f : Fmt)
  | pflt (f : Fmt)
  deriving DecidableEq, Repr

/-- The kind of an integer operand (R147). -/
def itKind (it : ITy) : Kind :=
  if it.count = 1 then .int it.width else .pint it.width

/-- The width of an operand of the kind. -/
def Kind.bits : Kind → Nat
  | .int w => w
  | .pint _ => 32
  | .flt f => f.bits
  | .pflt _ => 32

/-- The width of one element of a packed kind. -/
def Kind.elem : Kind → Nat
  | .int w => w
  | .pint w => w
  | .flt f => f.bits
  | .pflt f => f.bits

/-- The low w bits of x repeated up to 32 bits. -/
def repeat32 (w x : Nat) : Nat :=
  (List.range (32 / w)).foldl (fun acc i => acc + (x % 2 ^ w) * 2 ^ (w * i)) 0

/-- A 32-bit value sign-extended to a width. -/
def signExt32 (w : Nat) (x : Word) : Nat := wrapInt w x.toInt

/-- The integer value of an inline constant (R53). -/
def constInt (n : BitVec 4) : Word :=
  match n.toNat with
  | 0 => 0 | 1 => 1 | 2 => 2 | 3 => 4 | 4 => 8 | 5 => 16 | 6 => 32 | 7 => 64
  | 8 => 0xFFFFFFFF | 9 => 0xFFFFFFFE | 10 => 0xFF | 11 => 0xFFFF | 12 => 0x7FFFFFFF | 13 => 0x80000000
  | 14 => 31 | _ => 63

/-- The floating value of an inline constant (R53); log2(e) and ln(2) to 120 bits with more below. -/
def constVal (n : BitVec 4) : Val :=
  match n.toNat with
  | 0 => .zero false | 1 => .num false 1 0 false | 2 => .num false 2 0 false | 3 => .num false 4 0 false
  | 4 => .num false 8 0 false | 5 => .num false 16 0 false | 6 => .num false 32 0 false | 7 => .num false 64 0 false
  | 8 => .num true 1 0 false | 9 => .num true 2 0 false | 10 => .num false 1 (-1) false | 11 => .num false 1 (-2) false
  | 12 => .inf false | 13 => .inf true
  | 14 => .num false 0x171547652B82FE1777D0FFDA0D23A7D (-120) true
  | _ => .num false 0xB17217F7D1CF79ABC9E3B39803F2F6 (-120) true

/-- An inline constant in a floating format, rounded with RNE. -/
def constFmt (f : Fmt) (n : BitVec 4) : Nat :=
  match fmtSpec f with
  | some sp => (sp.round (constVal n) 1 false false 0).1
  | none => 0

/-- The immediate as an operand of the kind (R47). -/
def immVal (k : Kind) : Ext → Nat
  | .l64 => 0
  | .l96 x =>
    match k with
    | .int w => wrapInt w x.toInt
    | .flt .fp64 => x.toNat * 2 ^ 40
    | .flt _ => x.toNat * 2 ^ 8
    | .pint w => repeat32 w x.toNat
    | .pflt f => repeat32 f.bits x.toNat
  | .l128 x =>
    match k with
    | .int w => wrapInt w x.toInt
    | .flt .fp64 => x.toNat * 2 ^ 32
    | _ => x.toNat

/-- Consecutive registers as one number, the lower register less significant (R52). -/
def regsVal (rs : List Word) (n : Nat) : Nat → Nat
  | 0 => 0
  | k + 1 => (rs.getD n 0).toNat + 2 ^ 32 * regsVal rs (n + 1) k

/-- The value of a source field in one lane (R47, R51 to R53). -/
def srcVal (k : Kind) (x : Ext) (g : Group) (t : Thread) (l : Nat) : Opnd → Nat
  | .v n => regsVal t.v n.toNat ((k.bits + 31) / 32)
  | .s n => regsVal g.s n.toNat ((k.bits + 31) / 32)
  | .p n => if t.pred n then 1 else 0
  | .lane => l
  | .imm => immVal k x
  | .k n =>
    match k with
    | .int w => signExt32 w (constInt n)
    | .pint w => repeat32 w (constInt n).toNat
    | .flt f => constFmt f n
    | .pflt f => repeat32 f.bits (constFmt f n)

/-- A 32-bit integer source. -/
def src32 (x : Ext) (g : Group) (t : Thread) (l : Nat) (o : Opnd) : Nat := srcVal (.int 32) x g t l o

/-- A 64-bit integer source. -/
def src64 (x : Ext) (g : Group) (t : Thread) (l : Nat) (o : Opnd) : Nat := srcVal (.int 64) x g t l o

/-- src_val of an exchange (R120): as a source, but a V register at or beyond the window reads zero. -/
def exchVal (x : Ext) (g : Group) (l : Nat) (o : Opnd) : Nat :=
  match g.threads[l]? with
  | some t => srcVal (.int 32) x g t l o
  | none => 0

/-! ### Checks -/

/-- An operand field lies in the window (R122). -/
def Use.inWindow (u : Use) (n : Nat) : Bool :=
  match u.op with
  | .v r => r.toNat + u.regs ≤ n
  | _ => true

/-- Every operand field lies in a thread's window. -/
def windowOk (us : List Use) (t : Thread) : Bool := us.all fun u => Use.inWindow u t.v.length

/-- Some destination field names an S register. -/
def writesS (us : List Use) : Bool := us.any fun u => u.dst && u.op.isS

/-- The issue group holds every non-exited thread of its group (R116). -/
def Group.converged (g : Group) (lanes : BitVec 32) : Bool :=
  g.threads.zipIdx.all fun (t, l) => t.exited || lanes.getLsbD l

/-! ### Destinations -/

/-- Write a number of n registers into a register list from index r. -/
def setRegs (rs : List Word) (r : Nat) : Nat → Nat → List Word
  | 0, _ => rs
  | n + 1, x => setRegs (rs.set r (BitVec.ofNat 32 x)) (r + 1) n (x / 2 ^ 32)

/-- Write a thread's V registers. -/
def Thread.setV (t : Thread) (r n x : Nat) : Thread := { t with v := setRegs t.v r n x }

/-- Write the destination of an instruction: each listed lane's V registers, or the S registers once, with the value
of the lowest listed lane (R116). -/
def Group.writeDst (g : Group) (d : Opnd) (regs : Nat) (res : List (Nat × Nat)) : Group :=
  match d with
  | .v r => { g with threads := res.foldl (fun ts (l, x) => ts.modify l fun t => t.setV r.toNat regs x) g.threads }
  | .s r =>
    match res.head? with
    | some (_, x) => { g with s := setRegs g.s r.toNat regs x }
    | none => g
  | _ => g

/-- Change the threads of a list of lanes. -/
def Group.modLanes (g : Group) (ls : List Nat) (f : Nat → Thread → Thread) : Group :=
  { g with threads := ls.foldl (fun ts l => ts.modify l (f l)) g.threads }

/-- OR flags into FPSTAT (R89). -/
def Group.raise (g : Group) (f : Flags) : Group := { g with fpstat := g.fpstat ||| f.zeroExtend 32 }

/-! ### Addresses (02 R46, 06 R192) -/

/-- The signed byte offset of a memory form. -/
def Ext.offset : Ext → Int
  | .l64 => 0
  | .l96 x => x.toInt
  | .l128 x => x.toInt

/-- The effective address of a form: a 64-bit sum for .G, a 32-bit sum for .S and .W. -/
def effAddr (sp : Spc) (x : Ext) (g : Group) (t : Thread) (l : Nat) (a : Opnd) : Nat :=
  match sp with
  | .g => wrapInt 64 ((src64 x g t l a : Int) + Ext.offset x)
  | _ => wrapInt 32 ((src32 x g t l a : Int) + Ext.offset x)

end Sys2Proof.Machine
end

