-- ==== Sys2Proof/Machine/Replace.lean ====
section
/-! DEFINITION. Where lines lie in the L1 and the LLC, and which line a full set gives up (06 R172 to R174; 10 R281, R289,
R290). -/

namespace Sys2Proof.Machine

/-! ### The tree order of an L1 set (06 R174) -/

/-- The way to which the bits of a tree lead, from a node over 2 ^ k ways whose first is lo: a half without a way that may
be given up is passed over. -/
def treePick (t : BitVec 7) (ok : Nat → Bool) : Nat → Nat → Nat → Nat
  | 0, _, lo => lo
  | k + 1, node, lo =>
    let has (a : Nat) : Bool := (List.range (2 ^ k)).any fun i => ok (a + i)
    if if t.getLsbD (node - 1) then has (lo + 2 ^ k) else !has lo then treePick t ok k (2 * node + 1) (lo + 2 ^ k)
    else treePick t ok k (2 * node) lo

/-- The bits on the path of a way set to lead to it, or away from it. -/
def treeMark (way : Nat) (toward : Bool) : Nat → Nat → Nat → BitVec 7 → BitVec 7
  | 0, _, _, t => t
  | k + 1, node, lo, t =>
    let hi := decide (lo + 2 ^ k ≤ way)
    let b := 1#7 <<< (node - 1)
    treeMark way toward k (2 * node + if hi then 1 else 0) (if hi then lo + 2 ^ k else lo)
      (if hi == toward then t ||| b else t &&& ~~~b)

namespace State

/-! ### L1 sets (06 R172, R173, R177) -/

/-- The ways of a core's L1 into which a fill may go: none that a growing carve-out takes. -/
def l1Ways (s : State) (c : Nat) : Nat :=
  let k := (s.core c).carve
  8 - (if k.busy then max k.cur.toNat k.tgt.toNat else k.cur.toNat)

/-- The key of the set of a line in a core. -/
def l1Key (c line : Nat) : Nat := 512 * c + line % 512

def l1Set (s : State) (c line : Nat) : L1Set := getD ⟨[], 0⟩ s.repl.l1 (l1Key c line)

def putL1Set (s : State) (c line : Nat) (x : L1Set) : State :=
  { s with repl := { s.repl with l1 := put (l1Key c line) x s.repl.l1 } }

/-- A line lies in a way: some sector of it holds data. A sector whose writeback is under way lies in the writeback buffer. -/
def l1Holds (s : State) (c line : Nat) : Bool :=
  [2 * line, 2 * line + 1].any fun k => match s.l1? c k with
    | some e => e.st == .s || e.st == .e || e.st == .o || e.st == .m || e.st == .sma || e.st == .oma
    | none => false

/-- The lines that lie in the ways of a set. -/
def l1Lines (s : State) (c line : Nat) : List (Nat × Nat) := (s.l1Set c line).lines.filter fun (_, k) => s.l1Holds c k

/-- The ways of a set into which a fill could go. -/
def l1Free (s : State) (c line : Nat) : List Nat :=
  let taken := (s.l1Lines c line).map (·.1)
  (List.range (s.l1Ways c)).filter fun w => !taken.contains w

/-- The line lies in a way of its set, or a way is free for it. -/
def l1Room (s : State) (c line : Nat) : Bool :=
  (s.l1Lines c line).any (·.2 == line) || decide ((s.l1Lines c line).length < s.l1Ways c) && !(s.l1Free c line).isEmpty

/-- The tree order after an access to a line: it becomes the most recent, or under .STREAM the next victim. -/
def l1Order (s : State) (c line : Nat) (stream : Bool) : State :=
  let x := s.l1Set c line
  match x.lines.find? (·.2 == line) with
  | some (w, _) => s.putL1Set c line { x with tree := treeMark w stream 3 1 0 x.tree }
  | none => s

/-- A fill of a sector goes into the way of its line, or into a free one (R174). -/
def l1Place (s : State) (c sec : Nat) (hnt : BitVec 2) : State :=
  let line := sec / 2
  let live := s.l1Lines c line
  let s := if live.any (·.2 == line) then s
    else
      let free := s.l1Free c line
      let w := free.getD (Config.freeWay s.now % free.length) 0
      s.putL1Set c line { s.l1Set c line with lines := live ++ [(w, line)] }
  s.l1Order c line (hnt == 1)

/-- The sector is in the footprint of a transaction of a thread on a core (06 R203 rule 4). -/
def footprintOn (s : State) (core sec : Nat) : Bool :=
  (s.conflicts sec true none).any fun (b, g, _) => ((s.grp? b g).map (·.core)) == some core

/-- A line that may be given up: it waits for no upgrade and lies in no footprint. -/
def l1Evictable (s : State) (c line : Nat) : Bool :=
  [2 * line, 2 * line + 1].all fun k => match s.l1? c k with
    | some e => e.st != .sma && e.st != .oma && e.st != .isd && e.st != .imd && !s.footprintOn c k
    | none => true

/-- The line that a full set gives up for a fill, by the tree order. -/
def l1Victim (s : State) (c line : Nat) : Option Nat :=
  let ok (w : Nat) : Bool := decide (w < s.l1Ways c) && (s.l1Lines c line).any fun (v, k) => v == w && s.l1Evictable c k
  if (List.range 8).any ok then
    let w := treePick (s.l1Set c line).tree ok 3 1 0
    ((s.l1Lines c line).find? (·.1 == w)).map (·.2)
  else none

/-- A fill on its way to a core finds no way in the set of a line. -/
def l1Wants (s : State) (c line : Nat) : Bool :=
  s.net.any fun m => m.core == c && m.sec / 2 % 512 == line % 512 && (m.kind == .dataS || m.kind == .dataE || m.kind == .dataM)
    && !s.l1Room c (m.sec / 2)

/-- A line lies in a way that a growing carve-out takes (R177 rule 3). -/
def l1Given (s : State) (c line : Nat) : Bool :=
  (s.core c).carve.busy && (s.l1Lines c line).any fun (w, k) => k == line && decide (s.l1Ways c ≤ w)

/-- No line lies in the ways that a growing carve-out takes. -/
def waysFree (s : State) (c : Nat) : Bool :=
  (List.range 512).all fun set => (s.l1Lines c set).all fun (w, _) => decide (w < s.l1Ways c)

/-- A fill that finds only lines of footprints in its set aborts the transaction whose line the tree order names
(R203 rule 4). -/
def l1Overflow (s : State) (c sec : Nat) : State :=
  let line := sec / 2
  let ls := s.l1Lines c line
  let held (k : Nat) : Bool := s.footprintOn c (2 * k) || s.footprintOn c (2 * k + 1)
  if s.l1Room c line || (s.l1Victim c line).isSome || !ls.all (fun (_, k) => held k) then s
  else
    let w := treePick (s.l1Set c line).tree (fun w => decide (w < s.l1Ways c) && ls.any (·.1 == w)) 3 1 0
    match ls.find? (·.1 == w) with
    | some (_, k) =>
      ((s.conflicts (2 * k) true none ++ s.conflicts (2 * k + 1) true none).filter fun (b, g, _) =>
        ((s.grp? b g).map (·.core)) == some c).foldl (fun s (b, g, l) => s.abortTxn b g l 0x11 0 0) s
    | none => s

/-! ### LLC sets (10 R280, R281, R289, R290) -/

end State

namespace State

/-- The slice of a sector. -/
def sliceOfSec (s : State) (sec : Nat) : Nat := sliceNum s.pkg.caps (64 * sec)

/-- The key of the set of a line: its slice, and address bits [27:15]. -/
def llcKey (s : State) (line : Nat) : Nat := 8192 * s.sliceOfSec (2 * line) + line / 256 % 8192

/-- A writeback of another package is held for a sector (16 R424). -/
def wbHeld (s : State) (sec : Nat) : Bool :=
  s.hom.pod.any fun (b, e) => decide (b ≤ sec) && decide (sec < b + 2 ^ e.sz) && e.held.isSome

/-- A line is in the LLC: a sector of it has data, L1 copies, a transaction, or a held writeback. -/
def llcHolds (s : State) (line : Nat) : Bool :=
  [2 * line, 2 * line + 1].any fun k =>
    let e := s.dirE k
    e.lv || e.st != .i || e.trans != .stable || s.wbHeld k

/-- The lines of the set of a line. -/
def llcLines (s : State) (line : Nat) : List LlcLine :=
  (getD [] s.repl.llc (s.llcKey line)).filter fun x => s.llcHolds x.line

def putLlc (s : State) (line : Nat) (xs : List LlcLine) : State :=
  { s with repl := { s.repl with llc := put (s.llcKey line) xs s.repl.llc } }

/-- The set has a way for a line. -/
def llcRoom (s : State) (line : Nat) : Bool :=
  (s.llcLines line).any (·.line == line) || decide ((s.llcLines line).length < 16)

end State

/-- A ninth pin of a set takes PIN from its earliest-pinned line, which keeps RRPV 0 (R290). -/
def pinLimit (xs : List LlcLine) : List LlcLine :=
  match xs.filterMap (·.pin) with
  | [] => xs
  | p :: ps =>
    if ps.length < 8 then xs
    else xs.map fun x => if x.pin = some (ps.foldl min p) then { x with pin := none, rrpv := 0 } else x

/-- RRPV of a filled line by its hint: 1 .STREAM, 2 .REUSE, 3 .PIN. -/
def fillRrpv (hnt : BitVec 2) : BitVec 2 := if hnt = 3 ∨ hnt = 2 then 0 else if hnt = 1 then 3 else 2

/-- What an access does to the RRPV and the PIN of its line: by its hint, or for a CPY by its tensor reuse distance, which a
nonzero value puts in the hint's place (R289). -/
def Reuse.ofHint (hnt : BitVec 2) : Reuse := ⟨fillRrpv hnt, hnt == 1, hnt == 3⟩

def Reuse.ofCopy (hnt : BitVec 2) (dist : BitVec 16) : Reuse :=
  if dist = 0 then .ofHint hnt
  else if dist.toNat ≤ 0xFF then ⟨0, false, false⟩
  else if dist.toNat ≤ 0xFFF then ⟨1, false, false⟩
  else if dist.toNat ≤ 0xFFFE then ⟨2, false, false⟩
  else ⟨3, false, false⟩

namespace State

/-- A request that a slice acts on for a hint: a line not there takes a way with the RRPV and the PIN of the hint; a hit sets
RRPV to 0, except under .STREAM, and under .PIN sets PIN (R289). -/
def llcPlace (s : State) (sec : Nat) (u : Reuse) : State :=
  let line := sec / 2
  let xs := s.llcLines line
  let pin : Option Nat := if u.pin then some s.repl.pins else none
  let xs :=
    if xs.any (·.line == line) then
      if (s.dirE sec).lv then xs.map fun x => if x.line = line then
        { x with rrpv := if u.stream then x.rrpv else 0, pin := x.pin.orElse fun _ => pin } else x
      else xs
    else
      let free := (List.range 16).filter fun w => xs.all (·.way != w)
      xs ++ [⟨line, free.getD (Config.freeWay s.now % free.length) 0, u.rrpv, pin⟩]
  let s := s.putLlc line (pinLimit xs)
  if u.pin then { s with repl := { s.repl with pins := s.repl.pins + 1 } } else s

/-- A sector that arrives at the slice with data, without a request, has a way: its line's, or a free one. -/
def llcSeat (s : State) (sec : Nat) : State :=
  if (s.llcLines (sec / 2)).any (·.line == sec / 2) then s else s.llcPlace sec (.ofHint 0)

/-- CFLUSH and CINV clear PIN on a line that they touch (R290). -/
def llcUnpin (s : State) (sec : Nat) : State :=
  s.putLlc (sec / 2) ((s.llcLines (sec / 2)).map fun x => if x.line = sec / 2 then { x with pin := none } else x)

/-- A line of the LLC with a sector in a transaction. -/
def llcBusy (s : State) (line : Nat) : Bool :=
  (s.dirE (2 * line)).trans != .stable || (s.dirE (2 * line + 1)).trans != .stable

/-- A line of the LLC with an L1 copy. -/
def llcCopies (s : State) (line : Nat) : Bool := (s.dirE (2 * line)).st != .i || (s.dirE (2 * line + 1)).st != .i

/-- The lowest-numbered way of some lines. -/
def lowestWay (xs : List LlcLine) : Option LlcLine :=
  match xs with
  | [] => none
  | x :: xs => some (xs.foldl (fun a b => if b.way < a.way then b else a) x)

/-- The victim of a set and the set's lines with their RRPV as the choice leaves them, increased at most k times (R290). -/
def llcChoose (s : State) (xs : List LlcLine) : Nat → Option (LlcLine × List LlcLine)
  | 0 => none
  | k + 1 =>
    let may := xs.filter fun x => x.pin.isNone && !s.llcBusy x.line && x.rrpv == 3
    match (lowestWay (may.filter fun x => !s.llcCopies x.line)).orElse fun _ => lowestWay may with
    | some x => some (x, xs)
    | none => s.llcChoose (xs.map fun x => if x.pin.isNone && x.rrpv != 3 then { x with rrpv := x.rrpv + 1 } else x) k

/-- A request at the head of a sector's FIFO finds no way for its line in the set of a line. -/
def llcWants (s : State) (line : Nat) : Bool :=
  s.dir.any fun (k, e) => e.trans == .stable && !e.fifo.isEmpty && s.llcKey (k / 2) == s.llcKey line
    && !s.llcRoom (k / 2)

end State

/-! ### Recalls of a line (10 R282, R285, R291) -/

/-- The bit of a cluster in CLV. -/
def clvBit (cl : Nat) : BitVec 64 := 1#64 <<< cl

/-- The clusters of CLV. -/
def DirE.clusters (e : DirE) : List Nat := (List.range 64).filter fun c => e.clv.getLsbD c

namespace State

/-- Change a directory entry. -/
def modDir (s : State) (sec : Nat) (f : DirE → DirE) : State := s.setDir sec (f (s.dirE sec))

/-- Send a message of a slice or an L1. -/
def msg (s : State) (k : MKind) (core sec : Nat) (v : SecVal) (flag : Nat) : State :=
  s.send ⟨k, core, sec, v, flag, 0, .core core⟩

/-- Invalidate copies: the clusters of CLV, each but for a core it leaves out (R282, R285). -/
def sendInvs (s : State) (sec : Nat) (cls : List Nat) (but : Option Nat) : State :=
  let sl := s.sliceOfSec sec
  (cls.foldl (fun s cl =>
    s.msg .inv cl sec SecVal.zero (match but with
      | some c => if c / 4 = cl then c + 1 else 0
      | none => 0)) s).bump 6 3 sl cls.length

/-- Send a forward to a core. -/
def forward (s : State) (sec : Nat) (k : MKind) (core : Nat) : State :=
  (s.msg k core sec SecVal.zero 0).bump 6 2 (s.sliceOfSec sec) 1

/-- One sector of a line being evicted: its L1 copies are recalled as for CINVQ, in B_E. -/
def evictSector (s : State) (sec : Nat) : State :=
  let e := s.dirE sec
  if e.st = .i ∧ !e.lv then s
  else
    let owned := e.st = .x ∨ e.st = .o
    let others := if e.st = .x then [] else e.clusters
    let s := s.setDir sec { e with trans := .bE, acks := others.length, clv := e.clv }
    let s := if owned then s.forward sec .fwdWbi e.owner else s
    if others = [] then s else s.sendInvs sec others (if owned then some e.owner else none)

/-- The victim of the set of a line is evicted with both its sectors (R290, R291). -/
def evictOne (s : State) (line : Nat) : State :=
  match s.llcChoose (s.llcLines line) 4 with
  | some (x, xs) =>
    let copies := if s.llcCopies x.line then 1 else 0
    (((s.putLlc x.line xs).evictSector (2 * x.line)).evictSector (2 * x.line + 1)).bump 6 4 (s.sliceOfSec (2 * line)) copies
  | none => s

/-- A line for which its set has no way: an eviction begins there, where none is under way. -/
def llcMake (s : State) (line : Nat) : State :=
  if s.llcRoom line || (s.llcLines line).any (fun x =>
      (s.dirE (2 * x.line)).trans == .bE || (s.dirE (2 * x.line + 1)).trans == .bE) then s
  else s.evictOne line

/-- A coherent read or write of an engine reaches a sector of the LLC: a sector not there is filled, and its line's RRPV and
PIN follow the access (R289). False where its line first needs a way, or the entry is transient. -/
def llcTouch (s : State) (sec : Nat) (u : Reuse) : State × Bool :=
  let e := s.dirE sec
  if e.trans != .stable then (s, e.lv)
  else if !s.llcRoom (sec / 2) then (s.llcMake (sec / 2), false)
  else
    let s := s.llcPlace sec u
    if e.lv then (s.bump 6 0 (s.sliceOfSec sec) 1, true)
    else if e.st = .x then (s, true)
    else ((s.modDir sec fun e => { e with val := s.memSec sec, lv := true, ld := false }).bump 6 1 (s.sliceOfSec sec) 1, true)

end State

end Sys2Proof.Machine
end

