-- ==== Sys2Proof/Machine/Translate.lean ====
section
/-! DEFINITION. The translation engine: page walks, the cluster TLB, permissions, leases, and where an access is
performed (01 R31, R32; 15 R385; 18 R444 to R455; 21 R522, R523). -/

namespace Sys2Proof.Machine

/-! ### What an access asks of its page (R448) -/

/-- The permissions an access needs, whether its thread is privileged, and whether it is a basting access. -/
structure Want where
  r : Bool
  w : Bool
  x : Bool
  priv : Bool
  baste : Bool
  deriving DecidableEq, Repr

def Want.load (priv : Bool) : Want := ⟨true, false, false, priv, false⟩
def Want.store (priv : Bool) : Want := ⟨false, true, false, priv, false⟩
def Want.atomic (priv : Bool) : Want := ⟨true, true, false, priv, false⟩
def Want.fetch (priv : Bool) : Want := ⟨false, false, true, priv, false⟩

/-- How a translation ends: a leaf, a fault with the broken-lease mark, or nothing yet: a walk waits for what another package
or the host holds, and a basting access is dropped. -/
inductive XlAns where
  | ok (t : Tlb)
  | fault (code : BitVec 8) (broken : Bool)
  | drop
  deriving DecidableEq, Repr

/-- Whether the leaf grants the access. -/
def Tlb.grants (e : Tlb) (w : Want) : Bool :=
  (!w.r || e.r) && (!w.w || e.w) && (!w.x || e.x) && (!e.priv || w.priv)

/-- The permission check after a successful walk or hit: PERMISSION, or the leaf. -/
def Tlb.check (e : Tlb) (w : Want) : XlAns := if e.grants w then .ok e else .fault 0x11 false

/-- The global physical address of a virtual address under a leaf. -/
def Tlb.phys (e : Tlb) (va : Nat) : Nat := e.pa + va % e.size

/-- Two entries lie in one set of the TLB. -/
def Tlb.sameSet (a b : Tlb) : Bool :=
  Config.tlbSet a.asid a.vpage a.size % 512 == Config.tlbSet b.asid b.vpage b.size % 512

/-! ### Page tables (R445 to R447) -/

/-- The bytes a leaf of a level maps. -/
def pageSize (lvl : Nat) : Nat := 2 ^ (16 + 8 * lvl)

/-- Bit i of an entry. -/
def bitOf (x i : Nat) : Bool := x / 2 ^ i % 2 == 1

/-- The ADDR field of an entry. -/
def pteAddr (p : Nat) : Nat := p / 2 ^ 12 % 2 ^ 50 * 2 ^ 12

/-- A leaf as the TLB holds it. -/
def tlbOf (asid va lvl p : Nat) : Tlb where
  asid := asid
  vpage := va / pageSize lvl * pageSize lvl
  size := pageSize lvl
  pa := pteAddr p
  r := bitOf p 2
  w := bitOf p 3
  x := bitOf p 4
  priv := bitOf p 5
  mode := BitVec.ofNat 2 (p / 2 ^ 6)
  hwin := bitOf p 8
  afb := bitOf p 9
  dirty := bitOf p 11
  pins := 0
  broken := false

namespace State

/-- The capacity of a home's HBM: as the package reports it, a peer's at most 512 GiB (R31). The spec does not say by what
way a package learns what a peer reports: it is Config's (DESIGN CHOICE, assumption log 59). -/
def hbmCap (s : State) (pkg : Nat) : Nat :=
  if pkg = s.self then s.pkg.caps.mem * 2 ^ 30 else min (Config.peerMem pkg) 512 * 2 ^ 30

/-- The walk from a node of a level: the entry's offset in the home, its level and its lower 8 bytes. -/
def walkNode (s : State) (va : Nat) : Nat → Nat → Option (Nat × Nat × Nat)
  | lvl, node =>
    let ea := node + 16 * (va / pageSize lvl % 256)
    let p := s.homeNum ea 8
    if !bitOf p 0 then none
    else if bitOf p 1 then (if lvl ≤ 2 then some (ea, lvl, p) else none)
    else
      match lvl with
      | 0 => none
      | l + 1 => if gpaHome (pteAddr p) = s.self then walkNode s va l (gpaOff (pteAddr p)) else none

/-- The walk from a node of a level through a walk cache, the non-leaf entries that it has read (R450, R451), and the
offsets of the entries that it has read. -/
def walkNodeBy (s : State) (cache : List WalkNode) (asid va : Nat) :
    Nat → Nat → Option (Nat × Nat × Nat) × List WalkNode × List Nat
  | 0, node =>
    let ea := node + 16 * (va / pageSize 0 % 256)
    let p := s.homeNum ea 8
    (if bitOf p 0 && bitOf p 1 then some (ea, 0, p) else none, [], [ea])
  | l + 1, node =>
    match cache.find? fun n => n.asid == asid && n.lvl == l + 1 && n.idx == va / pageSize (l + 1) with
    | some n => walkNodeBy s cache asid va l n.node
    | none =>
      let ea := node + 16 * (va / pageSize (l + 1) % 256)
      let p := s.homeNum ea 8
      if !bitOf p 0 then (none, [], [ea])
      else if bitOf p 1 then (if l + 1 ≤ 2 then some (ea, l + 1, p) else none, [], [ea])
      else if gpaHome (pteAddr p) = s.self then
        let (r, ns, es) := walkNodeBy s cache asid va l (gpaOff (pteAddr p))
        (r, ⟨asid, l + 1, va / pageSize (l + 1), gpaOff (pteAddr p)⟩ :: ns, ea :: es)
      else (none, [], [ea])

/-- The walk of a cluster's engine: its outcome, and the state with what its walk cache then holds, 256 entries at most. -/
def walkBy (s : State) (cl asid va : Nat) : Option (Nat × Nat × Nat) × State :=
  let base := s.xlt.rtbase.toNat
  if gpaHome base ≠ s.self then (none, s)
  else
    let root := s.homeNum (gpaOff base + 8 * asid) 8
    if bitOf root 0 && gpaHome (pteAddr root) == s.self then
      let cache := getD [] s.xlt.nodes cl
      let (r, ns, es) := s.walkNodeBy cache asid va 4 (gpaOff (pteAddr root))
      let s := es.foldl (fun s ea => s.readBy (gpaOf s.self ea / 64)) s
      let keep (l : List WalkNode) (n : WalkNode) : List WalkNode :=
        if l.length < 256 then n :: l else n :: l.eraseIdx (Config.walkDrop s.now % 256)
      (r, { s with xlt := { s.xlt with nodes := put cl (ns.foldl keep cache) s.xlt.nodes } })
    else (none, s)

/-- The walk of an address under an ASID, from its root entry, with no walk cache. -/
def walk (s : State) (asid va : Nat) : Option (Nat × Nat × Nat) :=
  let base := s.xlt.rtbase.toNat
  if gpaHome base ≠ s.self then none
  else
    let root := s.homeNum (gpaOff base + 8 * asid) 8
    if bitOf root 0 && gpaHome (pteAddr root) == s.self then s.walkNode va 4 (gpaOff (pteAddr root)) else none

/-- Whether the page meets the service memory range (R523, R535). -/
def meetsSvc (s : State) (e : Tlb) : Bool :=
  let base := s.hst.svcmem.toNat % 65536 * 2 ^ 30
  let len := s.hst.svcmem.toNat / 65536 * 2 ^ 30
  gpaHome e.pa == s.self && gpaOff e.pa < base + len && base < gpaOff e.pa + e.size

/-- An offset of the windows of R522 that is not reserved, for a page of a size. -/
def hostWindowOk (o size : Nat) : Bool :=
  o + size ≤ 0x8000100000000 || (0x8800000000000 ≤ o && o + size ≤ 0x8800000010000)
    || (0x9000000000000 ≤ o && o + size ≤ 0x9000040000000) || 0xC000000000000 ≤ o

/-- A leaf that a walk turns into TRANSLATION (R448, R523). -/
def leafBad (s : State) (e : Tlb) : Bool :=
  let o := gpaOff e.pa
  e.pa % e.size != 0 || (e.hwin && e.mode != 3) || (e.hwin && decide (o < 0xC000000000000))
  || s.meetsSvc e || (if o < 2 ^ 51 then s.hbmCap (gpaHome e.pa) < o + e.size
   else gpaHome e.pa != s.self || !hostWindowOk o e.size
     || (0xC000000000000 ≤ o && !e.hwin && e.mode != 0)
     || (0x8800000000000 ≤ o && o < 0x8800000010000 && e.mode != 3))

/-- Install a leaf in a cluster's TLB, keeping the pins of an entry it replaces; the most recently used entry stands first.
A full set of 16 gives up its least recently used unpinned entry, and where every entry is pinned the leaf is not
installed (R450). -/
def tlbFill (s : State) (cl : Nat) (e : Tlb) : State :=
  let tl := getD [] s.xlt.tlb cl
  let same (x : Tlb) : Bool := x.asid == e.asid && x.vpage == e.vpage && x.size == e.size
  let pins := ((tl.find? same).map (·.pins)).getD 0
  let rest := tl.filter fun x => !same x
  let put' (l : List Tlb) : State := { s with xlt := { s.xlt with tlb := put cl ({ e with pins := pins } :: l) s.xlt.tlb } }
  if rest.length < 16 || (rest.countP fun x => x.sameSet e) < 16 then put' rest
  else
    match rest.reverse.find? fun x => x.sameSet e && x.pins == 0 with
    | some v => put' (rest.filter (· != v))
    | none => s

/-- An entry that an access has used is the most recent. -/
def tlbUse (s : State) (cl : Nat) (e : Tlb) : State :=
  let tl := getD [] s.xlt.tlb cl
  { s with xlt := { s.xlt with tlb := put cl (e :: tl.filter (· != e)) s.xlt.tlb } }

end State

/-! ### Leases (R453) -/

/-- Whether ranges cover the bytes from a up to e, each step advancing to the greatest end that holds a. -/
def covers (rs : List Range) (e : Nat) : Nat → Nat → Bool
  | 0, a => e ≤ a
  | k + 1, a =>
    if e ≤ a then true
    else
      let z := rs.foldl (fun z r => if r.base ≤ a && a < r.base + r.len then max z (r.base + r.len) else z) a
      if a < z then covers rs e k z else false

/-- An access of n bytes keeps the lease. -/
def leaseCovers (rs : List Range) (va n : Nat) (write : Bool) : Bool :=
  let rs := if write then rs.filter (·.rw) else rs
  covers rs (va + n) rs.length va

namespace State

/-- The lease check of an access of a block's thread; a privileged thread makes none (R185, R453, R500). -/
def leaseOk (s : State) (b : Nat) (priv : Bool) (va n : Nat) (write : Bool) : Bool :=
  priv || (match s.blk? b with
    | some x => leaseCovers (leaseOf x.fr x.nblk) va n write
    | none => false)

end State

/-! ### Where an access is performed (R385, R522, R523) -/

/-- A sector cached by L1s, an access performed at a home, an uncached host window, the doorbell page, or a window
that no SIMT access may use. -/
inductive Place where
  | cached
  | home (pkg : Nat)
  | host
  | doorbell
  | barred
  deriving DecidableEq, Repr

namespace State

/-- The place of an access through a leaf. -/
def place (s : State) (e : Tlb) : Place :=
  let o := gpaOff e.pa
  if o < 2 ^ 51 then
    if e.mode = 3 ∨ (e.mode = 0 ∧ gpaHome e.pa ≠ s.self) then .home (gpaHome e.pa) else .cached
  else if 0xC000000000000 ≤ o then (if e.hwin then .host else .cached)
  else if 0x8800000000000 ≤ o ∧ o < 0x8800000010000 then .doorbell
  else .barred

/-- The cell of a package in the cell table, whose slot 16c + i holds the package plus 2^10 where it is valid
(R407). -/
def cellOf (s : State) (pkg : Nat) : Option Nat :=
  s.hom.cells.findSome? fun (k, v) => if v = pkg + 1024 then some (k / 16) else none

/-- A declared cell (R433). -/
def cellDown (s : State) (pkg : Nat) : Bool :=
  match s.cellOf pkg with
  | some c => s.hom.down.getLsbD c
  | none => false

/-- A request to a peer that fails at once with PEER_DOWN (R32, R388). -/
def peerLost (s : State) (pkg : Nat) : Bool :=
  (s.cellOf pkg).isNone || s.cellDown pkg || (getD [] s.fab.reach pkg).isEmpty

/-- A walk for a named page, as an access that needs it would start it. -/
def clusterOf (core : Nat) : Nat := core / 4

end State

end Sys2Proof.Machine
end

