-- ==== Sys2Proof/Machine/Stream.lean ====
section
/-! DEFINITION. The requests that leave the package by the fabric engine: the station a packet takes, the streams, their
numbers and their room (15 R387 to R394). -/

namespace Sys2Proof.Machine

/-- Cclk in a number of microseconds, of which 0 acts as 1 (R393, R395). -/
def usCclk (n : Nat) : Nat := 1400 * max 1 n

/-- The bytes that an operation at a home covers. -/
def opSize : HomeOp → Nat
  | .read _ => 0
  | .write _ _ _ => 64
  | .atom _ _ ty _ _ => 4 * ty.regs
  | .atomf _ _ _ _ => 4
  | .cas _ n _ _ => n
  | .signal _ _ _ => 8
  | .reads _ n => n
  | .writes _ bs => bs.length

/-- Its address. -/
def opAddr : HomeOp → Nat
  | .read pa | .write pa _ _ | .atom pa _ _ _ _ | .atomf pa _ _ _ | .cas pa _ _ _ | .signal pa _ _ | .reads pa _
  | .writes pa _ => pa

/-- The global physical address that a request goes to. A request that names no address takes offset 0 of its target
(DESIGN CHOICE, assumption log 60). -/
def fopAddr (dst : Nat) : FOp → Nat
  | .home op => opAddr op
  | .rdS sec | .rdX sec | .upg sec | .drop sec | .wb sec _ | .pod _ sec => 64 * sec
  | .pub _ _ | .chunk _ _ _ _ _ _ _ | .abandon _ | .notice _ => dst * 2 ^ 52

namespace State

/-- The requests of a stream that have no response. -/
def openReqs (s : State) (dst : Nat) : List FReq := s.fab.unacked.filter fun r => r.dst == dst && r.result.isNone

/-- LOW of a stream: the oldest number still unacknowledged, or the next one (R389). -/
def lowOf (s : State) (dst : Nat) : Word := ((s.openReqs dst).head?.map (·.seq)).getD (getD 0 s.fab.next dst)

/-- The switches of a list by which a request to an address leaves, by R388: the interleave's, or the one whose station has
the fewest queued packets, the lowest of equals. -/
def stationBy (s : State) (pa : Nat) (ks : List Nat) : Nat :=
  let k0 := Nat.xor (bitsOf pa 13 8) (bitsOf pa 57 52)
  if ks.contains k0 && decide (Config.queued k0 s.now < 16) then k0
  else
    match ks with
    | [] => 0
    | k :: ks => ks.foldl (fun a b =>
      if Config.queued b s.now < Config.queued a s.now || (Config.queued b s.now == Config.queued a s.now && decide (b < a))
      then b else a) k

/-- The station of a packet to a target: a contribution chunk goes to its switch (R401); any other request takes R388's, a
retransmission leaving out the station of the send before it where another is reached. -/
def stationFor (s : State) (dst : Nat) (op : FOp) (before : Option Nat) : Nat :=
  if 1024 ≤ dst then dst - 1024
  else
    let ks := getD [] s.fab.reach dst
    let others := ks.filter fun k => before != some k
    s.stationBy (fopAddr dst op) (if others = [] then ks else others)

/-- A stream has room for another request (R389). -/
def fabRoom (s : State) (dst : Nat) : Bool := (s.openReqs dst).length < 1024

/-- Send a request of a stream, numbered and first sent now. A stopped package sends none (22 R547); where the stream has
no room, the request waits at the source (R389). -/
def fabSend (s : State) (dst : Nat) (obit : Bool) (op : FOp) (owner : FOwner) : State :=
  if s.pkg.stopped then s else
  let q := getD 0 s.fab.next dst
  let stn := s.stationFor dst op none
  let r : FReq := ⟨dst, q, obit, op, owner, s.now, usCclk (s.fab.tmo.toNat % 65536), 0, none, [], stn, s.now⟩
  if !s.fabRoom dst then { s with fab := { s.fab with waiting := s.fab.waiting ++ [r] } }
  else
    let s := { s with fab := { s.fab with next := putD 0 dst (q + 1) s.fab.next, unacked := s.fab.unacked ++ [r] } }
    (s.emit (.packet dst q (s.lowOf dst) obit op stn)).bump 11 0 0 1

/-- The requests that wait at the source go where their streams have room, in their order. -/
def fabFlush (s : State) : State :=
  s.fab.waiting.foldl (fun s r => s.fabSend r.dst r.obit r.op r.owner) { s with fab := { s.fab with waiting := [] } }

/-- A request for an owner: its result once there is one (the request then ends), PEER_DOWN at once where no peer can
be reached (R32, R388), nothing while it waits for its response or for room in the stream (R389). -/
def remote (s : State) (owner : FOwner) (dst : Nat) (obit : Bool) (op : FOp) : State × Option (FabStatus × SecVal) :=
  match s.fab.unacked.find? fun r => r.owner == owner && r.dst == dst && r.op == op with
  | some r =>
    match r.result with
    | some x => ({ s with fab := { s.fab with
        unacked := s.fab.unacked.filter fun q => !(q.dst == r.dst && q.seq == r.seq) } }, some x)
    | none => (s, none)
  | none =>
    if s.peerLost dst then (s, some (.fault 0x1C, SecVal.zero))
    else if !s.fabRoom dst then (s, none)
    else (s.fabSend dst obit op owner, none)

end State

end Sys2Proof.Machine
end

