-- ==== Sys2Proof/Machine/Pod.lean ====
section
/-! DEFINITION. The home agent's pod directory: entries and their regions, splits, the recipients of an invalidation,
and the transactions of the home-side table (16 R411 to R427). -/

namespace Sys2Proof.Machine

/-! ### Entries and regions (R412 to R415) -/

/-- The first sector of the region of a size class that holds a sector. -/
def regionBase (sz sec : Nat) : Nat := sec / 2 ^ sz * 2 ^ sz

/-- The regions of two entries overlap. -/
def regionsMeet (b1 z1 b2 z2 : Nat) : Bool := b1 < b2 + 2 ^ z2 && b2 < b1 + 2 ^ z1

/-- The halves split off an entry until the half with the sector has SZ = 0 (R415). -/
def splitOff (e : PodE) (sec : Nat) : Nat → List (Nat × PodE)
  | 0 => [(sec, { e with sz := 0 })]
  | z + 1 =>
    let mine := regionBase z sec
    let other := if regionBase (z + 1) sec = mine then mine + 2 ^ z else mine - 2 ^ z
    (other, { e with sz := z }) :: splitOff e sec z

namespace State

/-- The entry that covers a sector, with its region's first sector. -/
def podFind (s : State) (sec : Nat) : Option (Nat × PodE) :=
  s.hom.pod.find? fun (b, e) => b ≤ sec && sec < b + 2 ^ e.sz

def podPut (s : State) (b : Nat) (e : PodE) : State := { s with hom := { s.hom with pod := put b e s.hom.pod } }

def podDel (s : State) (b : Nat) : State := { s with hom := { s.hom with pod := del b s.hom.pod } }

/-- The cclk at which an entry was last used (R418). -/
def podStamp (s : State) (b t : Nat) : State := { s with repl := { s.repl with pod := put b t s.repl.pod } }

/-- The set of the directory store, with its cache die, in which the entries of a sector's region lie (R413). -/
def podSet (sec : Nat) : Nat :=
  let pa := 64 * sec
  131072 * Nat.xor (bitsOf pa 17 16) (bitsOf pa 19 18) + Nat.xor (bitsOf pa 36 20) (bitsOf pa 51 37)

/-- The entries of the set of a sector. -/
def podEntries (s : State) (sec : Nat) : List (Nat × PodE) := s.hom.pod.filter fun (b, _) => podSet b == podSet sec

/-- Four entries of the set are transient, the most at once (R413). -/
def podFull (s : State) (sec : Nat) : Bool := 4 ≤ (s.podEntries sec).countP fun (_, e) => e.trans != .stable

/-- The largest aligned region of at most 64 KiB that holds the sector and meets no entry (R414). -/
def podRoom (s : State) (sec : Nat) : Nat → Nat
  | 0 => 0
  | z + 1 =>
    if s.hom.pod.any fun (b, e) => regionsMeet b e.sz (regionBase (z + 1) sec) (z + 1) then s.podRoom sec z else z + 1

/-- Split the entry of a sector down to SZ = 0 (R415); HOM_SPLITS counts it. -/
def podSplit (s : State) (sec : Nat) : State :=
  match s.podFind sec with
  | some (b, e) =>
    if e.sz = 0 then s
    else
      let used := getD 0 s.repl.pod b
      let s := (s.podDel b).bump 12 1 0 (e.sz + 1)
      (splitOff e sec e.sz).foldl (fun s (b, x) => (s.podPut b x).podStamp b used) s
  | none => s

/-- The slot of a package in the cell table. -/
def slotOf (s : State) (pkg : Nat) : Option Nat :=
  s.hom.cells.findSome? fun (k, v) => if v = pkg + 1024 then some (k % 16) else none

/-- The valid members of a cell. -/
def membersOf (s : State) (cell : Nat) : List Nat :=
  s.hom.cells.filterMap fun (k, v) => if k / 16 = cell ∧ 1024 ≤ v then some (v - 1024) else none

/-- Record a package as a sharer (R412, R417). -/
def podRecord (s : State) (e : PodE) (pkg : Nat) : PodE :=
  match s.cellOf pkg with
  | some c =>
    if s.cellOf s.self = some c then { e with mv := e.mv ||| (1#16 <<< ((s.slotOf pkg).getD 0)) }
    else { e with cv := e.cv ||| (1#64 <<< c) }
  | none => e

/-- Whether a package is recorded on an entry. -/
def podRecords (s : State) (e : PodE) (pkg : Nat) : Bool :=
  match s.cellOf pkg with
  | some c =>
    if s.cellOf s.self = some c then e.mv.getLsbD ((s.slotOf pkg).getD 0) else e.cv.getLsbD c
  | none => false

/-- The recipients of an invalidation, the requester left out; 1024 stands for the host (R417). -/
def podSharers (s : State) (e : PodE) (req : PWho) : List Nat :=
  let own := match s.cellOf s.self with
    | some c => (s.membersOf c).filter fun p => e.mv.getLsbD ((s.slotOf p).getD 0)
    | none => []
  let far := (List.range 64).flatMap fun c => if e.cv.getLsbD c then s.membersOf c else []
  ((own ++ far).filter fun p => p != s.self && req != .pkg p && !(e.st != .s && p == e.owner && !e.hown))
    ++ (if e.host && req != .host then [1024] else [])

/-! ### Local copies of a sector (R285, R423) -/

/-- Put data into the LLC sector, whose line has a way; dirty where it differs from memory. -/
def llcPut (s : State) (sec : Nat) (v : SecVal) (dirty : Bool) : State :=
  let e := s.dirE sec
  s.setDir sec { e with val := v, lv := true, ld := e.ld || dirty }

/-- Change or drop every L1 copy of a sector. -/
def mapL1 (s : State) (sec : Nat) (f : L1E → Option L1E) : State :=
  let one (c : Core) : Core :=
    match find? sec c.l1 with
    | some e => { c with l1 := match f e with
        | some e' => put sec e' c.l1
        | none => del sec c.l1 }
    | none => c
  { s with cores := s.cores.map fun (k, c) => (k, one c) }

/-- What an L1 copy that surrenders its data becomes. -/
def downL1 : L1St → L1St
  | .m | .o | .e => .s
  | .oma => .sma
  | st => st

/-- What an L1 copy that is discarded becomes: an upgrade in flight then fetches the data. -/
def gone : L1St → Option L1St
  | .s | .e | .o | .m => none
  | .sma | .oma => some .imd
  | st => some st

/-- Every L1 copy surrenders its data to the LLC and keeps S. -/
def pullLocal (s : State) (sec : Nat) : State :=
  let v := s.cohRead sec
  let dirty := (s.dirE sec).held.isSome || (s.net.any fun m => m.kind == .putm && m.sec == sec)
    || s.cores.any fun (_, c) => (match find? sec c.l1 with
      | some e => e.st == .m || e.st == .o || e.st == .oma
      | none => false)
  let s := s.readBy sec
  let s := s.mapL1 sec fun e => some { e with st := downL1 e.st }
  let s := if s.llcHolds (sec / 2) then s.llcPut sec v dirty else s
  s.setDir sec { s.dirE sec with st := if (s.dirE sec).st = .i then .i else .s }

/-- Every L1 copy surrenders its data to the LLC and is discarded; transactions that read it abort (R204). -/
def dropLocal (s : State) (sec : Nat) : State :=
  let s := s.abortAll (s.conflicts sec true none)
  let s := s.pullLocal sec
  let s := s.mapL1 sec fun e => (gone e.st).map fun st => { e with st := st }
  s.setDir sec { s.dirE sec with st := .i, clv := 0, owner := 0 }

/-! ### Home-side transactions (R423) -/

/-- Send a pod message. -/
def podSend (s : State) (dst : Nat) (k : PMsg) (sec : Nat) (v : SecVal) : State := s.emit (.home dst k sec v)

/-- Send a forward, an invalidation or a notice of the home to a package: a request of its stream, which is sent again until
it is answered (R422, R426). -/
def podAsk (s : State) (dst : Nat) (k : PMsg) (sec : Nat) : State := s.fabSend dst false (.pod k sec) .engine

/-- Requests of the home for a sector to the packages of a kind are over. -/
def podOver (s : State) (sec : Nat) (who : Nat → Bool) : State :=
  let hit (r : FReq) : Bool := who r.dst && (match r.op with
    | .pod _ k => k == sec
    | _ => false)
  { s with fab := { s.fab with
    unacked := s.fab.unacked.filter fun r => !hit r
    waiting := s.fab.waiting.filter fun r => !hit r } }

/-- The data that a grant carries: the home's, poison mark and tag included. -/
def homeData (s : State) (sec : Nat) : SecVal := s.cohRead sec

/-- Grant to a package and leave its entry owned or shared. -/
def podGrant (s : State) (sec pkg : Nat) (k : PMsg) : State :=
  let s := if k = .grantS then s.pullLocal sec else s.dropLocal sec
  s.podSend pkg k sec (if k = .grantU then SecVal.zero else s.homeData sec)

/-- The slice's part of a transaction that served another package or recalled for this one is over. -/
def podFree (s : State) (sec : Nat) : State :=
  let e := s.dirE sec
  match e.req with
  | some (.podS _) | some (.podX _) | some (.podU _) => s.setDir sec { e with trans := .stable, req := none }
  | _ => s

/-- What a transaction leaves after its last answer, and its grant (R423). -/
def podEnd (s : State) (sec : Nat) : State :=
  match s.podFind sec with
  | none => s
  | some (b, e0) =>
    let e : PodE := { e0 with trans := .stable, req := none, acks := [], touch := true, fwd := false, dirty := false }
    -- the owner, once it keeps no more than S
    let shared : PodE :=
      if e.st = .s then e
      else if e.hown then { e with st := .s, hown := false, host := true }
      else { s.podRecord e e.owner with st := .s }
    match e0.req with
    | none => s.podPut b e
    | some ⟨who, .rdS⟩ =>
      let x : PodE := if e.st != .s && e0.dirty then { e with st := .o } else shared
      match who with
      | .pkg p => ((s.podPut b (s.podRecord x p)).podGrant sec p .grantS).podFree sec
      | .host => (s.podPut b { x with host := true }).podFree sec
      | _ => s.podPut b x
    | some ⟨_, .downgrade⟩ => s.podPut b shared
    | some ⟨_, .recall⟩ | some ⟨_, .evict⟩ => s.podDel b
    | some ⟨who, k⟩ =>
      match who with
      | .pkg p =>
        ((s.podPut b { PodE.fresh with st := .x, owner := p }).podGrant sec p
          (if k = .upg then .grantU else .grantM)).podFree sec
      | .host =>
        ((s.podPut b { PodE.fresh with st := .x, owner := s.self, hown := true, host := true }).dropLocal
          sec).podFree sec
      | _ => s.podDel b

/-- A WB at a stable entry: the owner's data is written, any other's discarded; WB_ACK (R423). -/
def podWb (s : State) (sec src : Nat) (v : SecVal) : State :=
  let s := match s.podFind sec with
    | some (b, e) =>
      if (e.st = DirSt.x ∨ e.st = DirSt.o) ∧ !e.hown ∧ e.owner = src then
        let s := (s.llcSeat sec).llcPut sec v true
        if e.st = DirSt.x then s.podDel b else s.podPut b { e with st := .s, owner := 0 }
      else s
    | none => s
  s.podSend src .wbAck sec SecVal.zero

/-- The last answer of a transaction has arrived; a held WB is then acted on (R423, R424 rule 1). -/
def podFinish (s : State) (sec : Nat) : State :=
  let held := (s.podFind sec).bind fun (_, e) => e.held
  let s := s.podEnd sec
  match held with
  | some (p, v) =>
    let s := match s.podFind sec with
      | some (b, e) => s.podPut b { e with held := none }
      | none => s
    s.podWb sec p v
  | none => s

/-- Begin the messages of a transaction on a stable entry: a forward to the owner and invalidations (R417, R423). One that
would make a fifth entry of its set transient waits (R413). -/
def podBegin (s : State) (b sec : Nat) (e : PodE) (r : PReq) (fwd : Option PMsg) (inv : Bool) : State :=
  let fw := if e.st = .i ∨ e.st = .s then none else fwd
  let toOwner : List Nat := match fw with
    | some _ => [if e.hown then 1024 else e.owner]
    | none => []
  let sh := if inv then s.podSharers e r.who else []
  let sh := sh.filter fun p => !toOwner.contains p
  let acks := toOwner ++ sh
  if acks ≠ [] ∧ s.podFull sec then s
  else
  let tr : PTrans :=
    if acks.all (· == 1024) ∧ acks ≠ [] then .pH else if fw.isSome ∧ sh ≠ [] then .pFI else if fw.isSome then .pF else .pI
  let s := s.podPut b { e with
    trans := tr, req := some r, acks := acks, fwd := fw.isSome, dirty := false, started := s.now, touch := true
    dl := 1400 * max 1 (s.hom.tmo.toNat % 65536) }
  let s := match fw with
    | some k => if e.hown then s.emit (.backInv sec) else s.podAsk e.owner k sec
    | none => s
  let s := sh.foldl (fun s p => if p = 1024 then s.emit (.backInv sec)
    else s.podAsk p .inv sec) s
  if acks = [] then s.podFinish sec else s

/-- A cell may hold E, M or O of a sector by the Seam Table (R419). -/
def seamAllows (s : State) (sec pkg : Nat) : Bool :=
  match s.cellOf pkg with
  | some c => (getD 0 s.hom.seam (secOff sec / 2 ^ 21 % 2 ^ 18)).getLsbD c
  | none => false

/-- The entries that a request on a sector adds to its set (R414, R415). -/
def podNeed (s : State) (sec : Nat) (owning : Bool) : Nat :=
  match s.podFind sec with
  | none => 1
  | some (_, e) => if owning || e.st != .s then e.sz else 0

/-- The set of a sector has n free entries. -/
def podHasRoom (s : State) (sec n : Nat) : Bool := decide ((s.podEntries sec).length + n ≤ 16)

/-- Evict the least recently used stable entry of the set of a sector, other than the sector's own: INV to the sharers for
every sector of its region, FWD_X to its owner (R418). One eviction of a set at a time. -/
def podEvict (s : State) (sec : Nat) : State :=
  let es := s.podEntries sec
  let mine := (s.podFind sec).map (·.1)
  let old (p : Nat × PodE) : Nat := getD 0 s.repl.pod p.1
  match es.filter fun (b, e) => e.trans == .stable && mine != some b with
  | [] => s
  | p :: ps =>
    if es.any (fun (_, e) => e.req == some ⟨.home, .evict⟩) || s.podFull sec then s
    else
      let (b, e) := ps.foldl (fun a c => if old c < old a then c else a) p
      let owner : List Nat := if e.st = .s ∨ e.st = .i then [] else [if e.hown then 1024 else e.owner]
      let sh := (s.podSharers e .home).filter fun p => !owner.contains p
      let secs := (List.range (2 ^ e.sz)).map (b + ·)
      let acks := owner ++ secs.flatMap fun _ => sh
      let s := s.bump 12 3 0 1
      if acks = [] then s.podDel b
      else
        let s := s.podPut b { e with
          trans := if acks.all (· == 1024) then .pH else if owner ≠ [] ∧ sh ≠ [] then .pFI
            else if owner ≠ [] then .pF else .pI
          req := some ⟨.home, .evict⟩, acks := acks, fwd := owner ≠ [], dirty := false, started := s.now
          dl := 1400 * max 1 (s.hom.tmo.toNat % 65536) }
        let s := owner.foldl (fun s p => if p = 1024 then s.emit (.backInv b) else s.podAsk p .fwdX b) s
        secs.foldl (fun s k => sh.foldl (fun s p =>
          if p = 1024 then s.emit (.backInv k) else s.podAsk p .inv k) s) s

/-- The home table for a request on a sector whose entry is stable or absent (R414, R415, R423), where its set has the
entries that the request adds. -/
def podTable (s : State) (sec : Nat) (r : PReq) : State :=
  let owning := r.kind != .rdS && r.kind != .downgrade
  match s.podFind sec with
  | none =>
    match r.who, r.kind with
    | .pkg p, .rdS =>
      if s.seamAllows sec p then
        ((s.podPut sec { PodE.fresh with st := .x, owner := p }).podGrant sec p .grantE).podFree sec
      else
        let z := s.podRoom sec 10
        ((s.podPut (regionBase z sec) (s.podRecord { PodE.fresh with st := .s, sz := z } p)).podGrant sec p
          .grantS).podFree sec
    | .pkg p, _ => ((s.podPut sec { PodE.fresh with st := .x, owner := p }).podGrant sec p .grantM).podFree sec
    | .host, .rdS => (s.podPut sec { PodE.fresh with st := .s, host := true }).podFree sec
    | .host, _ =>
      ((s.podPut sec { PodE.fresh with st := .x, owner := s.self, hown := true, host := true }).dropLocal sec).podFree sec
    | _, _ => s
  | some (_, e0) =>
    let s := if owning || e0.st != .s then s.podSplit sec else s
    match s.podFind sec with
    | none => s
    | some (b, e) =>
      let mine : Bool := match r.who with
        | .pkg p => e.st != .s && !e.hown && e.owner == p
        | .host => e.st != .s && e.hown
        | _ => false
      match r.kind with
      | .rdS =>
        if e.st = .s then
          match r.who with
          | .pkg p => ((s.podPut b { (s.podRecord e p) with touch := true }).podGrant sec p .grantS).podFree sec
          | .host => (s.podPut b { e with host := true, touch := true }).podFree sec
          | _ => s
        else if mine then
          match r.who with
          | .pkg p => (s.podGrant sec p .grantS).podFree sec
          | _ => s.podFree sec
        else s.podBegin b sec e r (some .fwdS) false
      | .downgrade => if e.st = .s then s else s.podBegin b sec e r (some .fwdDg) false
      | .recall => s.podBegin b sec e r (some .fwdX) true
      | .rdX => s.podBegin b sec e r (if mine then none else some .fwdX) true
      | .upg =>
        let kept : Bool := match r.who with
          | .pkg p => mine || (e.st == .s && s.podRecords e p)
          | _ => true
        s.podBegin b sec e { r with kind := if kept then .upg else .rdX } (if mine then none else some .fwdX) true
      | .evict => s

/-- Serve a request on a sector whose entry is stable or absent: one for which the set lacks free entries evicts one and
waits (R415, R418). -/
def podServe (s : State) (sec : Nat) (r : PReq) : State :=
  if !s.podHasRoom sec (s.podNeed sec (r.kind != .rdS && r.kind != .downgrade)) then s.podEvict sec
  else
    let s := s.podTable sec r
    match s.podFind sec with
    | some (b, _) => s.podStamp b s.now
    | none => s

/-- One answer of a transaction: the sender is no longer awaited, and at the last one the transaction ends. A sender of
an invalidation acknowledgement or EMPTY loses its MV bit. -/
def podAnswer (s : State) (sec src : Nat) (clear : Bool) : State :=
  match s.podFind sec with
  | none => s
  | some (b, e) =>
    let e := if clear && s.cellOf src == s.cellOf s.self
      then { e with mv := e.mv &&& ~~~(1#16 <<< ((s.slotOf src).getD 0)) } else e
    let e := { e with acks := e.acks.erase src }
    let s := s.podPut b e
    if e.trans != .stable && e.acks == [] then s.podFinish sec else s

/-- Whether a local access of a kind must first recall a copy on another package or from the host (R288 case 1). A read
passes an owner in O: the home has written what that owner's FWD_DATA brought (R423), and an owner in O stores nothing
(DEDUCED, assumption log 16). -/
def podBlocks (s : State) (sec : Nat) (own : Bool) : Bool :=
  s.homed sec && (match s.podFind sec with
    | some (_, e) => e.trans != .stable || (if own then e.st != .i else e.st == .x)
    | none => false)

/-- Recall copies for a local access, once; true when nothing stands in its way. -/
def podRecall (s : State) (sec : Nat) (own : Bool) : State × Bool :=
  if s.podBlocks sec own then
    match s.podFind sec with
    | some (_, e) => if e.trans = .stable then
        let s := s.podServe sec ⟨.slice, if own then .rdX else .rdS⟩
        (s, !s.podBlocks sec own)
      else (s, false)
    | none => (s, true)
  else (s, true)

end State

end Sys2Proof.Machine
end

