-- ==== Sys2Proof/Machine/TableWalk.lean ====
section
/-! DEFINITION. A table walk that fills a TLB, and the translation of an access: copies of page-table sectors that another
package or the host holds are recalled first (18 R444 to R450; 16 R413). -/

namespace Sys2Proof.Machine

namespace State

/-- The sectors of own HBM that a walk through a walk cache reads: the root entry's, then those of the entries (R445,
R446). -/
def walkSecs (s : State) (cache : List WalkNode) (asid va : Nat) : List Nat :=
  let base := s.xlt.rtbase.toNat
  if gpaHome base ≠ s.self then []
  else
    let root := gpaOff base + 8 * asid
    let r := s.homeNum root 8
    (root :: if bitOf r 0 && gpaHome (pteAddr r) == s.self then (s.walkNodeBy cache asid va 4 (gpaOff (pteAddr r))).2.2 else []).map
      fun ea => gpaOf s.self ea / 64

/-- Recall, one after the other, the copies of sectors that another package or the host holds; true when none is left. -/
def secsReady (s : State) (own : Bool) : List Nat → State × Bool
  | [] => (s, true)
  | sec :: t =>
    match s.podRecall sec own with
    | (s, false) => (s, false)
    | (s, true) => s.secsReady own t

/-- The leaf that a walk with no faults finds in which A, or D of a page that grants writes, is still to be set: its sector. -/
def leafSec (s : State) (asid va : Nat) (dirty : Bool) : List Nat :=
  match s.walk asid va with
  | some (ea, _, p) => if !bitOf p 10 || (dirty && bitOf p 3 && !bitOf p 11) then [gpaOf s.self ea / 64] else []
  | none => []

/-- A walk can read what the home holds, and write the leaf where A or D is to be set (R449). A basting walk recalls nothing:
it is dropped where a copy is elsewhere (08 R243; assumption log 9). -/
def walkReady (s : State) (cl asid va : Nat) (w : Want) : State × Bool :=
  if s.hom.pod.isEmpty then (s, true)
  else
    let secs := s.walkSecs (getD [] s.xlt.nodes cl) asid va
    if w.baste then (s, secs.all fun k => !s.podBlocks k false)
    else
      match s.secsReady false secs with
      | (s, false) => (s, false)
      | (s, true) => s.secsReady true (s.leafSec asid va w.w)

/-- A walk on a miss: it sets A, and D for a permitted write, before it installs the leaf (R449). -/
def walkFill (s : State) (cl asid va : Nat) (w : Want) : State × XlAns :=
  match (s.bump 14 2 cl 1).walkBy cl asid va with
  | (none, s) => (s, .fault 0x10 false)
  | (some (ea, lvl, p), s) =>
    let e := tlbOf asid va lvl p
    if s.leafBad e then (s, .fault 0x10 false)
    else if w.baste && !bitOf p 10 then (s, .drop)
    else
      let d := w.w && e.grants w
      let p' := p ||| 2 ^ 10 ||| (if d then 2 ^ 11 else 0)
      let s := if w.baste || p' = p then s else s.homeSetNum ea 8 p'
      let e := { e with dirty := e.dirty || d }
      (s.tlbFill cl e, e.check w)

/-- A lookup misses: its walk waits for what it is to read. -/
def walkMiss (s : State) (cl asid va : Nat) (w : Want) : State × XlAns :=
  match s.walkReady cl asid va w with
  | (s, false) => (s, .drop)
  | (s, true) => (s.bump 14 1 cl 1).walkFill cl asid va w

/-- The translation of an access (R444, R448 to R450). A write through an unpinned entry with D clear walks. -/
def translate (s : State) (cl asid va : Nat) (w : Want) : State × XlAns :=
  if 2 ^ 56 ≤ va then (s, .fault 0x10 false)
  else
    match (getD [] s.xlt.tlb cl).find? fun e => e.asid == asid && e.vpage ≤ va && va < e.vpage + e.size with
    | some e =>
      if e.broken then (s.bump 14 0 cl 1, .fault 0x10 true)
      else if w.w && !e.dirty && e.pins == 0 && e.grants w then s.walkMiss cl asid va w
      else ((s.bump 14 0 cl 1).tlbUse cl e, e.check w)
    | none => s.walkMiss cl asid va w

end State

end Sys2Proof.Machine
end

