-- ==== Sys2Proof/Machine/Request.lean ====
section
/-! DEFINITION. Requests that leave the package through the fabric engine or the host port, what an access performed at
its home does there, and the publish engine (09 R257 to R264; 15 R385, R388 to R394; 21 R521, R525). -/

namespace Sys2Proof.Machine

/-! ### Requests of the host port (R521, R525) -/

/-- The atomic that a request is for, on whatever path (R526, R527). -/
def HostOp.rmw? : HostOp → Option (Nat × HomeOp)
  | .atomic p _ _ o | .flush p o | .coherent p o => some (p, o)
  | _ => none

/-- A request stands for what is asked: the same, or the same atomic on another path (R527). -/
def HostOp.serves (r op : HostOp) : Bool := r == op || (op.rmw?.isSome && r.rmw? == op.rmw?)

/-- Whether the host performs the atomic by an AtomicOp (R526). -/
def HomeOp_atomicOp : HomeOp → Bool
  | .atom _ .add _ _ _ | .atom _ .exch _ _ _ | .cas _ _ _ _ | .signal _ _ _ => true
  | _ => false

/-- The request that an atomic to a host window begins with: an AtomicOp where there is one, else the coherent fallback,
which for a release begins with a zero-length read (R526, R527). -/
def hostRmw (pa : Nat) (afb rel : Bool) (op : HomeOp) : HostOp :=
  if HomeOp_atomicOp op then .atomic pa afb rel op else if rel then .flush pa op else .coherent pa op

namespace State

/-- Outstanding non-posted requests toward the host; a writeback of a sector is none (R521). -/
def hostOpen (s : State) : Nat := s.hst.reqs.countP fun r => r.owner != .engine && (match r.op with
  | .write _ _ _ => false
  | _ => r.result.isNone)

/-- A request toward the host for an owner, likewise; HOST_LINK_DOWN at once where the host is declared down. -/
def hostAsk (s : State) (owner : FOwner) (op : HostOp) : State × Option (FabStatus × SecVal) :=
  match s.hst.reqs.find? fun r => owner != .engine && r.owner == owner && r.op.serves op with
  | some r =>
    match r.result with
    | some x => ({ s with hst := { s.hst with reqs := s.hst.reqs.filter (·.id != r.id) } }, some x)
    | none => (s, none)
  | none =>
    let posted := match op with
      | .write _ _ _ => true
      | _ => false
    if s.hst.down then (s, some (.fault 0x21, SecVal.zero))
    else if !posted && owner != .engine && decide (1024 ≤ s.hostOpen) then (s, none)
    else
      let r : HostReq := ⟨s.nextId, op, owner, s.now, s.hst.up && !posted, none⟩
      let s := { s with nextId := s.nextId + 1, hst := { s.hst with reqs := s.hst.reqs ++ [r] } }
      let s := match op with
        | .atomic _ _ _ _ => s.bump 17 0 0 1
        | _ => s
      (if r.sent then s.emit (.host r) else s, none)

end State

/-! ### Read-modify-write (R194 to R197, R398) -/

/-- The new value of an atomic or a signal from the old one; none where nothing is written. -/
def opNew (op : HomeOp) (old : Nat) : Option Nat :=
  match op with
  | .read _ | .write _ _ _ | .reads _ _ | .writes _ _ => none
  | .atom _ aop ty b c => some (atomNew aop ty old b.toNat c.toNat)
  | .atomf _ o bf b => some (atomfNew o bf old b.toNat)
  | .cas _ n cmp swap => if old = cmp.toNat % 2 ^ (8 * n) then some (swap.toNat % 2 ^ (8 * n)) else none
  | .signal _ add b => some (if add then (old + b.toNat) % 2 ^ 64 else b.toNat)

/-- An old value as a response carries it. -/
def oldVal (x : Nat) : SecVal := ⟨BitVec.ofNat 512 x, none, false⟩

namespace State

/-! ### I/O-core queue doorbells (R533) -/

/-- A doorbell write at a page offset (R533). -/
def doorbellWrite (s : State) (off n : Nat) (v : Nat) : State :=
  let q := off / 64
  if n = 4 ∧ (off % 64 = 0 ∨ off % 64 = 4) then
    let s := s.bump 17 4 0 1
    let old := if off % 64 = 0 then getD 0 s.hst.ioqTail q else getD 0 s.hst.ioqHead q
    if !halfAbove (v % 2 ^ 32) old then s.bump 17 5 0 1
    else if off % 64 = 0 then s.ioqTailSet q (v % 2 ^ 32)
    else
      let s := { s with hst := { s.hst with ioqHead := putD 0 q (v % 2 ^ 32) s.hst.ioqHead } }
      s.homeSetNum (gpaOff s.hst.ioqbase.toNat + 32 * q + 20) 4 (v % 2 ^ 32)
  else { s with hst := { s.hst with dberr := true } }

/-- A doorbell read: the kept tail and head, zero beside them. -/
def doorbellRead (s : State) (off n : Nat) : Nat :=
  let q := off / 64
  (getD 0 s.hst.ioqTail q + getD 0 s.hst.ioqHead q * 2 ^ 32) / 2 ^ (8 * (off % 64)) % 2 ^ (8 * n)

/-! ### An access performed at this home (R385) -/

/-- Perform an operation at this package's home: its status, and a read's sector or an atomic's old value. A poisoned
sector is POISON, but for a write of all its bytes (R194, R425). The sector is left untagged. -/
def performHome (s : State) (op : HomeOp) : State × FabStatus × SecVal :=
  let sec := opAddr op / 64
  let off := gpaOff (opAddr op)
  if 0x8800000000000 ≤ off ∧ off < 0x8800000010000 then
    let o := off - 0x8800000000000
    match op with
    | .read _ => (s, .ok, oldVal (s.doorbellRead (o / 64 * 64) 64))
    | .write _ mask v =>
      let n := (List.range 64).countP fun i => mask.getLsbD i
      (s.doorbellWrite o n (takeSec v (o % 64) n), .ok, SecVal.zero)
    | _ =>
      let old := s.doorbellRead o (opSize op)
      (match opNew op old with
        | some x => s.doorbellWrite o (opSize op) x
        | none => s, .ok, oldVal old)
  else
    let v := s.cohRead sec
    match op with
    | .read _ => if v.psn then (s, .fault 0x18, SecVal.zero) else ((s.abortAll (s.conflicts sec false none)).untag sec, .ok, ⟨v.bytes, none, false⟩)
    | .write _ mask x =>
      if v.psn && mask != -1 then (s, .fault 0x18, SecVal.zero)
      else ((s.cohWrite sec mask x).untag sec, .ok, SecVal.zero)
    | _ =>
      if v.psn then (s, .fault 0x18, SecVal.zero)
      else
        let o := opAddr op % 64
        let old := takeSec v.bytes o (opSize op)
        match opNew op old with
        | some x => ((s.cohWrite sec (maskOf o (opSize op)) (placeSec o x)).untag sec, .ok, oldVal old)
        | none => ((s.readBy sec).untag sec, .ok, oldVal old)

end State

/-! ### The publish engine (09 R257 to R263) -/

/-- seq_above(s, p) (R257). -/
def seqAbove (s p : Word) : Bool := 1 ≤ (s - p).toNat && (s - p).toNat < 2 ^ 31

/-- A sequence in the window of a core (R257). -/
def Core.inWindow (c : Core) (q : Word) : Bool := seqAbove q c.pw && !seqAbove q c.rseq

/-- The key of a publish message in place of a sector: above every sector number. -/
def pubKey (q : Word) : Nat := 2 ^ 62 + q.toNat

/-- The known watermark of a core. -/
def Core.watermark (c : Core) (pkg core : Nat) : Option Word :=
  (c.known.find? fun k => k.pkg == pkg && k.core == core).map (·.pw)

namespace State

/-- A valid tag that is not of core c and whose publish core c does not know of: LOST or live (R262). -/
def tagForeign (s : State) (c : Nat) (t : HemTag) : Bool := !(t.pkg == s.pkg.id && t.core.toNat == c)

/-- A use of the watermark cache: the entry that it finds becomes the most recent (R258). -/
def useMark (s : State) (c : Nat) (t : HemTag) : State :=
  match (s.core c).known.find? fun k => k.pkg == t.pkg.toNat && k.core == t.core.toNat with
  | some k => s.modCore c fun x => { x with known := x.known.erase k ++ [k] }
  | none => s

def tagLive (s : State) (c : Nat) (t : HemTag) : Bool :=
  s.tagForeign c t && !t.lost && (match (s.core c).watermark t.pkg.toNat t.core.toNat with
    | some p => seqAbove t.seq p
    | none => true)

/-- A request for a publish is already on its way, being served or being answered. -/
def pubPending (s : State) (who : PubWho) (rel : Nat) (q : Word) : Bool :=
  (s.net.any fun m => (m.kind == .pubReq || m.kind == .pubAck) && m.core == rel && m.sec == pubKey q && m.who == who)
    || (match (s.core rel).drain with
      | some d => d.waits.any fun w => w.who == who && w.seq == q
      | none => false)

/-- Ask a core of this package for a publish, once. -/
def pubAsk (s : State) (who : PubWho) (rel : Nat) (q : Word) : State :=
  if s.pubPending who rel q then s
  else
    let s := match who with
      | .core c => s.bump 5 1 c 1
      | _ => s
    s.send ⟨.pubReq, rel, pubKey q, SecVal.zero, 0, q, who⟩

/-- Obtain the publish that a tag asks for, on behalf of core c (R262): a fault where it can be known at once. The
answer comes with PUB_ACK. -/
def pubObtain (s : State) (c : Nat) (t : HemTag) : State × Option (BitVec 8) :=
  let pkg := t.pkg.toNat
  if pkg = s.self then (s.pubAsk (.core c) t.core.toNat t.seq, none)
  else if (s.fab.unacked ++ s.fab.waiting).any fun r => r.dst == pkg && r.op == .pub t.core.toNat t.seq && r.owner == .pub c
    then (s, none)
  else if s.cellDown pkg then (s, some 0x19)
  else if s.peerLost pkg then (s, some 0x1C)
  else ((s.fabSend pkg false (.pub t.core.toNat t.seq) (.pub c)).bump 5 1 c 1, none)

/-- Answer a requester of a publish. -/
def pubReply (s : State) (rel : Nat) (who : PubWho) (q : Word) : State :=
  let pw := (s.core rel).pw
  match who with
  | .peer pkg core => s.emit (.pubAck pkg core pw .ok)
  | _ => s.send ⟨.pubAck, rel, pubKey q, SecVal.zero, 0, pw, who⟩

/-- Advance PW to a target (R259). -/
def pwRaise (s : State) (c : Nat) (target : Word) : State :=
  s.modCore c fun x => if seqAbove target x.pw then { x with pw := target } else x

/-- An empty drain ends: PW advances and every recorded requester is answered (R263). -/
def drainCheck (s : State) (c : Nat) : State :=
  match (s.core c).drain with
  | some d =>
    if d.secs = [] ∧ d.posts = [] then
      let s := (s.pwRaise c d.target).modCore c fun x => { x with drain := none }
      let s := d.demands.foldl (fun s (b, g, l) => s.modThr b g l fun t => { t with published := true }) s
      d.waits.foldl (fun s w => s.pubReply c w.who w.seq) (s.bump 5 3 c 1)
    else s
  | none => s

/-- A pending-store entry or posted entry has been performed or has faulted (R259). -/
def drainSec (s : State) (c sec : Nat) : State :=
  (s.modCore c fun x => { x with drain := x.drain.map fun d => { d with secs := d.secs.filter (· != sec) } }).drainCheck c

def drainPost (s : State) (c id : Nat) : State :=
  (s.modCore c fun x => { x with drain := x.drain.map fun d => { d with posts := d.posts.filter (· != id) } }).drainCheck c

/-- publish_to(q) (R259, R263), with a requester to answer at its end. -/
def publishTo (s : State) (c : Nat) (q : Word) (w : Option PubWait) : State :=
  let x := s.core c
  let secs := x.pend.filterMap fun (k, e) => if seqAbove q e.epoch then some k else none
  let posts := x.posted.map (·.id)
  let d : Drain := match x.drain with
    | some d => { d with
        secs := d.secs ++ secs.filter fun k => !d.secs.contains k
        posts := d.posts ++ posts.filter fun k => !d.posts.contains k
        target := if seqAbove q d.target then q else d.target }
    | none => ⟨secs, posts, q, [], []⟩
  let d := { d with waits := d.waits ++ w.toList }
  (s.modCore c fun x => { x with drain := some d }).drainCheck c

/-- publish_all() (R259): every entry present now, and PW to the RSEQ of now. -/
def publishAll (s : State) (c : Nat) : State :=
  let x := s.core c
  let secs := x.pend.map (·.1)
  let d : Drain := match x.drain with
    | some d => { d with
        secs := d.secs ++ secs.filter fun k => !d.secs.contains k
        posts := d.posts ++ (x.posted.map (·.id)).filter fun k => !d.posts.contains k
        target := if seqAbove x.rseq d.target then x.rseq else d.target }
    | none => ⟨secs, x.posted.map (·.id), x.rseq, [], []⟩
  (s.modCore c fun x => { x with drain := some d }).drainCheck c

/-- A fence of a thread demands publish_all(), once; the thread is released when the drain ends (R263). -/
def demandPublish (s : State) (c : Nat) (me : Nat × Nat × Nat) : State :=
  if ((s.core c).drain.map (·.demands.contains me)).getD false then s
  else
    let s := s.modCore c fun x => { x with drain := some (match x.drain with
      | some d => { d with demands := d.demands ++ [me] }
      | none => ⟨[], [], x.pw, [], [me]⟩) }
    s.publishAll c

/-- Nothing of the core awaits ownership or an acknowledgement. -/
def drained (s : State) (c : Nat) : Bool := (s.core c).pend.isEmpty && (s.core c).posted.isEmpty

/-- A release advances RSEQ (R260 rule 5); false where the limit of R257 first asks for a drain. -/
def rseqRoom (s : State) (c : Nat) : Bool := ((s.core c).rseq + 1 - (s.core c).pw).toNat < 2 ^ 30

def rseqNext (s : State) (c : Nat) : State :=
  (s.modCore c fun x => { x with rseq := x.rseq + 1 }).bump 5 0 c 1

/-- Make a sector homed here ready for an access performed at its home (R385): copies on other packages are recalled
and a live tag's publish is obtained. The code is that of a publish that failed (R261 rule 4). -/
def homeReady (s : State) (sec : Nat) (own : Bool) : State × Option (Option (BitVec 8)) :=
  let (s, clear) := s.podRecall sec own
  if !clear then (s, none)
  else
    match (s.cohRead sec).tag with
    | none => (s, some none)
    | some t =>
      if t.lost then (s.untag sec, some none)
      else if t.pkg = s.pkg.id then (s.pubAsk (.slice sec) t.core.toNat t.seq, none)
      else
        match s.remote (.sector sec) t.pkg.toNat false (.pub t.core.toNat t.seq) with
        | (s, none) => (s, none)
        | (s, some (.ok, _)) => (s.untag sec, some none)
        | (s, some (.fault c, _)) => (s, some (some c))

end State

end Sys2Proof.Machine
end

