-- ==== Sys2Proof/Machine/Access.lean ====
section
/-! DEFINITION. The load/store engine: scratchpad portions, the L1 and its names, the sources of a load, pending stores,
store queues and their retirement, returning accesses and their faults (06 R172 to R204, R549; 09 R250 to R275;
18 R455; 20 R504). -/

namespace Sys2Proof.Machine

/-! ### Who accesses -/

/-- A thread as an agent of memory: block, group, lane, its core, ASID and mode, and what its accesses do at the LLC. -/
structure Agent where
  blk : Nat
  grp : Nat
  lane : Nat
  core : Nat
  asid : Nat
  priv : Bool
  use : Reuse := .ofHint 0
  deriving DecidableEq, Repr

def State.agent (s : State) (b g l : Nat) : Agent where
  blk := b
  grp := g
  lane := l
  core := ((s.grp? b g).map (·.core)).getD 0
  asid := ((s.blk? b).map (·.asid)).getD 0
  priv := ((s.thr? b g l).map (·.priv)).getD false

/-- What an attempted access answers: a value with the tag it met, a wait, a fault (code, address, broken lease), or a
dropped basting access. -/
inductive Got where
  | val (v : Nat) (tag : Option HemTag)
  | wait
  | fault (code : BitVec 8) (va : Nat) (broken : Bool)
  | drop
  deriving DecidableEq, Repr

/-! ### The scratchpad (R175) -/

/-- A .S access of n bytes at a is in range. -/
def Block.scrOk (x : Block) (a n : Nat) : Bool := a + n ≤ x.fr.scratch

/-- The bytes of the portion on each core of a block (R175). -/
def portion (scratch cores : Nat) : Nat := 256 * ((scratch + 256 * cores - 1) / (256 * cores))

/-! ### The weight store (R331 to R333) -/

/-- Some of n bytes of .W lie in a poisoned 128-byte segment (R332). -/
def State.wsBad (s : State) (a n : Nat) : Bool :=
  s.wsPoison.any fun (k, _) => decide (a / 128 ≤ k) && decide (k ≤ (a + n - 1) / 128)

/-- A .W access of a block: WEIGHT_STORE_ACCESS, ALIGN, POISON, or its value. -/
def State.weightRead (s : State) (b a n : Nat) : Got :=
  let ws := ((s.blk? b).map (·.fr.ws)).getD false
  if a % n ≠ 0 then .fault 0x08 a false
  else if 2 ^ 30 ≤ a ∨ !ws then .fault 0x28 a false
  else if s.wsBad a n then .fault 0x18 a false
  else .val (s.wstore.num a n) none

/-- The phase of a die (R336). -/
def State.phase (s : State) (d : Nat) : Nat := (s.now % 89600 + 89600 - 2800 * d) % 89600

/-- The bank group of a .W address is refreshing (R336, R338). -/
def State.refreshing (s : State) (a : Nat) : Bool :=
  (s.phase (a / 2 ^ 28 % 4) + 89600 - 11200 * (a / 2 ^ 25 % 8)) % 89600 < 1400

/-! ### The L1 by name (R173, R287, R454, R455) -/

/-- An L1 state that a name can find; a copy in a writeback buffer is gone from the L1. -/
def L1St.named : L1St → Bool
  | .sia | .eia | .mia | .oia => false
  | _ => true

/-- A stable L1 state. -/
def L1St.stable : L1St → Bool
  | .s | .e | .o | .m => true
  | _ => false

/-- Where an address leads: a sector the L1 may cache with its name's write permission and mode, an access performed at
a home, an uncached host window with its AFB bit, a fault, or a dropped walk. -/
inductive Res where
  | cached (sec : Nat) (wok : Bool) (mode : BitVec 2)
  | home (pkg pa : Nat)
  | host (pa : Nat) (afb : Bool)
  | fault (code : BitVec 8) (broken : Bool)
  | drop
  deriving DecidableEq, Repr

namespace State

/-- The L1 sector that a name finds in a core. -/
def l1Name (s : State) (c asid va : Nat) : Option (Nat × L1E) :=
  (s.core c).l1.find? fun (_, e) => e.st.named && e.asid == asid && e.vsec == va / 64

/-- Give the copy of a line the name under which an access found it (R455). -/
def retag (s : State) (c sec asid va : Nat) (e : Tlb) : State :=
  match s.l1? c sec with
  | some x =>
    if x.st.named && !(x.asid == asid && x.vsec == va / 64) then
      let s := s.modCore c fun y => { y with l1 := y.l1.map fun (k, z) =>
        if k / 2 = sec / 2 then
          (k, { z with asid := asid, vsec := va / 64 / 2 * 2 + k % 2, wok := e.w, mode := e.mode }) else (k, z) }
      s.bump 14 3 (c / 4) 1
    else s
  | none => s

/-- Resolve a .G address through the cluster's translation engine. -/
def resolveMiss (s : State) (c asid va : Nat) (w : Want) : State × Res :=
  match s.translate (c / 4) asid va w with
  | (s, .fault code br) => (s, .fault code br)
  | (s, .drop) => (s, .drop)
  | (s, .ok e) =>
    let pa := e.phys va
    match s.place e with
    | .barred => (s, .fault 0x11 false)
    | .home p => (s, .home p pa)
    | .doorbell => (s, .home s.self pa)
    | .host => (s, .host pa e.afb)
    | .cached =>
      if 0xC000000000000 ≤ gpaOff pa && !(s.hst.up && s.hst.cxl && !s.hst.down) then (s, .fault 0x21 false)
      else (s.retag c (pa / 64) asid va e, .cached (pa / 64) e.w e.mode)

/-- Resolve a .G address for an access: an L1 hit by name needs no translation, but for a write that its line does not
permit (R173, R185). -/
def resolve (s : State) (c asid va : Nat) (w : Want) : State × Res :=
  match (if va < 2 ^ 56 then s.l1Name c asid va else none) with
  | some (sec, e) =>
    if !w.w || e.wok then (s, .cached sec e.wok e.mode) else s.resolveMiss c asid va w
  | none => s.resolveMiss c asid va w

/-- The base of the page that an address lies in: the entry's that the cluster's TLB has, else the leaf's that a walk
finds. -/
def pageOf (s : State) (cl asid va : Nat) : Nat :=
  match (getD [] s.xlt.tlb cl).find? fun e => e.asid == asid && e.vpage ≤ va && va < e.vpage + e.size with
  | some e => e.vpage
  | none =>
    match s.walk asid va with
    | some (_, lvl, _) => va / pageSize lvl * pageSize lvl
    | none => va / pageSize 0 * pageSize 0

/-- Count a request that leaves the package for a migrate-on-count page, up to the threshold, where MIGRATION_THRESHOLD
writes the record (R386). -/
def migCount (s : State) (cl asid va home : Nat) : State :=
  let th := s.fab.mig.toNat % 65536
  if th = 0 then s
  else
    let page := s.pageOf cl asid va
    let old := s.fab.migs.find? fun m => m.asid == asid && m.vpage == page
    let rest := s.fab.migs.filter fun m => !(m.asid == asid && m.vpage == page)
    let n := (old.map (·.count)).getD 0 + 1
    let rest := if old.isNone && 4096 ≤ rest.length then rest.drop 1 else rest
    { s with fab := { s.fab with migs := rest ++ [(⟨asid, page, home, min n th⟩ : Mig)] } }

/-- Ask the slice for a sector, for a group whose entry of the pending-store buffer the request holds: the L1 enters a
transient state and the request goes out (R180, R287). -/
def l1Ask (s : State) (c sec asid va : Nat) (own : Option (Nat × Nat)) (wok : Bool) (mode hnt : BitVec 2) (k : MKind)
    (st : L1St) : State :=
  let old := s.l1? c sec
  let e : L1E := match old with
    | some e => { e with st := st, own := own, hnt := hnt }
    | none => ⟨st, SecVal.zero, asid, va / 64, wok, mode, hnt, none, own⟩
  let s := (s.setL1 c sec e).send ⟨k, c, sec, SecVal.zero, 0, 0, .core c⟩
  if mode = 2 && !s.homed sec && !(s.dirE sec).lv then s.migCount (c / 4) asid va (secHome sec) else s

/-! ### The pending-store buffer's entries (R180) -/

/-- The groups of a core that hold entries of its pending-store buffer, one for each entry: misses and sectors asked for,
pending-store entries, posted entries, and the lanes whose reads or atomics are under way outside the package. -/
def poolHolders (s : State) (c : Nat) : List (Option (Nat × Nat)) :=
  let x := s.core c
  let misses := x.l1.filterMap fun (k, e) =>
    if (e.st == .isd || e.st == .imd || e.st == .sma || e.st == .oma) && (find? k x.pend).isNone then some e.own else none
  let pends := x.pend.map fun (_, p) => p.owners.head?.map fun (b, g, _) => (b, g)
  let away := s.accs.flatMap fun a =>
    if ((s.grp? a.blk a.grp).map (·.core)) = some c then a.lanes.filterMap fun z =>
      if (s.fab.unacked.any fun r => r.owner == .lane a.id z.lane) || s.hst.reqs.any fun r => r.owner == .lane a.id z.lane
      then some (some (a.blk, a.grp)) else none
    else []
  misses ++ pends ++ (x.posted.map fun p => some (p.blk, p.grp)) ++ away

/-- The resident groups of a core. -/
def groupsOf (s : State) (c : Nat) : List (Nat × Nat) :=
  s.blocks.flatMap fun (b, x) => x.groups.zipIdx.filterMap fun (y, g) => if y.core = c ∧ !y.ended then some (b, g) else none

/-- An access that has asked for an entry still asks: its place in program order names a lane in flight or a lane in the
store queue. -/
def poolAsks (s : State) (w : Nat × Nat × Nat) : Bool :=
  (s.accs.any fun a => a.blk == w.1 && a.grp == w.2.1 && a.seq == w.2.2 && a.lanes.any fun z => z.st == .todo)
    || ((s.grp? w.1 w.2.1).map fun y => y.storeQ.any fun e => e.seq == w.2.2 && e.lanes.any fun z => !z.done).getD false

/-- A free entry for a group: one of the two reserved for it, or one that no reservation and no holder takes. -/
def poolFree (s : State) (c : Nat) (who : Nat × Nat) : Bool × Bool :=
  let hs := s.poolHolders c
  let gs := s.groupsOf c
  let kept := gs.foldl (fun n g => n + min 2 (hs.count (some g))) 0
  (decide (hs.count (some who) < 2), decide ((hs.length - kept) + 2 * gs.length < 8192))

/-- Take an entry for an access of a group, at its place in program order. Beyond the two reserved, entries go out in the
order of the requests: an access that finds none, or finds others waiting, waits (R180). -/
def poolTake (s : State) (c : Nat) (who : Nat × Nat) (seq : Nat) : State × Bool :=
  let me := (who.1, who.2, seq)
  let (mine, free) := s.poolFree c who
  let q := (s.core c).poolWait.filter fun w => w == me || s.poolAsks w
  let set (q : List (Nat × Nat × Nat)) : State := s.modCore c fun x => { x with poolWait := q }
  if mine || (free && (q.head?.all (· == me))) then (if q.isEmpty && (s.core c).poolWait.isEmpty then s else set (q.erase me), true)
  else (set (if q.contains me then q else q ++ [me]), false)

end State

/-! ### Transactions in memory (R202 to R204) -/

/-- The sectors of a footprint. -/
def Txn.footprint (x : Txn) : Nat := (x.reads ++ (x.writes.map (·.1)).filter fun k => !x.reads.contains k).length

namespace State

/-- A dirty sector is written back to its home slice, and its owner keeps it clean, in one step: no message of R283 does
it (R203 rule 2; assumption log 54). -/
def writeBackKeep (s : State) (c sec : Nat) : State :=
  match s.l1? c sec with
  | some e =>
    if e.st = .m then
      (s.setL1 c sec { e with st := .e }).setDir sec { s.dirE sec with val := e.val, lv := true, ld := true }
    else s
  | none => s

/-- Enter a sector in the read set or write set of a thread's transaction; false where a limit would be exceeded. A
sector that enters the write set dirty is first written back. -/
def txnTouch (s : State) (w : Agent) (sec : Nat) (v : SecVal) (write : Bool) : State × Bool :=
  match (s.thr? w.blk w.grp w.lane).bind (·.txn) with
  | none => (s, true)
  | some x =>
    let x' : Txn := if write then (if (find? sec x.writes).isSome then x else { x with writes := put sec v x.writes })
      else if x.reads.contains sec || (find? sec x.writes).isSome then x else { x with reads := x.reads ++ [sec] }
    if 16 < x'.footprint ∨ 8 < x'.writes.length then (s.abortTxn w.blk w.grp w.lane 0x11 0 0, false)
    else
      let s := if write then s.writeBackKeep w.core sec else s
      (s.modThr w.blk w.grp w.lane fun t => { t with txn := some x' }, true)

/-- Whether a thread is in a transaction. -/
def txnOn (s : State) (w : Agent) : Bool := ((s.thr? w.blk w.grp w.lane).bind (·.txn)).isSome

/-- An access of a transaction to a page that R202 does not admit aborts it. So does one to a home-cached page whose home is
another package: R202 admits home-cached pages, and R173 and R385 let no L1 here hold its sectors, in which a transaction
keeps its footprint (DESIGN CHOICE, assumption log 64). -/
def txnBar (s : State) (w : Agent) : State := s.abortTxn w.blk w.grp w.lane 0x13 0 0

/-- The speculative value of a sector that a thread's transaction holds. -/
def txnVal (s : State) (w : Agent) (sec : Nat) : Option SecVal :=
  ((s.thr? w.blk w.grp w.lane).bind (·.txn)).bind fun x => find? sec x.writes

end State

/-! ### What a load reads (R182) -/

/-- Bytes of a value, each where one source holds it. -/
abbrev View := List (Option Byte)

/-- Overlay n bytes of v at address a on a view that starts at va. -/
def overlay (view : View) (va a n : Nat) (v : Nat) : View :=
  view.zipIdx.map fun (x, i) => if a ≤ va + i ∧ va + i < a + n then some (BitVec.ofNat 8 (v / 2 ^ (8 * (va + i - a)))) else x

/-- The low 16 bits of two runs of bytes meet, so that they may be synonyms of one location. -/
def lowMeet (a n b m : Nat) : Bool := a % 65536 < b % 65536 + m && b % 65536 < a % 65536 + n

/-- The bytes a store-queue lane would write, where it is a plain store. -/
def StLane.span (z : StLane) : Nat × Nat :=
  match z.kind with
  | .store n v => (n, v.toNat)
  | .half _ v => (8, v.toNat)
  | .zero len _ => (len, 0)
  | .atom _ ty _ _ => (4 * ty.regs, 0)
  | .atomf _ _ _ => (4, 0)
  | .cas n _ _ => (n, 0)
  | .signal _ _ => (8, 0)

/-- A signal of FSIG (15 R398). -/
def StLane.signal (z : StLane) : Bool :=
  match z.kind with
  | .signal _ _ => true
  | _ => false

def StLane.plain (z : StLane) : Bool :=
  match z.kind with
  | .store _ _ | .half _ _ | .zero _ _ => true
  | _ => false

/-- The address of the access that a lane is, or of the part of it that is left: that of a 128-bit store stays its
own. -/
def StLane.addr (z : StLane) : Nat :=
  match z.kind with
  | .half true _ => z.va - 8
  | _ => z.va

/-- What the entries of a group's store queue before number seq hold for a lane's read of n bytes at va of one space:
none where the read waits, because an earlier atomic to its sector or an earlier store under another name of it is still
queued (R182 rule 1, R183 rule 4). -/
def queueView (sh : Bool) (q : List StEntry) (seq lane va n : Nat) : Option View :=
  let meet (a m b k : Nat) : Bool := if sh then a < b + k && b < a + m else lowMeet a m b k
  (q.filter fun e => e.shared == sh && decide (e.seq < seq)).foldl (fun acc e =>
    e.lanes.foldl (fun acc z =>
      match acc with
      | none => none
      | some view =>
        let (m, v) := z.span
        if z.lane ≠ lane ∨ z.done then some view
        else if !z.plain then (if meet (z.va / 64 * 64) 64 (va / 64 * 64) 64 then none else some view)
        else if z.va < va + n && va < z.va + m then some (overlay view va z.va m v)
        else if meet z.va m va n then none
        else some view) acc) (some (List.replicate n none))

/-- Bytes of a sector under a view. -/
def fillView (view : View) (f : Nat → Byte) : View :=
  view.zipIdx.map fun (x, i) => if x.isSome then x else some (f i)

/-- Overlay the bytes of a sector that a mask selects, below what the view already holds. -/
def underView (view : View) (o : Nat) (mask : BitVec 64) (d : SecData) : View :=
  view.zipIdx.map fun (x, i) =>
    if x.isSome then x
    else if mask.getLsbD (o + i) then some (d.extractLsb' (8 * (o + i)) 8) else none

/-- The number a full view holds. -/
def viewNum (view : View) : Nat := ofBytes (view.map (·.getD 0))

namespace State

/-- The operation of a read performed at home or host, for a lane of an access. -/
def laneOwner (acc : Nat) (w : Agent) : FOwner := .lane acc w.lane

/-- A read of n bytes performed at a home or by the host port, with what the queue and the posted entries hold back. -/
def readAway (s : State) (w : Agent) (owner : FOwner) (seq : Nat) (r : Res) (va n : Nat) (view : View) : State × Got :=
  let (pa, dst, host) : Nat × Nat × Bool := match r with
    | .home p pa => (pa, p, false)
    | .host pa _ => (pa, 0, true)
    | _ => (0, 0, false)
  if (s.core w.core).posted.any (·.sec == pa / 64) then (s, .wait)
  else if view.all (·.isSome) then (s, .val (viewNum view) none)
  else
    let fin (st : FabStatus) (v : SecVal) : Got := match st with
      | .fault code => .fault code va false
      | .ok => .val (viewNum (underView view (pa % 64) (-1) v.bytes)) none
    if host then
      match (if s.hst.reqs.any (·.owner == owner) then (s, true) else s.poolTake w.core (w.blk, w.grp) seq) with
      | (s, false) => (s, .wait)
      | (s, true) =>
        match s.hostAsk owner (.read pa n) with
        | (s, some (st, v)) => (s, fin st v)
        | (s, none) => (s, .wait)
    else if dst = s.self then
      match s.homeReady (pa / 64) false with
      | (s, none) => (s, .wait)
      | (s, some (some code)) => (s, .fault code va false)
      | (s, some none) =>
        let (s, st, v) := s.performHome (.read pa)
        (s, fin st v)
    else
      match (if (s.fab.unacked.any (·.owner == owner)) || s.peerLost dst || !s.fabRoom dst then (s, true)
        else s.poolTake w.core (w.blk, w.grp) seq) with
      | (s, false) => (s, .wait)
      | (s, true) =>
        match s.remote owner dst false (.home (.read pa)) with
        | (s, some (st, v)) => (s, fin st v)
        | (s, none) => (s, .wait)

/-- A basting prefetch is counted as useful at the first later read of its sector (R248). -/
def l1Useful (s : State) (c sec : Nat) : State :=
  match s.l1? c sec with
  | some e =>
    match e.baste with
    | some q => (s.setL1 c sec { e with baste := none }).bump 4 5 (4 * c + q) 1
    | none => s
  | none => s

/-- An access looks a sector up in its core's L1: each sector of an access counts once, as a hit or a miss (R209). -/
def look (s : State) (owner : FOwner) (core sec : Nat) (hit : Bool) : State :=
  match owner with
  | .lane id _ =>
    if s.accs.any fun a => a.id == id && a.looked.contains sec then s
    else { s.bump 2 (if hit then 0 else 1) core 1 with accs := s.accs.map fun (a : Acc) =>
      if a.id = id then { a with looked := a.looked ++ [sec] } else a }
  | _ => s.bump 2 (if hit then 0 else 1) core 1

/-- A read misses: it takes an entry of the pending-store buffer and asks the slice, or waits for an entry (R180). -/
def readMiss (s : State) (w : Agent) (owner : FOwner) (seq sec va : Nat) (wok : Bool) (mode hnt : BitVec 2) : State × Got :=
  match (s.look owner w.core sec false).poolTake w.core (w.blk, w.grp) seq with
  | (s, false) => (s, .wait)
  | (s, true) => (s.l1Ask w.core sec w.asid va (some (w.blk, w.grp)) wok mode hnt .gets .isd, .wait)

/-- A read of a sector that this L1 may cache, below what the view already holds: the L1, or a miss. inTxn says that the
sector enters the read set of the thread's transaction (R182, R203). -/
def readL1 (s : State) (w : Agent) (owner : FOwner) (seq sec va : Nat) (wok : Bool) (mode hnt : BitVec 2) (view : View) :
    State × Got :=
  match s.l1? w.core sec with
  | some e =>
    let s := s.look owner w.core sec e.st.stable
    if e.st.stable then
      if e.val.psn then (s, .fault 0x18 va false)
      else
        match s.txnTouch w sec e.val false with
        | (s, false) => (s, .drop)
        | (s, true) =>
          ((s.l1Useful w.core sec).l1Order w.core (sec / 2) false,
            .val (viewNum (underView view (va % 64) (-1) e.val.bytes)) e.val.tag)
    else (s, .wait)
  | none => s.readMiss w owner seq sec va wok mode hnt

/-- A read of n bytes of .G at va, which lie in one sector, by an access of a thread whose place in program order is seq
(R182). A read of a transaction holds its sector in the read set whatever source its bytes come from (R203). -/
def readG (s : State) (w : Agent) (owner : FOwner) (seq va n : Nat) (hnt : BitVec 2) : State × Got :=
  let me := some (w.blk, w.grp, w.lane)
  match queueView false (((s.grp? w.blk w.grp).map (·.storeQ)).getD []) seq w.lane va n with
  | none => (s, .wait)
  | some view =>
    match s.resolve w.core w.asid va (.load w.priv) with
    | (s, .fault code br) => (s, .fault code va br)
    | (s, .drop) => (s, .wait)
    | (s, .cached sec wok mode) =>
      let o := va % 64
      let s := s.abortAll (s.conflicts sec false me)
      if s.txnOn w then
        if mode = 2 then (s.txnBar w, .drop)
        else
          match s.txnVal w sec with
          | some v => (s.look owner w.core sec true, .val (viewNum (underView view o (-1) v.bytes)) none)
          | none =>
            if (find? sec (s.core w.core).pend).isSome then (s, .wait)
            else s.readL1 w owner seq sec va wok mode hnt view
      else
        let view := match find? sec (s.core w.core).pend with
          | some p => underView view o p.mask p.data
          | none => view
        if view.all (·.isSome) then (s, .val (viewNum view) none)
        else s.readL1 w owner seq sec va wok mode hnt view
    | (s, r) => if s.txnOn w then (s.txnBar w, .drop) else s.readAway w owner seq r va n view

/-- A read of n bytes of .S at va, likewise (R175, R182). -/
def readS (s : State) (w : Agent) (seq va n : Nat) : Got :=
  match queueView true (((s.grp? w.blk w.grp).map (·.storeQ)).getD []) seq w.lane va n with
  | none => .wait
  | some view =>
    let x : Memory := ((s.blk? w.blk).map (·.scratch)).getD []
    .val (viewNum (fillView view fun i => x.byte (va + i))) none

end State

/-! ### Merging stores (R181, R194, R250) -/

namespace State

/-- Merge a pending-store entry into the sector that its core now owns, and free it (R181 rule 2): a partial store to a
poisoned sector faults instead, deferred (R194). -/
def mergePend (s : State) (c sec : Nat) : State :=
  match find? sec (s.core c).pend, s.l1? c sec with
  | some p, some e =>
    let s := s.modCore c fun x => { x with pend := del sec x.pend }
    let s :=
      if e.val.psn && p.mask != -1 then
        p.owners.foldl (fun s (b, g, l, pc, va) => s.storeFault b g l pc va 0x18) s
      else
        let me := match p.owners with
          | [(b, g, l, _, _)] => some (b, g, l)
          | _ => none
        let s := s.abortAll (s.conflicts sec true me)
        let s := s.setL1 c sec { e with
          st := .m
          val := ⟨mergeSec e.val.bytes p.mask p.data, e.val.tag, e.val.psn && p.mask != -1⟩ }
        p.owners.foldl (fun s (b, _) => s.progress b) s
    s.drainSec c sec
  | _, _ => s

/-- A request for ownership failed: the entry is dropped and its stores fault, deferred (R187, R288). -/
def failPend (s : State) (c sec : Nat) (code : BitVec 8) : State :=
  match find? sec (s.core c).pend with
  | some p =>
    let s := s.modCore c fun x => { x with pend := del sec x.pend }
    (p.owners.foldl (fun s (b, g, l, pc, va) => s.storeFault b g l pc va code) s).drainSec c sec
  | none => s

end State

/-! ### Retiring one lane of a store-queue entry -/

/-- The operation of a queue lane at a physical address, for a home or the host. -/
def StKind.homeOp (k : StKind) (pa : Nat) : HomeOp :=
  match k with
  | .store n v => .write pa (maskOf (pa % 64) n) (placeSec (pa % 64) (v.toNat % 2 ^ (8 * n)))
  | .half _ v => .write pa (maskOf (pa % 64) 8) (placeSec (pa % 64) v.toNat)
  | .zero len _ => .write pa (maskOf (pa % 64) len) 0
  | .atom op ty b c => .atom pa op ty b c
  | .atomf op bf b => .atomf pa op bf b
  | .cas n cmp swap => .cas pa n cmp swap
  | .signal add b => .signal pa add b

/-- How the retirement of a lane ends: performed, the first halves of its 128-bit stores performed (the upper ones or
the lower ones), not yet, or a fault. -/
inductive Ret where
  | done (old : Nat) (tag : Option HemTag)
  | split (hi : Bool)
  | wait
  | fault (code : BitVec 8)
  deriving DecidableEq, Repr

/-- The bytes of a CZERO range that lie in the sector of its first byte. -/
def zeroPart (va len : Nat) : Nat := min len (64 - va % 64)

/-- The bytes of its sector that a plain lane covers, and their values. -/
def StLane.part (z : StLane) : BitVec 64 × SecData :=
  let n := match z.kind with
    | .zero len _ => zeroPart z.va len
    | _ => z.span.1
  (maskOf (z.va % 64) n, placeSec (z.va % 64) (z.span.2 % 2 ^ (8 * n)))

/-- One half of a 128-bit store; any other lane as it is (R194). -/
def StLane.one (z : StLane) (hi : Bool) : StLane :=
  match z.kind with
  | .store 16 v => { z with
      va := if hi then z.va + 8 else z.va
      kind := .half hi (if hi then v.extractLsb' 64 64 else v.extractLsb' 0 64) }
  | _ => z

/-- A 128-bit store. -/
def StLane.wide (z : StLane) : Bool :=
  match z.kind with
  | .store 16 _ => true
  | _ => false

/-- What is left of a lane after a step over its sector: the other half, or the next sectors of a CZERO. -/
def StLane.left (z : StLane) (split : Option Bool) (bad : Bool) : Option StLane :=
  match z.kind with
  | .store 16 _ => split.map fun hi => z.one !hi
  | .zero len was =>
    let n := zeroPart z.va len
    if n < len then some { z with va := z.va + n, kind := .zero (len - n) (was || bad) } else none
  | _ => none

/-- The bytes that the lanes of one sector cover together: a later lane replaces an earlier one (R181). -/
def coalesced (zs : List StLane) : BitVec 64 × SecData :=
  zs.foldl (fun (m, d) z => (m ||| z.part.1, mergeSec d z.part.1 z.part.2)) (0, 0)

namespace State

/-- The batches that a thread has sealed have completed (R260 rule 2, R270). -/
def batchesDone (s : State) (w : Agent) : Bool := ((s.thr? w.blk w.grp w.lane).map (·.seals.isEmpty)).getD true

/-- The waits of a release that needs an order toward a home or the host (R269, R525): pending stores performed, and
posted entries to other destinations acknowledged. -/
def awayOrdered (s : State) (w : Agent) (dst : Nat) (host : Bool) : Bool :=
  (s.core w.core).pend.isEmpty
    && (s.core w.core).posted.all fun p => !host && p.home == dst

/-- A request for an owner is under way outside the package. -/
def awayOpen (s : State) (owner : FOwner) : Bool :=
  (s.fab.unacked.any (·.owner == owner)) || s.hst.reqs.any (·.owner == owner)

/-- A store or atomic performed at a home or by the host port. A release completes publish_all() for the pending-store
entries before it goes (R269 rule 2), and the drain raises PW (R263). -/
def retireAway (s : State) (w : Agent) (e : StEntry) (z : StLane) (r : Res) : State × Ret :=
  let rel (s : State) : State := if e.rel then s.publishAll w.core else s
  let (pa, dst, host, afb) : Nat × Nat × Bool × Bool := match r with
    | .home p pa => (pa, p, false, false)
    | .host pa afb => (pa, 1024, true, afb)
    | _ => (0, 0, false, false)
  let sec := pa / 64
  let op := z.kind.homeOp pa
  if e.rel && !s.awayOrdered w dst host then (s.publishAll w.core, .wait)
  else if (s.core w.core).posted.any (·.sec == sec) then (s, .wait)
  else if !host && dst == s.self then
    match s.homeReady sec true with
    | (s, none) => (s, .wait)
    | (s, some (some code)) => (s, .fault code)
    | (s, some none) =>
      match (rel s).performHome op with
      | (s, .ok, v) => (if z.plain || (opNew op v.bytes.toNat).isSome then s.progress w.blk else s, .done v.bytes.toNat none)
      | (s, .fault code, _) => (s, .fault code)
  else if z.plain || e.acc.isNone then
    -- a store or RED: a posted entry (R181 rule 3)
    let id := s.nextId
    if host && s.hst.down then (s, .fault 0x21)
    else if !host && s.peerLost dst then (s, .fault 0x1C)
    else if !host && !s.fabRoom dst then (s, .wait)
    else match s.poolTake w.core (w.blk, w.grp) e.seq with
    | (s, false) => (s, .wait)
    | (s, true) =>
      let s := { rel s with nextId := id + 1 }
      let s := s.modCore w.core fun x => { x with posted := x.posted ++
        [(⟨id, sec, dst, w.blk, w.grp, w.lane, e.pc, z.addr, false⟩ : Posted)] }
      let own := FOwner.posted w.core id
      if host then
        let hop := if z.plain then HostOp.write pa z.span.1 (BitVec.ofNat 512 z.span.2)
          else hostRmw pa afb e.rel op
        ((s.hostAsk own hop).1, .done 0 none)
      else (s.fabSend dst (e.rel || z.signal) (.home op) own, .done 0 none)
  else
    let own := FOwner.lane (e.acc.getD 0) w.lane
    match (if s.awayOpen own || (!host && (s.peerLost dst || !s.fabRoom dst)) then (s, true)
      else match s.poolTake w.core (w.blk, w.grp) e.seq with
        | (s, true) => (rel s, true)
        | r => r) with
    | (s, false) => (s, .wait)
    | (s, true) =>
    let (s, res) :=
      if host then s.hostAsk own (hostRmw pa afb e.rel op)
      else s.remote own dst e.rel (.home op)
    match res with
    | none => (s, .wait)
    | some (.ok, v) => (if (opNew op v.bytes.toNat).isSome then s.progress w.blk else s, .done v.bytes.toNat none)
    | some (.fault code, _) => (s, .fault code)

/-- Whether a host atomic can be performed on no path (R527). -/
def hostAtomicBad (s : State) (z : StLane) (r : Res) : Bool :=
  match r with
  | .host pa afb => !z.plain && !HomeOp_atomicOp (z.kind.homeOp pa) && !(afb && s.hst.cxl)
  | _ => false

/-- The head entry of a group's store queue looks a sector up in its core's L1: each sector counts once (R209). -/
def lookHead (s : State) (w : Agent) (sec : Nat) (hit : Bool) : State :=
  match (s.grp? w.blk w.grp).bind fun y => y.storeQ.head? with
  | some e =>
    if e.looked.contains sec then s
    else (s.bump 2 (if hit then 0 else 1) w.core 1).modGrp w.blk w.grp fun y => { y with storeQ := match y.storeQ with
      | h :: t => { h with looked := h.looked ++ [sec] } :: t
      | [] => [] }
  | none => s

/-- Plain stores of the lanes zs, all to one sector that this L1 may cache: into the L1 in M or E, or into a
pending-store entry with a request for ownership (R181, R287). Together they clear the poison of a sector that they
cover, and a 128-bit one is performed by halves (R194). -/
def retireStore (s : State) (w : Agent) (e : StEntry) (zs : List StLane) (sec : Nat) (wok : Bool) (mode : BitVec 2) :
    State × Ret :=
  let c := w.core
  let me := some (w.blk, w.grp, w.lane)
  let (full, data) := coalesced zs
  let owners := zs.map fun z => (w.blk, w.grp, z.lane, e.pc, z.addr)
  let txn := s.txnOn w
  match find? sec (s.core c).pend with
  | some p =>
    if txn then (s, .wait)
    else
      let p := { p with
        mask := p.mask ||| full
        data := mergeSec p.data full data
        owners := p.owners ++ owners.filter fun o => !p.owners.contains o }
      (s.modCore c fun x => { x with pend := put sec p x.pend }, .done 0 none)
  | none =>
    let s := s.abortAll (s.conflicts sec true me)
    let s := s.lookHead w sec ((s.l1? c sec).any (·.st.stable))
    let ask (k : MKind) (st : L1St) : State × Ret :=
      match s.poolTake c (w.blk, w.grp) e.seq with
      | (s, false) => (s, .wait)
      | (s, true) =>
        let s := if txn then s else
          s.modCore c fun x => { x with pend := put sec ⟨full, data, x.rseq, owners⟩ x.pend }
        (s.l1Ask c sec w.asid ((zs.head?.map (·.va)).getD 0) (some (w.blk, w.grp)) wok mode e.hnt k st,
          if txn then .wait else .done 0 none)
    match s.l1? c sec with
    | some x =>
      match x.st with
      | .m | .e =>
        let s := s.l1Order c (sec / 2) false
        if x.val.psn && full != -1 then (s, .fault 0x18)
        else if txn then
          match s.txnTouch w sec x.val true with
          | (s, false) => (s, .wait)
          | (s, true) =>
            (s.modThr w.blk w.grp w.lane fun t => { t with txn := t.txn.map fun y =>
              { y with writes := (y.writes.map fun (k, v) =>
                if k = sec then (k, { v with bytes := mergeSec v.bytes full data }) else (k, v)) } }, .done 0 none)
        else
          let hi := Config.upperFirst s.now
          let split := !x.val.psn && zs.any (·.wide)
          let (mask, d) := if split then coalesced (zs.map (·.one hi)) else (full, data)
          ((s.setL1 c sec { x with st := .m, val := ⟨mergeSec x.val.bytes mask d, x.val.tag, false⟩ }).progress w.blk,
            if split then .split hi else .done 0 none)
      | .s => ask .upg .sma
      | .o => ask .upg .oma
      | _ => (s, .wait)
    | none => ask (if full = -1 && !txn then .getz else .getx) .imd

/-- Ask for a sector in M for the entry at the head of a store queue; true where this L1 holds it in M or E. -/
def ownSector (s : State) (w : Agent) (e : StEntry) (va sec : Nat) (wok : Bool) (mode : BitVec 2) : State × Bool :=
  if (find? sec (s.core w.core).pend).isSome then (s, false)
  else
    let s := s.lookHead w sec ((s.l1? w.core sec).any (·.st.stable))
    let ask (k : MKind) (st : L1St) : State × Bool :=
      match s.poolTake w.core (w.blk, w.grp) e.seq with
      | (s, false) => (s, false)
      | (s, true) => (s.l1Ask w.core sec w.asid va (some (w.blk, w.grp)) wok mode e.hnt k st, false)
    match s.l1? w.core sec with
    | some x =>
      match x.st with
      | .m | .e => (s, true)
      | .s => ask .upg .sma
      | .o => ask .upg .oma
      | _ => (s, false)
    | none => ask .getx .imd

/-- A release writes its bytes and its tag: steps 5 and 6 of R260. A lane whose sector still carries the tag that an
earlier lane of its issue group gave it keeps that tag. -/
def release (s : State) (w : Agent) (e : StEntry) (sec : Nat) (bytes : SecData) (old : Nat) (tag : Option HemTag) (x : L1E) :
    State × Ret :=
  if tag.any fun t => e.tags.contains (sec, t) then
    ((s.setL1 w.core sec { x with st := .m, val := ⟨bytes, tag, false⟩ }).progress w.blk, .done old tag)
  else if !s.rseqRoom w.core then (s.publishAll w.core, .wait)
  else
    let s := s.rseqNext w.core
    let t : HemTag := ⟨s.pkg.id, BitVec.ofNat 8 w.core, (s.core w.core).rseq, false⟩
    let s := s.modGrp w.blk w.grp fun y => { y with storeQ := match y.storeQ with
      | h :: q => { h with tags := h.tags ++ [(sec, t)] } :: q
      | [] => [] }
    ((s.setL1 w.core sec { x with st := .m, val := ⟨bytes, some t, false⟩ }).progress w.blk, .done old tag)

/-- An ordered store, RED or atomic on a sector this L1 holds in M, in one step (R181 rule 4, R195, R260, R275). -/
def retireOwned (s : State) (w : Agent) (e : StEntry) (z : StLane) (sec : Nat) (x : L1E) : State × Ret :=
  let me := some (w.blk, w.grp, w.lane)
  let spec := s.txnVal w sec
  let v := spec.getD x.val
  let op := z.kind.homeOp (64 * sec + z.va % 64)
  let o := z.va % 64
  let n := z.span.1
  let old := takeSec v.bytes o n
  let new : Option Nat := if z.plain then some (z.span.2 % 2 ^ (8 * n)) else opNew op old
  let s := s.l1Order w.core (sec / 2) false
  if v.psn && n < 64 then (s, .fault 0x18)
  else
    match new with
    | none => (s.abortAll (s.conflicts sec false me), .done old v.tag)
    | some y =>
      let bytes := mergeSec v.bytes (maskOf o n) (placeSec o y)
      let s := s.abortAll (s.conflicts sec true me)
      if ((s.thr? w.blk w.grp w.lane).bind (·.txn)).isSome then
        match s.txnTouch w sec v true with
        | (s, false) => (s, .wait)
        | (s, true) =>
          (s.modThr w.blk w.grp w.lane fun t => { t with txn := t.txn.map fun q =>
            { q with writes := put sec { v with bytes := bytes } q.writes } }, .done old v.tag)
      else if e.rel then
        match v.tag with
        | some t =>
          let s := s.useMark w.core t
          if s.tagLive w.core t then
            match s.pubObtain w.core t with
            | (s, some code) => (s, .fault code)
            | (s, none) => (s, .wait)
          else s.release w e sec bytes old v.tag x
        | none => s.release w e sec bytes old v.tag x
      else ((s.setL1 w.core sec { x with st := .m, val := ⟨bytes, v.tag, false⟩ }).progress w.blk, .done old v.tag)

/-- Write a .S location: no tag, and a release first completes publish_all() and the thread's batches (R274). -/
def retireShared (s : State) (w : Agent) (e : StEntry) (z : StLane) : State × Ret :=
  if e.rel && !s.drained w.core then (s.publishAll w.core, .wait)
  else
    let s := if e.rel then s.publishAll w.core else s
    match s.blk? w.blk with
    | none => (s, .done 0 none)
    | some x =>
      let n := z.span.1
      let old := x.scratch.num z.va n
      match (if z.plain then some z.span.2 else opNew (z.kind.homeOp z.va) old) with
      | some y =>
        ((s.modBlk w.blk fun x => { x with scratch := x.scratch.setNum z.va n y }).progress w.blk, .done old none)
      | none => (s, .done old none)

/-- The bytes that the next step of a lane covers. -/
def stepBytes (z : StLane) : Nat :=
  match z.kind with
  | .zero len _ => zeroPart z.va len
  | _ => z.span.1

/-- The lanes that retire in one step with a lane of the head entry: those whose plain stores meet its sector, and whose
earlier loads are bound (R181). A lane of a transaction retires by itself. -/
def mates (s : State) (b g : Nat) (e : StEntry) (z : StLane) (bound : Nat → Bool) : List StLane :=
  if e.rel || e.shared || !z.plain || s.txnOn (s.agent b g z.lane) then [z]
  else e.lanes.filter fun q => q.lane == z.lane || (!q.done && q.plain && q.fail.isNone && q.priv == z.priv
    && q.va / 64 == z.va / 64 && bound q.lane && s.leaseOk b q.priv q.va (stepBytes q) true && !s.txnOn (s.agent b g q.lane))

/-- Retire a lane of the head entry with its mates zs, or one sector of a CZERO (R181, R260, R269, R297): how it ends,
and for which lanes. -/
def retireLane (s : State) (w : Agent) (e : StEntry) (z : StLane) (zs : List StLane) : State × Ret × List StLane :=
  let alone (r : State × Ret) : State × Ret × List StLane := (r.1, r.2, [z])
  match z.fail with
  | some code => (s, .fault code, [z])
  | none =>
    if e.shared then alone (s.retireShared w e z)
    else if z.va < 2 ^ 56 && !s.leaseOk w.blk w.priv z.va (stepBytes z) true then (s, .fault 0x12, [z])
    else
      let want : Want := if z.plain || e.acc.isNone then .store w.priv else .atomic w.priv
      let (s, r) := s.resolve w.core w.asid z.va want
      let r : Res := match r with
        | .cached sec _ _ => if z.signal then .home (secHome sec) (64 * sec + z.va % 64) else r
        | r => r
      match (s, r) with
      | (s, .fault code _) => (s, .fault code, [z])
      | (s, .drop) => (s, .wait, [z])
      | (s, .cached sec wok mode) =>
        if mode = 2 && s.txnOn w then (s.txnBar w, .wait, [z]) else
        if z.plain && !e.rel then
          let (s, r) := s.retireStore w e zs sec wok mode
          (s, r, zs)
        else
          let s := s.abortAll (s.conflicts sec false (some (w.blk, w.grp, w.lane)))
          match s.ownSector w e z.va sec wok mode with
          | (s, false) => (s, .wait, [z])
          | (s, true) =>
            match s.l1? w.core sec with
            | some x => alone (s.retireOwned w e z sec x)
            | none => (s, .wait, [z])
      | (s, r) =>
        if s.txnOn w then (s.txnBar w, .wait, [z])
        else if s.hostAtomicBad z r then (s, .fault 0x20, [z])
        else alone (s.retireAway w e (match z.kind with
          | .zero len bad => { z with kind := .zero (zeroPart z.va len) bad }
          | _ => z) r)

end State

/-! ### Returning accesses (R186, R549) -/

/-- The destination of a returning access, with the registers it covers. -/
def retDst : Instr → Option (Opnd × Nat)
  | .ld _ w _ _ _ _ d _ | .ldv _ w _ _ _ d _ | .ldw _ w _ _ d _ | .lda _ w _ _ _ _ d _ => some (d, w.regs)
  | .atom _ _ ty _ _ _ d _ _ _ | .fatom _ _ ty _ _ d _ _ _ => some (d, ty.regs)
  | .atomf _ _ _ _ _ _ d _ _ => some (d, 1)
  | .cas _ w _ _ _ d _ _ _ => some (d, if w then 2 else 1)
  | .cas128 _ _ _ _ d _ _ _ => some (d, 4)
  | _ => none

/-- The value a destination takes: 8- and 16-bit loads are extended (R192). -/
def retExt (i : Instr) (v : Nat) : Nat :=
  let ext (w : Wid) (sx : Bool) : Nat :=
    match w with
    | .w8 => if sx then wrapInt 32 (intOf 8 true v) else v % 256
    | .w16 => if sx then wrapInt 32 (intOf 16 true v) else v % 65536
    | _ => v
  match i with
  | .ld _ w sx _ _ _ _ _ | .ldw _ w sx _ _ _ | .lda _ w sx _ _ _ _ _ => ext w sx
  | _ => v

/-- Bytes that a load reads. -/
def retBytes : Instr → Nat
  | .ld _ w _ _ _ _ _ _ | .ldv _ w _ _ _ _ _ | .ldw _ w _ _ _ _ | .lda _ w _ _ _ _ _ _ => w.bytes
  | .fatom _ _ ty _ _ _ _ _ _ => 4 * ty.regs
  | _ => 4

/-- The address space of a returning access. -/
def retSpc : Instr → Spc
  | .ld _ _ _ sp _ _ _ _ | .ldv _ _ sp _ _ _ _ | .lda _ _ _ sp _ _ _ _ => sp
  | .atom _ _ _ _ _ sp _ _ _ _ | .atomf _ _ _ _ _ sp _ _ _ | .cas _ _ _ _ sp _ _ _ _ | .cas128 _ _ _ sp _ _ _ _ => sp
  | .ldw _ _ _ _ _ _ => .w
  | _ => .g

/-- The replacement hint of a load (R289). -/
def retHint : Instr → BitVec 2
  | .ld _ _ _ _ _ h _ _ | .ldv _ _ _ _ h _ _ | .lda _ _ _ _ _ h _ _ => h
  | _ => 0

/-- The condition of WAITMEM (R483). -/
def wcondOk (c : WCond) (w v : Nat) : Bool :=
  match c with
  | .eq => w == v
  | .ne => w != v
  | .ge => v ≤ w
  | .lt => w < v

/-- The operation of an FATOM lane (R396, R403). -/
def fatomOp (i : Instr) (pa : Nat) (b c : QWord) : HomeOp :=
  match i with
  | .fatom _ .cas ty _ _ _ _ _ _ => .cas pa (4 * ty.regs) c b
  | .fatom _ op ty _ _ _ _ _ _ => .atom pa op ty (b.truncate 64) (c.truncate 64)
  | _ => .read pa

/-- An FATOM with .rel or .ar. -/
def fatomRel : Instr → Bool
  | .fatom _ _ _ ord _ _ _ _ _ => ord == .rel || ord == .ar
  | _ => false

def LaneSt.isBound : LaneSt → Bool
  | .bound _ => true
  | _ => false

/-- An atomic lane that has been performed. -/
def LaneSt.performed : LaneSt → Bool
  | .bound _ | .reacq _ | .waitPub _ _ _ _ | .fault _ _ _ (some _) => true
  | _ => false

/-- Not begun, or a part of it still to do. -/
def LaneSt.ready : LaneSt → Bool
  | .todo | .half _ _ | .reacq _ => true
  | _ => false

def LaneSt.open_ : LaneSt → Bool
  | .todo | .half _ _ | .reacq _ | .waitPub _ _ _ _ => true
  | _ => false

namespace State

/-- Every returning access of a thread that is older than seq has bound its value (R183, R252, R262). -/
def boundBefore (s : State) (b g l seq : Nat) : Bool :=
  s.accs.all fun a => !(a.blk == b && a.grp == g && decide (a.seq < seq)) ||
    a.lanes.all fun z => z.lane != l || z.st.isBound

/-- Set one lane of an access. -/
def setLane (s : State) (id l : Nat) (st : LaneSt) : State :=
  { s with accs := s.accs.map fun a =>
    if a.id = id then { a with lanes := a.lanes.map fun z => if z.lane = l then { z with st := st } else z } else a }

/-- The value of an acquire has arrived with a tag (R264). -/
def acquired (s : State) (w : Agent) (va v : Nat) (tag : Option HemTag) : State × LaneSt :=
  let done : LaneSt := .bound (BitVec.ofNat 128 v)
  match tag with
  | none => (s, done)
  | some t =>
    let s := s.useMark w.core t
    if !s.tagForeign w.core t then (s, done)
    else if t.lost then (s, .fault 0x19 va false (some (BitVec.ofNat 128 v)))
    else if s.tagLive w.core t then
      match s.pubObtain w.core t with
      | (s, some code) => (s, .fault code va false (some (BitVec.ofNat 128 v)))
      | (s, none) => (s, .waitPub t.pkg.toNat t.core.toNat t.seq (BitVec.ofNat 128 v))
    else (s, done)

/-- A plain load that meets a live tag records it, or acts as an acquire where no slot is free (R268). -/
def metTag (s : State) (w : Agent) (va v : Nat) (tag : Option HemTag) : State × LaneSt :=
  let done : LaneSt := .bound (BitVec.ofNat 128 v)
  match tag, s.thr? w.blk w.grp w.lane with
  | some t, some th =>
    let s := s.useMark w.core t
    if !s.tagLive w.core t then (s, done)
    else if th.met.any fun m => m.pkg == t.pkg && m.core == t.core then
      (s.modThr w.blk w.grp w.lane fun th => { th with met := th.met.map fun m =>
        if m.pkg == t.pkg && m.core == t.core && seqAbove t.seq m.seq then t else m }, done)
    else if th.met.length < 4 then (s.modThr w.blk w.grp w.lane fun th => { th with met := th.met ++ [t] }, done)
    else s.acquired w va v tag
  | _, _ => (s, done)

/-- Attempt one lane of a returning access that waits: a load, an acquire, WAITMEM or FATOM. An atomic waits for its
store-queue entry; one that was performed before a halt reads its sector again for its acquire (R266). A 128-bit load binds
one half at an attempt (R193). -/
def tryLane (s : State) (a : Acc) (z : AccLane) : State × LaneSt :=
  let w := { s.agent a.blk a.grp z.lane with priv := z.priv }
  let n := retBytes a.ins
  match a.kind with
  | .atomic =>
    match z.st with
    | .reacq v =>
      (match s.readG w (.lane a.id z.lane) a.seq z.va 4 0 with
      | (s, .val _ tag) => s.acquired w z.va v.toNat tag
      | (s, .fault code va br) => (s, .fault code va br (some v))
      | (s, _) => (s, z.st))
    | _ => (s, z.st)
  | .ldw =>
    if s.refreshing z.va then (s, z.st)
    else match s.weightRead a.blk z.va n with
      | .val v _ => (s.bump 8 0 (z.va / 2 ^ 28) 1, .bound (BitVec.ofNat 128 v))
      | .fault code va br => (s, .fault code va br none)
      | _ => (s, z.st)
  | .load =>
    let read (s : State) (va n : Nat) : State × Got := if retSpc a.ins = .s then (s, s.readS w a.seq va n)
      else s.readG w (.lane a.id z.lane) a.seq va n (retHint a.ins)
    match z.st with
    | .half hi x =>
      (match read s (if hi then z.va + 8 else z.va) 8 with
      | (s, .val v tag) => s.metTag w z.va (if hi then x.toNat + v * 2 ^ 64 else v + x.toNat * 2 ^ 64) tag
      | (s, .fault code _ br) => (s, .fault code z.va br none)
      | (s, _) => (s, z.st))
    | _ =>
      match read s z.va n with
      | (s, .val v tag) =>
        (match s.metTag w z.va v tag with
        | (s, .bound q) =>
          if n = 16 then
            let hi := Config.upperFirst s.now
            (s, .half (!hi) (if hi then q.extractLsb' 64 64 else q.extractLsb' 0 64))
          else (s, .bound q)
        | r => r)
      | (s, .fault code va br) => (s, .fault code va br none)
      | (s, _) => (s, z.st)
  | .acquire =>
    match (if retSpc a.ins = .s then (s, s.readS w a.seq z.va n)
      else s.readG w (.lane a.id z.lane) a.seq z.va n (retHint a.ins)) with
    | (s, .val v tag) => s.acquired w z.va v tag
    | (s, .fault code va br) => (s, .fault code va br none)
    | (s, _) => (s, z.st)
  | .waitmem =>
    if ((s.thr? a.blk a.grp z.lane).bind (·.hold)).isSome then (s, z.st)
    else match s.readG w (.lane a.id z.lane) a.seq z.va 4 0 with
      | (s, .val v tag) =>
        let ok := match a.ins with
          | .waitmem _ cc _ _ => wcondOk cc v (z.b.toNat % 2 ^ 32)
          | _ => true
        if ok then s.acquired w z.va v tag
        else
          let s := { s with accs := s.accs.map fun (q : Acc) => if q.id = a.id then { q with looked := [] } else q }
          ((s.modThr a.blk a.grp z.lane fun t => { t with hold := some (.waitmem z.va (s.now + 2048)) }).modBlk a.blk fun x =>
            { x with heldMark := true }, z.st)
      | (s, .fault code va br) => (s, .fault code va br none)
      | (s, _) => (s, z.st)
  | .fatom =>
    match s.resolve w.core w.asid z.va (.atomic w.priv) with
    | (s, .fault code br) => (s, .fault code z.va br none)
    | (s, .drop) => (s, z.st)
    | (s, r) =>
      let r : Res := match r with
        | .cached sec _ _ => .home (secHome sec) (64 * sec + z.va % 64)
        | r => r
      let rel := fatomRel a.ins
      let bad : Bool := match r with
        | .host pa afb => !HomeOp_atomicOp (fatomOp a.ins pa z.b z.c) && !(afb && s.hst.cxl)
        | _ => false
      if bad then (s, .fault 0x20 z.va false none)
      else
        let (pa, dst, host, afb) : Nat × Nat × Bool × Bool := match r with
          | .home p pa => (pa, p, false, false)
          | .host pa afb => (pa, 1024, true, afb)
          | _ => (0, 0, false, false)
        let op := fatomOp a.ins pa z.b z.c
        if rel && !s.awayOrdered w dst host then (s.publishAll w.core, z.st)
        else if (s.core w.core).posted.any (·.sec == pa / 64) then (s, z.st)
        else if !host && dst == s.self then
          match s.homeReady (pa / 64) true with
          | (s, none) => (s, z.st)
          | (s, some (some code)) => (s, .fault code z.va false none)
          | (s, some none) =>
            match s.performHome op with
            | (s, .ok, v) => (s, .bound (v.bytes.truncate 128))
            | (s, .fault code, _) => (s, .fault code z.va false none)
        else
          let own := FOwner.lane a.id z.lane
          let (s, res) := if host then s.hostAsk own (hostRmw pa afb rel op)
            else s.remote own dst rel (.home op)
          match res with
          | none => (s, z.st)
          | some (.ok, v) => (s, .bound (v.bytes.truncate 128))
          | some (.fault code, _) => (s, .fault code z.va false none)

/-- An access in flight. -/
def acc? (s : State) (id : Nat) : Option Acc := s.accs.find? fun a => a.id == id

/-- One lane of an access. -/
def Acc.lane? (a : Acc) (l : Nat) : Option AccLane := a.lanes.find? fun z => z.lane == l

/-- A group's core has accepted the halt of its block (20 R502). -/
def haltedGrp (s : State) (b g : Nat) : Bool :=
  match s.blk? b, s.grp? b g with
  | some x, some y => x.halting.contains y.core
  | _, _ => false

/-- One lane of an atomic has been sent outside the package and completes whatever happens here (15 R404 rule 4). -/
def laneSent (s : State) (a : Acc) (l : Nat) : Bool :=
  (a.kind == .atomic || a.kind == .fatom)
    && ((s.fab.unacked.any fun r => r.owner == .lane a.id l && (match r.op with
        | .home (.read _) => false
        | _ => true))
      || s.hst.reqs.any fun r => r.owner == .lane a.id l)

/-- Attempt one lane of an access, if it waits and its thread's earlier accesses have bound. After the halt of its block
only what has been sent goes on. -/
def tryOne (s : State) (a : Acc) (z : AccLane) : State :=
  if s.haltedGrp a.blk a.grp && !s.laneSent a z.lane then s
  else if z.st.ready ∧ s.boundBefore a.blk a.grp z.lane a.seq then
    let (s, st) := s.tryLane a z
    s.setLane a.id z.lane st
  else s

/-- Attempt the lanes of a list. -/
def tryLanes (s : State) (id : Nat) : List Nat → State
  | [] => s
  | l :: ls =>
    match (s.acc? id).bind fun a => (Acc.lane? a l).map fun z => (a, z) with
    | some (a, z) => (s.tryOne a z).tryLanes id ls
    | none => s.tryLanes id ls

end State

/-! ### The end of a returning access -/

/-- The kind of replay record that an access in flight becomes (R504). -/
def AccKind.replay : AccKind → RKind
  | .load => .load | .ldw => .ldw | .acquire => .acquire | .atomic => .atomic | .waitmem => .waitmem | .fatom => .atomic

/-- The replay record of one lane. An atomic lane that was performed holds its old value (R404, R499, R549). -/
def Acc.record (a : Acc) (z : AccLane) : Replay :=
  match a.kind, z.st with
  | .atomic, .bound v | .fatom, .bound v | .atomic, .waitPub _ _ _ v | .atomic, .reacq v
  | .atomic, .fault _ _ _ (some v) => ⟨some a.seq, a.pc, z.va, .fatomDone, a.ins, v, z.c⟩
  | _, _ => ⟨some a.seq, a.pc, z.va, a.kind.replay, a.ins, z.b, z.c⟩

namespace State

/-- Turn every returning access of a thread into replay records, in program order (R191, R549). -/
def toReplay (s : State) (b g l : Nat) : State :=
  let recs := s.accs.flatMap fun a =>
    if a.blk = b ∧ a.grp = g then a.lanes.filterMap fun z => if z.lane = l then some (a.record z) else none else []
  let s := s.modThr b g l fun t => { t with replay := t.replay ++ recs, hold := none }
  let s := s.modGrp b g fun y => { y with storeQ := (y.storeQ.map fun e =>
    if e.acc.isSome then { e with lanes := e.lanes.filter (·.lane != l) } else e).filter fun e => e.lanes != [] }
  s.dropAccs b fun g' l' => g' == g && l' == l

/-- An atomic of .G whose ORD acquires. -/
def acqAtom : Instr → Bool
  | .atom _ _ _ ord _ sp _ _ _ _ | .atomf _ _ _ ord _ sp _ _ _ | .cas _ _ ord _ sp _ _ _ _ | .cas128 _ ord _ sp _ _ _ _ =>
    (ord == .acq || ord == .ar) && sp == .g
  | _ => false

/-- Issue one replay record again, as an access of its one lane that leaves the PC alone (R504, R549). -/
def reissue (s : State) (b g l : Nat) (r : Replay) : State :=
  let id := s.nextId
  let kind : AccKind := match r.kind with
    | .load => .load
    | .ldw => .ldw
    | .acquire => .acquire
    | .waitmem => .waitmem
    | .atomic | .fatomDone => (match r.ins with
      | .fatom _ _ _ _ _ _ _ _ _ => .fatom
      | _ => .atomic)
  let st : LaneSt := if r.kind = .fatomDone then (if acqAtom r.ins then .reacq r.b else .bound r.b) else .todo
  let seq := r.seq.getD id
  let a : Acc := ⟨id, seq, b, g, r.pc, r.pc, r.ins, kind, s.now, 1#32 <<< l, 1#32 <<< l, [], [⟨l, r.va, r.b, r.c, st, (s.agent b g l).priv⟩]⟩
  let s := { s with nextId := id + 1, accs := s.accs ++ [a] }
  if kind = .atomic && r.kind != .fatomDone then
    let mk (k : StKind) (ord : Ord) (sp : Spc) : StEntry :=
      ⟨seq, r.pc, sp == .s, ord == .rel || ord == .ar, ord == .acq || ord == .ar, some id, [], 0, [], [⟨l, r.va, k, false, none, (s.agent b g l).priv⟩]⟩
    let e : Option StEntry := match r.ins with
      | .atom _ op ty ord _ sp _ _ _ _ => some (mk (.atom op ty (r.b.truncate 64) (r.c.truncate 64)) ord sp)
      | .atomf _ op bf ord _ sp _ _ _ => some (mk (.atomf op bf (r.b.truncate 32)) ord sp)
      | .cas _ w ord _ sp _ _ _ _ => some (mk (.cas (if w then 8 else 4) r.b r.c) ord sp)
      | .cas128 _ ord _ sp _ _ _ _ => some (mk (.cas 16 r.b r.c) ord sp)
      | _ => none
    s.modGrp b g fun y => { y with
      storeQ := y.storeQ.filter (fun x => decide (x.seq ≤ seq)) ++ e.toList ++ y.storeQ.filter fun x => decide (seq < x.seq) }
  else s

/-- Issue a thread's replay records again, in order. -/
def reissueAll (s : State) (b g l : Nat) : List Replay → State
  | [] => s
  | r :: rs => (s.reissue b g l r).reissueAll b g l rs

/-- The fault of one lane of a returning access after a later instruction of its thread has issued: contained, with the
effects of R549. -/
def lateFault (s : State) (b g l : Nat) (a : Acc) (code : BitVec 8) (va : Nat) (broken : Bool) (lmask : BitVec 32)
    (faulty : Bool) : State :=
  match s.thr? b g l with
  | none => s
  | some t =>
    let kept := t.replay.length
    let s := s.toReplay b g l
    let was := t.priv
    let s := if faulty then
        s.takeFault b g l { Flt.sync code a.pc t.pc va with lmask := lmask, broken := broken } t.pc (some a.seq)
      else s
    match s.thr? b g l with
    | none => s
    | some t' =>
      if t'.exited ∨ (t'.priv ∧ !was) then s
      else if t.txn.isSome ∧ t'.txn.isNone then s.modThr b g l fun t => { t with replay := t.replay.take kept }
      else
        -- retry: every record again; ignore: the faulting lane's record is dropped
        let again := faulty && t'.retryPc == a.pc && t'.retries != (if t.retryPc = a.pc then t.retries else 0)
        let rs := t'.replay.drop kept
        let rs := if faulty && !again then rs.filter fun r => !(r.pc == a.pc && r.va == va) else rs
        (s.modThr b g l fun t => { t with replay := t.replay.take kept }).reissueAll b g l rs

/-- The end of basting: what the entry recorded is restored (08 R245). -/
def bastingRestore (s : State) (b g : Nat) : State :=
  let s := match (s.grp? b g).bind fun y => y.bast.map fun z => (4 * y.core + y.quad, z.since) with
    | some (c, t) => s.bump 4 1 c (s.now - t)
    | none => s
  s.modGrp b g fun y =>
    match y.bast with
    | none => y
    | some z => { y with
        bast := none
        s := z.s
        fpstat := z.fpstat
        lastTrig := some z.trigger
        threads := y.threads.zipIdx.map fun (t, l) => { t with
          pc := z.pcs.getD l t.pc
          v := z.vs.getD l t.v
          p := z.ps.getD l t.p
          sdcnt := z.sds.getD l t.sdcnt } }

/-- Keep the lanes of an atomic that were performed, with their old values, for its next issue (R499 rule 3). -/
def keepDone (s : State) (a : Acc) (done : BitVec 32) : State :=
  if done = 0 then s
  else s.modGrp a.blk a.grp fun y => { y with
    pmask := done
    pmaskPc := a.pc
    olds := a.lanes.foldl (fun os z => match z.st with
      | .bound v | .fault _ _ _ (some v) => os.set z.lane v
      | _ => os) y.olds }

/-- A returning access in which a lane faulted ends: threads in which nothing later has issued stay at its PC, each
faulting one raising its fault; the others take their replay records (R186, R549). -/
def accFault (s : State) (a : Acc) : State :=
  let s := s.bastingRestore a.blk a.grp
  let done := a.lanes.foldl (fun m z => if a.kind = .atomic && z.st.performed then m ||| (1#32 <<< z.lane) else m) 0#32
  let s := s.keepDone a (done &&& ~~~a.late)
  let s := (List.range 32).foldl (fun s l =>
    if a.group.getLsbD l && !a.late.getLsbD l then s.modThr a.blk a.grp l fun t =>
      if t.exited then t else { t with pc := a.pc } else s) s
  -- the lanes that stay precise leave the access; the others become records in their place
  let s := { s with accs := (s.accs.map fun q =>
    if q.id = a.id then { q with lanes := q.lanes.filter fun z => a.late.getLsbD z.lane } else q).filter fun q =>
      q.lanes != [] }
  let s := a.lanes.foldl (fun s z =>
    if a.late.getLsbD z.lane then
      match z.st with
      | .fault code va br _ => s.lateFault a.blk a.grp z.lane a code va br done true
      | _ => s.lateFault a.blk a.grp z.lane a 0 0 false done false
    else s) s
  a.lanes.foldl (fun s z =>
    match z.st with
    | .fault code va br _ =>
      if a.late.getLsbD z.lane then s
      else s.takeFault a.blk a.grp z.lane { Flt.sync code a.pc a.npc va with lmask := done, broken := br } a.pc
    | _ => s) s

/-- Write returned values to a destination: while the group bastes, to what the end of basting restores (R245). -/
def writeRet (y : Group) (d : Opnd) (n : Nat) (res : List (Nat × Nat)) : Group :=
  match y.bast with
  | none => y.writeDst d n res
  | some z =>
    match d with
    | .v r => { y with bast := some { z with
        vs := res.foldl (fun vs (l, x) => vs.modify l fun v => setRegs v r.toNat n x) z.vs } }
    | .s r =>
      match res.head? with
      | some (_, x) => { y with bast := some { z with s := setRegs z.s r.toNat n x } }
      | none => y
    | _ => y

end State

/-- A triggering load is over for its basting: every lane has its data, or a lane has its fault (R244 rule 1). -/
def Acc.over (a : Acc) : Bool := !a.lanes.any (·.st.open_) || a.lanes.any fun z => !z.st.open_ && !z.st.isBound

namespace State

/-- An access all of whose lanes have ended writes its destination, or faults (R186). The fault of an access other than the
triggering load, while the group bastes, is delivered when basting has ended (DESIGN CHOICE, assumption log 32: R244 names no
such event). -/
def settle (s : State) (id : Nat) : State :=
  match s.acc? id with
  | none => s
  | some a =>
    let s := if a.over && ((s.grp? a.blk a.grp).bind (·.bast)).any (·.trigger == id) then s.bastingRestore a.blk a.grp else s
    if a.lanes.any (·.st.open_) || s.haltedGrp a.blk a.grp then s
    else if a.lanes.all (·.st.isBound) then
      let s := { s with accs := s.accs.filter (·.id != id) }
      let s := if a.kind = .waitmem then s.progress a.blk else s
      match retDst a.ins with
      | some (d, n) =>
        let res := a.lanes.filterMap fun z => match z.st with
          | .bound v => some (z.lane, retExt a.ins v.toNat)
          | _ => none
        s.modGrp a.blk a.grp fun y => writeRet y d n res
      | none => s
    else if ((s.grp? a.blk a.grp).bind (·.bast)).isSome then s
    else s.accFault a

/-- The accesses of a group that have ended with a fault while it basted are delivered, once it does not. -/
def settleHeld (s : State) (b g : Nat) : State :=
  if ((s.grp? b g).bind (·.bast)).isSome then s
  else ((s.accs.filter fun a => a.blk == b && a.grp == g && a.lanes.all fun z => !z.st.open_).map (·.id)).foldl
    (fun s id => s.settle id) s

/-- Basting ends: its record is restored, and what was held back is delivered. -/
def bastingOver (s : State) (b g : Nat) : State := (s.bastingRestore b g).settleHeld b g

/-- Attempt an access and end it if it can end. -/
def pursue (s : State) (id : Nat) : State :=
  match s.acc? id with
  | none => s
  | some a =>
    let t := (s.tryLanes id (a.lanes.map (·.lane))).settle id
    if ((s.grp? a.blk a.grp).bind (·.bast)).isSome then t.settleHeld a.blk a.grp else t

/-- Attempt every access of the package once, oldest first. -/
def pursueAll (s : State) : State := (s.accs.map (·.id)).foldl (fun s id => s.pursue id) s

/-! ### Retirement of the head entry (R181, R187, R252) -/

/-- A lane of the head entry is done, or what is left of it takes its place. -/
def headLane (s : State) (b g lane : Nat) (left : Option StLane) : State :=
  s.modGrp b g fun y => { y with storeQ := match y.storeQ with
    | h :: t => { h with lanes := h.lanes.map fun q =>
        if q.lane = lane then (match left with
          | some z => z
          | none => { q with done := true }) else q } :: t
    | [] => [] }

/-- The step of a lane of the head entry has ended: its result goes to its access, or its fault to the access, to the
thread's transaction (R205), or to the deferred record. The sectors of a CZERO after one that faults are still zeroed,
and the record holds the first (R297). -/
def laneEnd (s : State) (b g : Nat) (e : StEntry) (z : StLane) (r : Ret) : State :=
  let w := s.agent b g z.lane
  match r with
  | .wait => s
  | .split hi => s.headLane b g z.lane (z.left (some hi) false)
  | .done old tag =>
    match e.acc with
    | some id =>
      let (s, st) := if e.acq then s.acquired w z.va old tag else (s, .bound (BitVec.ofNat 128 old))
      (s.setLane id z.lane st).headLane b g z.lane none
    | none => s.headLane b g z.lane (z.left none false)
  | .fault code =>
    match e.acc with
    | some id => (s.setLane id z.lane (.fault code z.va false none)).headLane b g z.lane none
    | none =>
      let t := s.headLane b g z.lane (z.left none true)
      let again : Bool := match z.kind with
        | .zero _ bad => bad
        | _ => false
      if e.pc = 0 || again then t
      else if s.txnOn w && code != 0x12 then t.abortTxn b g z.lane 0x14 0 code
      else t.storeFault b g z.lane e.pc z.addr code

/-- Retire the lanes of the head entry in ascending order, sector by sector, up to the first that waits (R181). seen lists
the lanes that a step of this retirement has met: what is left of them goes on at the next. -/
def retireLanes (s : State) (b g : Nat) (seen : List Nat) : List Nat → State
  | [] => s
  | l :: ls =>
    match (s.grp? b g).bind fun y => y.storeQ.head? with
    | none => s
    | some e =>
      match e.lanes.find? (·.lane == l) with
      | none => s.retireLanes b g seen ls
      | some z =>
        if z.done || seen.contains l then s.retireLanes b g seen ls
        else if !s.boundBefore b g l e.seq then s
        else
          let zs := (s.mates b g e z fun k => s.boundBefore b g k e.seq).filter fun q => !seen.contains q.lane
          let (s, r, zs) := s.retireLane { s.agent b g l with priv := z.priv } e z zs
          match r with
          | .wait => s
          | r => (zs.foldl (fun s q => s.laneEnd b g e q r) s).retireLanes b g (seen ++ zs.map (·.lane)) ls

/-- Retire the head entry of a group's store queue as far as it can. A block whose groups have ended ends with the last
of their stores. -/
def retire (s : State) (b g : Nat) : State :=
  match (s.grp? b g).bind fun y => y.storeQ.head? with
  | none => s
  | some e =>
    let s := s.retireLanes b g [] (e.lanes.map (·.lane))
    let s := s.modGrp b g fun y => { y with storeQ := match y.storeQ with
      | h :: t => if h.lanes.all (·.done) then t else h :: t
      | [] => [] }
    match e.acc with
    | some id => s.settle id
    | none => if ((s.grp? b g).map (·.ended)).getD false then s.checkBlock b else s

end State

end Sys2Proof.Machine
end

