-- ==== Sys2Proof/Machine/Issue.lean ====
section
/-! DEFINITION. The issue engine and the basting unit: instruction fetch and framing, branch targets, eligible threads
and issue groups, and the issue of one instruction with its checks (02 R36 to R42; 04 R102 to R131; 08 R236 to R247). -/

namespace Sys2Proof.Machine

/-! ### Instruction fetch (R36, R131, R453) -/

/-- What a fetch of a line answers. -/
inductive Fetched where
  | line (ws : List Word)
  | wait
  | fault (code : BitVec 8) (broken : Bool)
  deriving DecidableEq, Repr

/-- What a fetch of one sector answers, without ending its request. -/
inductive FetchSec where
  | data (v : SecData)
  | wait
  | fault (code : BitVec 8)
  deriving DecidableEq, Repr

/-- Enter a line in the instruction cache of 1,024 lines (R1): a full one drops the line that it has held longest (DESIGN
CHOICE, assumption log 5). -/
def Core.keepLine (c : Core) (l : ILine) : Core :=
  { c with icache := c.icache.drop (c.icache.length + 1 - 1024) ++ [l] }

namespace State

/-- One sector of a fetch line, through the home slice, the local copy of a sector of another home, or a request. -/
def fetchSec (s : State) (core : Nat) (p : Place) (pa : Nat) : State × FetchSec :=
  let sec := pa / 64
  let own (s : State) : State × FetchSec :=
    match s.podRecall sec false with
    | (s, false) => (s, .wait)
    | (s, true) => let v := s.cohRead sec; (s.readBy sec, if v.psn then .fault 0x18 else .data v.bytes)
  let away (s : State) : State × FetchSec :=
    match s.fab.unacked.find? fun r => r.owner == .fetch core && r.op == .home (.read pa) with
    | some r =>
      match r.result with
      | some (.ok, v) => (s, .data v.bytes)
      | some (.fault c, _) => ((s.remote (.fetch core) (gpaHome pa) false (.home (.read pa))).1, .fault c)
      | none => (s, .wait)
    | none =>
      match s.remote (.fetch core) (gpaHome pa) false (.home (.read pa)) with
      | (s, some (.fault c, _)) => (s, .fault c)
      | (s, _) => (s, .wait)
  match p with
  | .cached => if s.homed sec then own s
      else if (s.dirE sec).lv then (let v := (s.dirE sec).val; (s, if v.psn then .fault 0x18 else .data v.bytes)) else away s
  | .home q => if q = s.self then own s else away s
  | _ => (s, .fault 0x11)

/-- A fetch line of 32 words from its two sectors. -/
def lineWords (a b : SecData) : List Word :=
  (List.range 16).map (fun i => a.extractLsb' (32 * i) 32) ++ (List.range 16).map fun i => b.extractLsb' (32 * i) 32

/-- End the requests that brought a line. -/
def dropFetch (s : State) (core pa : Nat) : State :=
  { s with fab := { s.fab with unacked := s.fab.unacked.filter fun r =>
    !(r.owner == .fetch core && (r.op == .home (.read pa) || r.op == .home (.read (pa + 64)))) } }

/-- Fetch the line at an address for a thread of a block: from the instruction cache, or through translation. -/
def fetchLine (s : State) (b core : Nat) (priv : Bool) (line : Nat) : State × Fetched :=
  let asid := ((s.blk? b).map (·.asid)).getD 0
  if !s.leaseOk b priv line 128 false then (s, .fault 0x12 false)
  else
    match (s.core core).icache.find? fun e => e.asid == asid && e.line == line with
    | some e => if e.x && (!e.priv || priv) then (s, .line e.words) else (s, .fault 0x11 false)
    | none =>
      match s.translate (core / 4) asid line (.fetch priv) with
      | (s, .fault c br) => (s, .fault c br)
      | (s, .drop) => (s, .wait)
      | (s, .ok e) =>
        let pa := e.phys line
        let (s, x) := s.fetchSec core (s.place e) pa
        let (s, y) := s.fetchSec core (s.place e) (pa + 64)
        match x, y with
        | .fault c, _ => (s, .fault c false)
        | _, .fault c => (s, .fault c false)
        | .data u, .data v =>
          let ws := lineWords u v
          ((s.dropFetch core pa).modCore core fun c => c.keepLine ⟨asid, line, ws, e.x, e.priv⟩, .line ws)
        | _, _ => (s, .wait)

end State

/-! ### Framing (R38 to R42) -/

/-- A start position of a line: its word, whether it holds a whole instruction, and the words to the next one. -/
structure Start where
  pos : Nat
  ok : Bool
  len : Nat
  deriving DecidableEq, Repr

/-- The start positions of a segment from a word on (R39); a pad word is none. -/
def startsFrom (ws : List Word) (fin : Nat) : Nat → Nat → List Start
  | 0, _ => []
  | k + 1, pos =>
    if fin ≤ pos then []
    else
      let w := ws.getD pos 0
      match lenWords w with
      | none => if pos + 1 = fin ∧ w = 0 then [] else [⟨pos, false, fin - pos⟩]
      | some n => if pos + n ≤ fin then ⟨pos, true, n⟩ :: startsFrom ws fin k (pos + n) else [⟨pos, false, fin - pos⟩]

/-- The start positions of a line. -/
def starts (ws : List Word) : List Start :=
  startsFrom ws 8 4 1 ++ startsFrom ws 16 4 8 ++ startsFrom ws 24 4 16 ++ startsFrom ws 32 4 24

/-- The start position at a word. -/
def startAt (ws : List Word) (i : Nat) : Option Start := (starts ws).find? (·.pos == i)

/-- The header's ZERO bit is set: every instruction of the line is illegal (R40). -/
def malformed (ws : List Word) : Bool := (ws.getD 0 0).getLsbD 0

/-- The PC after an instruction of n words at word i of a line: past a pad word, and past the next line's header
(R39, R40). -/
def nextPc (ws : List Word) (line i n : Nat) : Nat :=
  let j := i + n
  let j := if j % 8 = 7 ∧ ws.getD j 1 = 0 then j + 1 else j
  (if 32 ≤ j then line + 132 else line + 4 * j) % 2 ^ 56

/-- What stands at a PC of a line: an instruction with the PC after it, a decode fault with the guard (none for NOP,
which has none), or a framing fault. -/
inductive Framed where
  | ins (i : Instr) (npc : Nat)
  | bad (code : BitVec 8) (g : Option Guard) (npc : Nat)
  | framing (npc : Nat) (unknown : Bool)
  deriving DecidableEq, Repr

/-- The fault code of a decode fault (R59). -/
def decodeCode : DecodeFault → BitVec 8
  | .illegalOpcode => 0x01
  | .illegalEncoding => 0x02

/-- Frame and decode the word at a PC of its line (R39 to R42, R59). -/
def framedAt (ws : List Word) (pc : Nat) : Framed :=
  let i := pc % 128 / 4
  let line := pc / 128 * 128
  match startAt ws i with
  | none => .framing (nextPc ws line i 1) true
  | some st =>
    let npc := nextPc ws line i st.len
    if !st.ok || malformed ws then .framing npc false
    else
      let w0 := ws.getD i 0
      let w1 := ws.getD (i + 1) 0
      let w2 := if st.len < 3 then 0 else ws.getD (i + 2) 0
      let w3 := if st.len < 4 then 0 else ws.getD (i + 3) 0
      match decodeSimt w0 w1 w2 w3 with
      | .ok ins => .ins ins npc
      | .error e =>
        let r := Raw.ofWords w0 w1 w2 w3
        .bad (decodeCode e) (if r.opc = 0 then none else some r.g) npc

/-- What a check answers: passed, not yet, the thread's deferred record, where it holds one (06 R188, 11 R308), or a
fault with its address and whether it met a broken lease entry. -/
inductive Chk where
  | pass
  | wait
  | record
  | fault (code : BitVec 8) (va : Nat) (broken : Bool)
  deriving DecidableEq, Repr

namespace State

/-- Check the target of a transfer (R42, R131): the PC it goes to, once its line has been fetched. -/
def target (s : State) (b core : Nat) (priv : Bool) (addr : Nat) : State × Chk × Nat :=
  if 2 ^ 56 ≤ addr ∨ addr % 4 ≠ 0 then (s, .fault 0x03 addr false, 0)
  else
    let pc := skipHeader addr
    match s.fetchLine b core priv (pc / 128 * 128) with
    | (s, .wait) => (s, .wait, pc)
    | (s, .fault c br) => (s, .fault c addr br, pc)
    | (s, .line ws) =>
      let i := pc % 128 / 4
      if (ws.getD 0 0).getLsbD i && (startAt ws i).any (·.ok) then (s, .pass, pc) else (s, .fault 0x03 addr false, pc)

/-- The instruction that a core's instruction cache holds at a PC. -/
def cachedAt (s : State) (core asid pc : Nat) : Option Framed :=
  ((s.core core).icache.find? fun e => e.asid == asid && e.line == pc / 128 * 128).map fun e => framedAt e.words pc

end State

/-! ### Classes of instructions -/

/-- Convergence points (R117, R227, R302, R319, R514): 1 for a group point, 2 for a quad point. -/
def convPoint : Instr → Nat
  | .shfl _ _ _ _ _ _ | .voteAll _ _ _ | .voteAny _ _ _ | .voteUni _ _ _ | .voteBallot _ _ _ | .redux _ _ _ _ _
  | .cvtmx _ _ _ _ _ _ | .cpy _ _ _ _ _ _ _ _ _ | .cpym _ _ _ _ _ _ _ | .bari _ _ _ _ | .bara _ _ | .barx _ _ _
  | .halt _ => 1
  | .qswap _ _ _ _ | .qbcast _ _ _ _ => 2
  | _ => 0

/-- Instructions that take a store-queue entry: the store-class ones (R179, R297), and FSIG, which is sent from its head
(15 R398). -/
def storeClass : Instr → Bool
  | .st _ _ _ _ _ _ | .red _ _ _ _ _ _ _ _ _ | .strel _ _ _ _ _ _ _ | .atom _ _ _ _ _ _ _ _ _ _
  | .atomf _ _ _ _ _ _ _ _ _ | .cas _ _ _ _ _ _ _ _ _ | .cas128 _ _ _ _ _ _ _ _ | .czero _ _ _
  | .fsigSet _ _ _ | .fsigAdd _ _ _ => true
  | _ => false

/-- Returning accesses (R549). -/
def returning : Instr → Bool
  | .ld _ _ _ _ _ _ _ _ | .ldv _ _ _ _ _ _ _ | .ldw _ _ _ _ _ _ | .lda _ _ _ _ _ _ _ _ | .waitmem _ _ _ _
  | .atom _ _ _ _ _ _ _ _ _ _ | .atomf _ _ _ _ _ _ _ _ _ | .cas _ _ _ _ _ _ _ _ _ | .cas128 _ _ _ _ _ _ _ _
  | .fatom _ _ _ _ _ _ _ _ _ => true
  | _ => false

/-- Instructions that issue only when every earlier returning access of the thread has bound (R549 rule 3). -/
def afterBound : Instr → Bool
  | .cpy _ _ _ _ _ _ _ _ _ | .cpym _ _ _ _ _ _ _ | .cseal _ _ | .cwait _ _ | .crdptr _ _ _ | .cfixq _ _
  | .bari _ _ _ _ | .bara _ _ | .barw _ _ | .barx _ _ _ | .fput _ _ _ _ | .fget _ _ _ _ | .fsigSet _ _ _
  | .fsigAdd _ _ _ | .fred _ _ _ _ _ _ _ | .fatom _ _ _ _ _ _ _ _ _ | .spawn _ _ _ | .yield _ | .waitmem _ _ _ _
  | .sleep _ _ | .trap _ _ | .eret _ | .srd _ _ | .swr _ _ | .halt _ | .tlbiPage _ _ _ | .tlbiAsid _ _ | .tlbiAll _
  | .exit _ | .xbeg _ _ | .xend _ _ | .basteOff _ | .basteOn _ _ | .cflush _ _ _ | .cinv _ _ _ => true
  | .czero _ _ _ => true
  | _ => false

/-- Window changes wait for outstanding writes to V registers (R123). -/
def windowChange : Instr → Bool
  | .alloc _ _ _ | .call _ _ | .callx _ _ _ | .ret _ => true
  | _ => false

/-- Instructions that take a pending deferred record and so wait for the thread's earlier stores (R188), and those that
act as such a fence (R294, R398, R481, R483, R510, R514, R515). -/
def takesDeferred : Instr → Bool
  | .fenceAcq _ _ | .fenceRel _ _ | .fenceAr _ _ | .strel _ _ _ _ _ _ _ | .lda _ _ _ _ _ _ _ _
  | .fsigSet _ _ _ | .fsigAdd _ _ _ | .spawn _ _ _ | .waitmem _ _ _ _ | .halt _ | .tlbiPage _ _ _ | .tlbiAsid _ _
  | .tlbiAll _ => true
  | .atom _ _ _ ord _ _ _ _ _ _ | .atomf _ _ _ ord _ _ _ _ _ | .cas _ _ ord _ _ _ _ _ _ | .cas128 _ ord _ _ _ _ _ _
  | .red _ _ _ ord _ _ _ _ _ => ord != .none
  | .fatom _ _ _ ord _ _ _ _ _ => ord == .rel || ord == .ar
  | _ => false

/-- Instructions that wait until the thread's earlier store-queue entries have retired, without taking a record. -/
def afterStores : Instr → Bool
  | .xbeg _ _ | .xend _ _ | .cflush _ _ _ | .cinv _ _ _ | .exit _ | .bara _ _ | .barx _ _ _ => true
  | _ => false

/-- Instructions that wait until the thread's earlier stores have been performed (10 R294). -/
def afterPerformed : Instr → Bool
  | .cflush _ _ _ | .cinv _ _ _ => true
  | _ => false

/-- Releases, which first wait for the batches the thread has sealed (09 R260 rule 2, R270 rule 2). -/
def afterBatches : Instr → Bool
  | .strel _ _ _ _ _ _ _ | .bara _ _ | .barx _ _ _ => true
  | .atom _ _ _ ord _ _ _ _ _ _ | .atomf _ _ _ ord _ _ _ _ _ | .cas _ _ ord _ _ _ _ _ _ | .cas128 _ ord _ _ _ _ _ _
  | .red _ _ _ ord _ _ _ _ _ | .fatom _ _ _ ord _ _ _ _ _ => ord == .rel || ord == .ar
  | _ => false

/-- Collective instructions (11 R302). -/
def isColl : Instr → Bool
  | .cpy _ _ _ _ _ _ _ _ _ | .cpym _ _ _ _ _ _ _ => true
  | _ => false

/-- What a transaction may hold (R202). -/
def txnAllowed : Instr → Bool
  | .nop _ | .bra _ | .mov _ _ _ _ | .movi _ _ _ | .sel _ _ _ _ _ _ | .plop _ _ _ _ _ _ | .pmov _ _ _ | .pmovNot _ _ _
  | .xend _ _ | .xabt _ _ => true
  | .ld _ _ _ sp _ _ _ _ | .st _ _ sp _ _ _ => sp == .g
  | .atom _ _ _ ord _ sp _ _ _ _ | .atomf _ _ _ ord _ sp _ _ _ | .cas _ _ ord _ sp _ _ _ _ | .cas128 _ ord _ sp _ _ _ _ =>
    sp == .g && ord == .none
  | .iadd _ _ _ _ _ _ _ | .iadd3 _ _ _ _ _ _ | .imul _ _ _ _ _ _ | .imulh _ _ _ _ _ | .imad _ _ _ _ _ _ _
  | .imadW _ _ _ _ _ _ | .imin _ _ _ _ _ | .imax _ _ _ _ _ | .iabs _ _ _ _ _ | .isad _ _ _ _ _ _ | .log3 _ _ _ _ _ _
  | .shl _ _ _ _ _ _ | .shr _ _ _ _ _ _ | .sar _ _ _ _ _ _ | .rot _ _ _ _ _ _ | .fsh _ _ _ _ _ _ _ | .bfx _ _ _ _ _
  | .bfi _ _ _ _ _ _ | .prmt _ _ _ _ _ | .popc _ _ _ _ | .clz _ _ _ _ | .ctz _ _ _ _ | .brev _ _ _ _ | .lea _ _ _ _ _ _
  | .idp4 _ _ _ _ _ _ _ _ | .idp2 _ _ _ _ _ _ _ _ _ | .icmp _ _ _ _ _ _ | .i2p _ _ _ | .p2i _ _ => true
  | .fadd _ _ _ _ _ _ | .fmul _ _ _ _ _ _ | .ffma _ _ _ _ _ _ _ | .fmin _ _ _ _ _ _ | .fmax _ _ _ _ _ _ | .frnd _ _ _ _ _
  | .fclass _ _ _ | .fcmp _ _ _ _ _ _ | .fsetmodeWmode _ _ | .fsetmodeRmode _ _ | .fsetmodeRstat _ _
  | .fsetmodeCstat _ _ | .dadd _ _ _ _ _ _ | .dmul _ _ _ _ _ _ | .dfma _ _ _ _ _ _ _ | .dmin _ _ _ _ _ _
  | .dmax _ _ _ _ _ _ | .dcmp _ _ _ _ _ _ | .hadd2 _ _ _ _ _ _ | .hmul2 _ _ _ _ _ _ | .hfma2 _ _ _ _ _ _ _
  | .hmnmx2 _ _ _ _ _ _ _ | .badd2 _ _ _ _ _ _ | .bmul2 _ _ _ _ _ _ | .bfma2 _ _ _ _ _ _ _ | .qadd4 _ _ _ _ _ _ _ _
  | .qmul4 _ _ _ _ _ _ _ _ | .qfma4 _ _ _ _ _ _ _ _ _ | .cvt _ _ _ _ _ _ _ _ | .cvtmx _ _ _ _ _ _
  | .cvtmxQ _ _ _ _ _ _ _ | .rcp _ _ _ _ _ | .rsq _ _ _ _ _ | .sqrt _ _ _ _ _ | .ex2 _ _ _ _ _ | .lg2 _ _ _ _ _
  | .sin _ _ _ _ _ | .cos _ _ _ _ _ | .tanh _ _ _ _ _ | .hrand _ _ _ _ _ | .drop _ _ _ _ _ _ => true
  | _ => false

/-- What an instruction does while its group bastes (R242). -/
inductive BasteClass where
  | exec | bra | load | pref | invalid | skip | ends
  deriving DecidableEq, Repr

/-- The table of R242. A BRX with a valid pair, of which the table says nothing, goes to its target in the shadow PC as a
BRA does (DESIGN CHOICE, assumption log 32). -/
def basteClass (i : Instr) : BasteClass :=
  match i with
  | .bra _ | .brx _ _ => .bra
  | .ld _ _ _ _ nb _ _ _ | .ldv _ _ _ nb _ _ _ => if nb then .invalid else .load
  | .ldw _ _ _ _ _ _ => .invalid
  | .pref _ _ _ _ => .pref
  | .st _ _ _ _ _ _ => .skip
  | .red _ _ _ ord _ _ _ _ _ => if ord = .none then .skip else .ends
  | .atom _ _ _ ord _ _ _ _ _ _ | .atomf _ _ _ ord _ _ _ _ _ | .cas _ _ ord _ _ _ _ _ _ | .cas128 _ ord _ _ _ _ _ _ =>
    if ord = .none then .invalid else .ends
  | .xend _ _ | .xabt _ _ | .fsetmodeWmode _ _ | .fsetmodeRmode _ _ | .fsetmodeRstat _ _
  | .fsetmodeCstat _ _ => .ends
  | .shfl _ _ _ _ _ _ | .qswap _ _ _ _ | .qbcast _ _ _ _ | .voteAll _ _ _ | .voteAny _ _ _ | .voteUni _ _ _
  | .voteBallot _ _ _ | .redux _ _ _ _ _ => .exec
  | i => if txnAllowed i then .exec else .ends

/-- The registers that their chapter names unprivileged, on which an SWR has no effect (20 R512): RSEQ and PW (09 R255), and
REFWIN0 to REFWIN3 (12 R337). An SWR of any other is privileged, a read-only one among them (DEDUCED, assumption
log 58). -/
def swrFree (n : Nat) : Bool := n == 0x300 || n == 0x301 || (0x340 ≤ n && n ≤ 0x343)

/-- Instructions that need privileged mode (R512, R516). -/
def privForm : Instr → Bool
  | .swr h _ => !swrFree (sysRegNum h.ext)
  | .eret _ | .halt _ | .tlbiPage _ _ _ | .tlbiAsid _ _ | .tlbiAll _ => true
  | _ => false

/-- Predicate destinations, and predicate sources beside the guard, for the marks of basting (R241). -/
def predDst : Instr → Bool
  | .plop _ _ _ _ _ _ | .pmov _ _ _ | .pmovNot _ _ _ | .voteAll _ _ _ | .voteAny _ _ _ | .voteUni _ _ _
  | .icmp _ _ _ _ _ _ | .fcmp _ _ _ _ _ _ | .dcmp _ _ _ _ _ _ | .i2p _ _ _ => true
  | _ => false

def predSrc : Instr → Bool
  | .plop _ _ _ _ _ _ | .pmov _ _ _ | .pmovNot _ _ _ | .voteAll _ _ _ | .voteAny _ _ _ | .voteUni _ _ _
  | .voteBallot _ _ _ | .sel _ _ _ _ _ _ | .p2i _ _ => true
  | .icmp _ _ _ pp _ _ | .fcmp _ _ _ pp _ _ | .dcmp _ _ _ pp _ _ => pp.pf == .a || pp.pf == .o
  | _ => false

/-! ### Readiness (R105, R106, R123, R179, R188, R503, R549) -/

/-- Registers of a list of numbers. -/
def opndRegs (o : Opnd) (n : Nat) : List Nat × List Nat :=
  match o with
  | .v r => ((List.range n).map (· + r.toNat), [])
  | .s r => ([], (List.range n).map (· + r.toNat))
  | _ => ([], [])

/-- Two operands name a common register of one kind. -/
def opndsMeet (a : Opnd) (n : Nat) (b : Opnd) (m : Nat) : Bool :=
  match a, b with
  | .v x, .v y => x.toNat < y.toNat + m && y.toNat < x.toNat + n
  | .s x, .s y => x.toNat < y.toNat + m && y.toNat < x.toNat + n
  | _, _ => false

/-- The instructions of the floating pipe: major opcodes 0x50 to 0x81 (chapter 07). -/
def floatPipe (i : Instr) : Bool :=
  (encodeRaw i).any fun r => decide (0x50 ≤ r.opc.toNat) && decide (r.opc.toNat ≤ 0x81)

namespace State

/-- A returning access in flight will write a register that the instruction names: for a V register in the lane, for an
S register in the group (R105, R549 rule 1). -/
def hazard (s : State) (b g l : Nat) (us : List Use) : Bool :=
  s.accs.any fun a => a.blk == b && a.grp == g && (match retDst a.ins with
    | some (d, n) => (d.isS || a.lanes.any (·.lane == l)) && us.any fun u => opndsMeet d n u.op u.regs
    | none => false)

/-- A thread has a returning access in flight. -/
def inFlight (s : State) (b g l : Nat) : Nat :=
  s.accs.countP fun a => a.blk == b && a.grp == g && a.lanes.any (·.lane == l)

/-- A returning access of a thread will write a V register. -/
def vOutstanding (s : State) (b g l : Nat) : Bool :=
  s.accs.any fun a => a.blk == b && a.grp == g && a.lanes.any (·.lane == l) && (match retDst a.ins with
    | some (.v _, _) => true
    | _ => false)

/-- A thread has store-class work that has not left its group's queue. -/
def queued (s : State) (b g l : Nat) : Bool :=
  ((s.grp? b g).map fun y => y.storeQ.any fun e => e.lanes.any fun z => z.lane == l && !z.done).getD false

/-- A thread has a store that has retired and is not yet performed. -/
def storesOpen (s : State) (b g l : Nat) : Bool :=
  match s.grp? b g with
  | some y =>
    let c := s.core y.core
    (c.pend.any fun (_, p) => p.owners.any fun (b', g', l', _, _) => b' == b && g' == g && l' == l)
      || c.posted.any fun p => p.blk == b && p.grp == g && p.lane == l
  | none => false

/-- One thread is ready to issue an instruction, as far as its operands and the queues go. -/
def threadReady (s : State) (b g l : Nat) (i : Instr) : Bool :=
  !s.hazard b g l i.uses
    && !(returning i && 8 ≤ s.inFlight b g l)
    && !(afterBound i && s.inFlight b g l != 0)
    && !(windowChange i && s.vOutstanding b g l)
    && !((takesDeferred i || afterStores i) && s.queued b g l)
    && !(afterPerformed i && s.storesOpen b g l)
    && !(afterBatches i && ((s.thr? b g l).map (!·.seals.isEmpty)).getD false)

/-- Room for the collective that a group's next collective instruction joins: one that has begun, or a new one while fewer
than eight are in flight and no fix-up entry is still to be replayed (11 R301, R326). -/
def collRoom (s : State) (b g : Nat) : Bool :=
  match s.blk? b, s.grp? b g with
  | some x, some y =>
    x.halting.isEmpty && (x.fixups.isEmpty && x.liveColls.length < 8 || x.colls.any fun c => c.num == y.cc.toNat)
  | _, _ => true

/-- A cclk in which a throttling package's arrays and floating pipes refuse issue: every second one (22 R541). -/
def refuses (s : State) : Bool := s.pkg.throttling.isSome && s.now % 2 == 1

/-- The engine that an instruction of a group goes to can accept it: the pipe is not throttled, the group's store queue has
room, and so have the block's collectives (R106, R179; 11 R301; 22 R541). -/
def accepts (s : State) (b g : Nat) (i : Instr) : Bool :=
  !(s.refuses && floatPipe i) && !(storeClass i && 16 ≤ ((s.grp? b g).map (·.storeQ.length)).getD 0)
    && !(isColl i && !s.collRoom b g)

/-- The engine accepts an issue group's instruction and its threads are ready (R107 rule 3). -/
def ready (s : State) (c : Cur) (i : Instr) : Bool :=
  s.accepts c.blk c.grp i && (List.range 32).all fun l => !c.lanes.getLsbD l || s.threadReady c.blk c.grp l i

end State

/-! ### Eligible threads and the chosen PC (R106, R111, R117) -/

/-- A thread is held by a wait, a halt, or the replay of a restored access (R106 rule 3). -/
def Thread.held (t : Thread) : Bool := t.halted || t.hold.isSome || (!t.replay.isEmpty && !t.priv)

/-- A thread at a convergence point waits for the others of its group or quad: the issue group is to hold every one that has
not exited, so one held at that PC is waited for too (R117). -/
def convWaits (y : Group) (l pc k : Nat) : Bool :=
  let missing (t : Thread) : Bool := !t.exited && (t.pc != pc || t.held)
  if k = 1 then y.threads.any missing
  else if k = 2 then y.threads.zipIdx.any fun (t, j) => j / 4 == l / 4 && missing t
  else false

namespace State

/-- The convergence class of the instruction that stands at a PC, as far as the instruction cache shows it. -/
def convAt (s : State) (b core pc : Nat) : Nat :=
  match s.cachedAt core (((s.blk? b).map (·.asid)).getD 0) pc with
  | some (.ins i _) => convPoint i
  | _ => 0

/-- The eligible lanes of a group (R106). -/
def eligible (s : State) (b : Nat) (y : Group) : List Nat :=
  y.threads.zipIdx.filterMap fun (t, l) =>
    if t.exited || t.held then none
    else if convWaits y l t.pc (s.convAt b y.core t.pc) then none
    else some l

/-- A thread is ready at its PC, where the instruction cache holds the line (R106). -/
def readyAt (s : State) (b g : Nat) (y : Group) (l : Nat) : Bool :=
  match y.threads[l]? with
  | some t =>
    match s.cachedAt y.core (((s.blk? b).map (·.asid)).getD 0) t.pc with
    | some (.ins i _) => s.accepts b g i && s.threadReady b g l i
    | some _ => true
    | none => false
  | none => false

end State

/-- The lowest PC of some lanes, ties to the lowest lane. -/
def lowestPc (y : Group) (ls : List Nat) : Option (Nat × Nat) :=
  ls.foldl (fun acc l =>
    match acc, y.threads[l]? with
    | none, some t => some (t.pc, l)
    | some (p, j), some t => if t.pc < p then some (t.pc, l) else some (p, j)
    | a, none => a) none

/-- choose_pc (R111), where ok says which lane is ready: the group with its favoured thread as the procedure leaves it, and
the PC. -/
def State.choosePc (s : State) (b : Nat) (y : Group) (ok : Nat → Bool) : Group × Option Nat :=
  let es := s.eligible b y
  if es = [] then (y, none)
  else
    let favOk := y.fav.any fun f => es.contains f && ok f
    if favOk then (y, (y.fav.bind fun f => y.threads[f]?).map (·.pc))
    else
      let fs := es.filter fun l => (y.threads[l]?).any (4096 ≤ ·.ready)
      match lowestPc y fs with
      | some (p, l) => ({ y with fav := some l }, some p)
      | none =>
        let dmax := es.foldl (fun d l => max d (((y.threads[l]?).map (·.depth)).getD 0)) 0
        ({ y with fav := none },
          (lowestPc y (es.filter fun l => ((y.threads[l]?).map (·.depth)).getD 0 = dmax)).map (·.1))

/-! ### Basting marks and slots (R240, R241) -/

/-- The source lane of SHFL for lane i with segment width w and operand b (R141). -/
def shflLane (m : ShflMode) (w i b : Nat) : Nat :=
  let base := i - i % w
  match m with
  | .pick => base + b % w
  | .cyc => base + (i % w + b) % w
  | .slide =>
    let k : Int := (i % w : Nat) + intOf 6 true b
    if 0 ≤ k ∧ k < w then base + k.toNat else i
  | .xor => Nat.xor i (b % w)

/-- The predicates that an instruction writes. -/
def predMask (i : Instr) : BitVec 8 :=
  match i with
  | .plop _ d _ _ _ _ | .pmov _ d _ | .pmovNot _ d _ | .voteAll _ d _ | .voteAny _ d _ | .voteUni _ d _ => 1#8 <<< d.toNat
  | .icmp _ _ _ pp _ _ | .fcmp _ _ _ pp _ _ | .dcmp _ _ _ pp _ _ => (1#8 <<< pp.pd.toNat) ||| (1#8 <<< pp.pe.toNat)
  | .i2p _ _ _ => -1
  | _ => 0

/-- A compare of the .U form, which writes its pair in guard-false threads too (R49, R115). -/
def pairU (i : Instr) : Bool :=
  match i with
  | .icmp _ _ _ pp _ _ | .fcmp _ _ _ pp _ _ | .dcmp _ _ _ pp _ _ => pp.pf == .u
  | _ => false

/-- The predicate slot of a lane is invalid: one of the eight is. One bit stands for all eight, and a valid write of one
predicate leaves it set while another's last write was invalid (DESIGN CHOICE, assumption log 32). -/
def Baste.predBad (z : Baste) (l : Nat) : Bool := z.invP.getD l 0 != 0

/-- A source of an instruction is invalid in a lane. -/
def Baste.badIn (z : Baste) (i : Instr) (l : Nat) : Bool :=
  (predSrc i && z.predBad l) || i.uses.any fun u => !u.dst && (match u.op with
    | .v r => (List.range u.regs).any fun k => (z.invV.getD l []).contains (r.toNat + k)
    | .s r => (List.range u.regs).any fun k => z.invS.contains (r.toNat + k)
    | .p _ => z.predBad l
    | _ => false)

/-- The lanes whose source an exchange reads for a lane (R121, R141 to R144): part lists the lanes that take part. -/
def readLanes (y : Group) (i : Instr) (part : List Nat) (l : Nat) : List Nat :=
  match i with
  | .shfl h m seg _ _ b =>
    ((y.threads[l]?).map fun t => shflLane m (32 / 2 ^ seg.toNat) l (src32 h.ext y t l b)).toList
  | .qswap _ m _ _ => [Nat.xor l (m.toNat + 1)]
  | .qbcast _ q _ _ => [l / 4 * 4 + q.toNat]
  | .voteAll _ _ _ | .voteAny _ _ _ | .voteUni _ _ _ | .voteBallot _ _ _ | .redux _ _ _ _ _ => part
  | _ => []

/-- The group's lowest non-exited thread, which holds the slots of S registers (R240 rule 3). -/
def Group.lowLive (y : Group) : Nat := (y.threads.findIdx? fun t => !t.exited).getD 0

/-- The free shadow slots of a lane (R240): its allotment less its window, its retained registers and its slots. -/
def Group.freeSlots (y : Group) (z : Baste) (regs l : Nat) : Nat :=
  match y.threads[l]? with
  | some t =>
    let used := (z.slotV.getD l []).length + (if z.slotP.getD l false then 1 else 0)
      + (if l = y.lowLive then z.slotS.length else 0)
    regs - ((t.links.map (·.k)).sum + t.v.length) - used
  | none => 0

/-- New shadow slots that an instruction takes in a lane: hit lists the lanes that perform it, preds those whose predicates it
writes (R240). -/
def slotsNeeded (y : Group) (z : Baste) (i : Instr) (hit preds : List Nat) (l : Nat) : Nat :=
  let one (u : Use) : Nat := match u.op with
    | .v r => if hit.contains l then (List.range u.regs).countP fun k => !(z.slotV.getD l []).contains (r.toNat + k) else 0
    | .s r => if hit ≠ [] ∧ l = y.lowLive then (List.range u.regs).countP fun k => !z.slotS.contains (r.toNat + k) else 0
    | _ => 0
  (((i.uses.filter (·.dst)).map one).sum) + (if predDst i && preds.contains l && !z.slotP.getD l false then 1 else 0)

/-- Take the slots of an instruction's destinations and mark them (R240, R241): of the lanes hit that perform it, bad lists
those whose destinations become invalid; preds lists those whose predicates it writes. An S destination is invalid with any
of them, or where the issue group lacks a non-exited thread. -/
def markSlots (z : Baste) (i : Instr) (hit preds bad : List Nat) (conv : Bool) : Baste :=
  let vs : List Nat := (i.uses.filter (·.dst)).flatMap fun u => (opndRegs u.op u.regs).1
  let ss : List Nat := if hit = [] then [] else (i.uses.filter (·.dst)).flatMap fun u => (opndRegs u.op u.regs).2
  { z with
    slotV := hit.foldl (fun t l => t.modify l fun r => r ++ vs.filter fun k => !r.contains k) z.slotV
    slotP := if predDst i then preds.foldl (fun t l => t.set l true) z.slotP else z.slotP
    slotS := z.slotS ++ ss.filter fun k => !z.slotS.contains k
    invV := hit.foldl (fun t l => t.modify l fun r =>
      if bad.contains l then r ++ vs.filter fun k => !r.contains k else r.filter fun k => !vs.contains k) z.invV
    invP := if predDst i then preds.foldl (fun t l => t.modify l fun m =>
      if bad.contains l then m ||| predMask i else m &&& ~~~(predMask i)) z.invP else z.invP
    invS := if bad ≠ [] ∨ !conv then z.invS ++ ss.filter fun k => !z.invS.contains k
      else z.invS.filter fun k => !ss.contains k }

/-! ### The issue of one instruction -/

/-- The lanes of a mask, ascending. -/
def lanesOf (m : BitVec 32) : List Nat := (List.range 32).filter fun l => m.getLsbD l

/-- A mask of lanes. -/
def maskLanes (ls : List Nat) : BitVec 32 := ls.foldl (fun m l => m ||| (1#32 <<< l)) 0

/-- A thread of an issue group that moves to the next instruction (R115). -/
def Thread.moved (c : Cur) (t : Thread) : Thread :=
  { t with
    pc := c.npc
    ready := 0
    retries := if t.retryPc = c.pc then t.retries else 0
    retryPc := c.pc
    maint := none
    published := false
    shot := false }

/-- A group whose issue group moves to the next instruction. -/
def Group.moved (c : Cur) (y : Group) : Group :=
  { (y.modLanes (lanesOf c.lanes) fun _ t => t.moved c) with waits := 0, prio := false, issued := true }

namespace State

/-- A later instruction of their threads has issued after the accesses in flight of some lanes (R549). -/
def markLate (s : State) (c : Cur) : State :=
  { s with accs := s.accs.map fun (a : Acc) =>
    if a.blk = c.blk ∧ a.grp = c.grp then { a with late := a.late ||| (c.lanes &&& a.group) } else a }

/-- In an ordered grid, the next block may start once every group of this one has issued or ended (19 R474). -/
def openNext (s : State) (b : Nat) : State :=
  match s.blk? b with
  | some x => if x.fr.ordered && x.groups.all (fun y => y.issued || y.ended) then s.orderNext x else s
  | none => s

/-- The quadrant that a group is on, counted over the package. -/
def unitOf (s : State) (b g : Nat) : Nat := ((s.grp? b g).map fun y => 4 * y.core + y.quad).getD 0

/-- A cclk in which an issue group issued, and its threads, are counted, whether it performs or faults (R145). The counters
of the engine that the instruction goes to (R170) do not count a group that a window, privilege or uniform check stops here:
the spec does not say whether that engine accepts it (DESIGN CHOICE, assumption log 63). -/
def countIssue (s : State) (c : Cur) : State :=
  (s.bump 0 0 (s.unitOf c.blk c.grp) 1).bump 0 1 (s.unitOf c.blk c.grp) (lanesOf c.lanes).length

/-- The threads of an issue group move to the next instruction (R115): their PCs, wait counts and retry counts, and the
marks of the accesses in flight. -/
def passOn (s : State) (c : Cur) : State := ((s.modGrp c.blk c.grp (Group.moved c)).markLate c).openNext c.blk

/-- An issue group moves to the next instruction and is counted. -/
def advance (s : State) (c : Cur) : State := (s.passOn c).countIssue c

/-- The marks that an instruction in progress left in its threads are gone. -/
def unmark (s : State) (c : Cur) : State :=
  s.modGrp c.blk c.grp fun y => y.modLanes (lanesOf c.lanes) fun _ t => { t with maint := none, published := false, shot := false }

/-- The window, privilege and uniform checks of one guard-true lane (R122, R116, R129, R516). -/
def laneChecks (s : State) (c : Cur) (i : Instr) (l : Nat) : Chk :=
  match s.grp? c.blk c.grp with
  | none => .pass
  | some y =>
    match y.threads[l]? with
    | none => .pass
    | some t =>
      if privForm i && !t.priv then .fault 0x05 0 false
      else if !windowOk i.uses t then .fault 0x02 0 false
      else if writesS i.uses && !y.converged c.lanes then .fault 0x06 0 false
      else .pass

/-- The thread has a deferred record and the instruction takes it (R188): the recorded fault, precise here. -/
def deferredChk (s : State) (c : Cur) (l : Nat) : Option (Nat × Flt × Nat) :=
  match (s.thr? c.blk c.grp l).bind (·.deferred) with
  | some d => some (l, { Flt.sync d.code d.pc c.pc d.va with kind := 1, aux := d.count }, c.pc)
  | none => none

/-- Run the checks of the guard-true lanes in order: the state, whether some lane waits, and the faults. -/
def runChecks (own : State → Cur → Nat → State × Chk) (i : Instr) (c : Cur) :
    State → List Nat → State × Bool × List (Nat × Flt × Nat)
  | s, [] => (s, false, [])
  | s, l :: ls =>
    let (s, k) := match s.laneChecks c i l with
      | .pass => own s c l
      | k => (s, k)
    let (s, w, fs) := runChecks own i c s ls
    match k with
    | .pass => (s, w, fs)
    | .wait => (s, true, fs)
    | .record =>
      match s.deferredChk c l with
      | some f => (s, w, f :: fs)
      | none => (s, w, fs)
    | .fault code va br => (s, w, (l, { Flt.sync code c.pc c.npc va with broken := br }, c.pc) :: fs)

/-- The issue turn is over. -/
def endTurn (s : State) : State := { s with cur := .none }

/-- The lanes of an issue group whose part an earlier issue of the same instruction performed (R186, R499; 19 R481). -/
def doneMask (s : State) (c : Cur) : BitVec 32 :=
  match s.grp? c.blk c.grp with
  | some y => if y.pmaskPc = c.pc then y.pmask else 0
  | none => 0

/-- Take the faults of an issue group, the deferred records among them being cleared. -/
def takeDeferred (s : State) (c : Cur) (fs : List (Nat × Flt × Nat)) : State :=
  let s := fs.foldl (fun s (l, f, _) =>
    if f.kind = 1 then s.modThr c.blk c.grp l fun t => { t with deferred := none } else s) s
  s.takeFaults c.blk c.grp fs

/-- The transactional threads of an issue group whose instruction a transaction may not hold abort with cause 0x13, or
0x17 for XBEG (R202). -/
def abortBarred (s : State) (c : Cur) (i : Instr) (ls : List Nat) : State :=
  let cause : BitVec 8 := match i with
    | .xbeg _ _ => 0x17
    | _ => 0x13
  ls.foldl (fun s l => s.abortTxn c.blk c.grp l cause 0 0) s

/-- Whether a lane is in a transaction. -/
def inTxn (s : State) (c : Cur) (l : Nat) : Bool := ((s.thr? c.blk c.grp l).bind (·.txn)).isSome

/-- The guard-true lanes of an issue group (R48). -/
def guardTrue (s : State) (c : Cur) (g : Guard) : List Nat :=
  (lanesOf c.lanes).filter fun l => ((s.thr? c.blk c.grp l).map (·.guard g)).getD false

end State

namespace State

/-- The read of a basting load in one lane (R243): the value where it is valid. BST_WALKS counts every table walk that it
starts, BST_DROPPED every access that rules 4 to 6 drop (R248). -/
def basteRead (s : State) (w : Agent) (sp : Spc) (va n : Nat) (hnt : BitVec 2) : State × Option Nat :=
  let quad := ((s.grp? w.blk w.grp).map (·.quad)).getD 0
  let unit := 4 * w.core + quad
  let drop (s : State) : State × Option Nat := (s.bump 4 4 unit 1, none)
  if va % n ≠ 0 then drop s
  else if sp = .s then
    (s, (s.blk? w.blk).bind fun x => if x.scrOk va n then some (x.scratch.num va n) else none)
  else if 2 ^ 56 ≤ va || !s.leaseOk w.blk w.priv va n false then drop s
  else
    match queueView false (((s.grp? w.blk w.grp).map (·.storeQ)).getD []) s.nextId w.lane va n with
    | none => (s, none)
    | some view =>
      if view.all (·.isSome) then (s, some (viewNum view))
      else
        let walks := s.counter 14 2 (w.core / 4)
        let (s, r) := s.resolve w.core w.asid va { Want.load w.priv with baste := true }
        let s := s.bump 4 3 unit (s.counter 14 2 (w.core / 4) - walks)
        match r with
        | .fault _ _ | .drop => drop s
        | .cached sec wok mode =>
          let view := match find? sec (s.core w.core).pend with
            | some p => underView view (va % 64) p.mask p.data
            | none => view
          if view.all (·.isSome) then (s, some (viewNum view))
          else
            match s.l1? w.core sec with
            | some e =>
              if !e.st.stable then (s, none)
              else if e.val.psn then drop s
              else (s, some (viewNum (underView view (va % 64) (-1) e.val.bytes)))
            | none =>
              if 8192 < (s.poolHolders w.core).length + 256 || !(s.conflicts sec true none).isEmpty then drop s
              else
                let s := (s.l1Ask w.core sec w.asid va (some (w.blk, w.grp)) wok 0 hnt .gets .isd).bump 4 2 unit 1
                match s.l1? w.core sec with
                | some e => (s.setL1 w.core sec { e with baste := some quad, mode := mode }, none)
                | none => (s, none)
        | _ => (s, none)

/-- The space, width, hint, address and destination of a basting access. -/
def basteShape (i : Instr) (g : Group) (t : Thread) (l : Nat) : Option (Spc × Nat × BitVec 2 × Nat) :=
  match i with
  | .ld h w _ sp _ hnt _ a => some (sp, w.bytes, hnt, effAddr sp h.ext g t l a)
  | .ldv h w sp _ hnt _ a => some (sp, w.bytes, hnt, effAddr sp h.ext g t l a + l * w.bytes)
  | .pref h _ hnt a => some (.g, 1, hnt, effAddr .g h.ext g t l a)
  | _ => none

/-- A basting load or prefetch in its lanes: the lanes whose destination is invalid, with the values of the others. -/
def basteLoad (i : Instr) (c : Cur) (bad : List Nat) : State → List Nat → State × List (Nat × Nat)
  | s, [] => (s, [])
  | s, l :: ls =>
    let (s, v) := match s.grp? c.blk c.grp with
      | some y =>
        match y.threads[l]? with
        | some t =>
          match basteShape i y t l with
          | some (sp, n, hnt, va) =>
            if bad.contains l then (s, none) else s.basteRead (s.agent c.blk c.grp l) sp va n hnt
          | none => (s, none)
        | none => (s, none)
      | none => (s, none)
    let (s, rs) := basteLoad i c bad s ls
    (s, match v with
      | some x => (l, retExt i x) :: rs
      | none => rs)

/-- Faults that drop a basting access and do not end basting (R243 rule 4). -/
def basteDrops (code : BitVec 8) : Bool :=
  code == 0x08 || code == 0x10 || code == 0x11 || code == 0x12 || code == 0x18 || code == 0x1A || code == 0x1B || code == 0x1C

/-- An instruction that basting does not perform would raise a fault for which basting ends (R242). -/
def basteFaults (own : State → Cur → Nat → State × Chk) (s : State) (c : Cur) (ls : List Nat) : Bool :=
  ls.any fun l => match (own s c l).2 with
    | .fault code _ _ => !basteDrops code
    | _ => false

/-- A basting issue group moves on in its shadow PC: nothing of its accesses or retry counts changes (R245). -/
def basteMove (s : State) (c : Cur) : State :=
  let s := s.modGrp c.blk c.grp fun y => y.modLanes (lanesOf c.lanes) fun _ t => { t with pc := c.npc, ready := 0 }
  s.countIssue c

/-- The issue of an instruction by a basting group (R241 to R243). -/
def basteIssue (s : State) (c : Cur) (y : Group) (z : Baste) (i : Instr) (g : Guard)
    (own : State → Cur → Nat → State × Chk) (act : State → Cur → List Nat → State) : State :=
  let stop (s : State) : State := (s.bastingOver c.blk c.grp).endTurn
  let gt := s.guardTrue c g
  let guardBad (l : Nat) : Bool := z.predBad l && g.gtt != 0xFF && g.gtt != 0
  let k := basteClass i
  let lanes := lanesOf c.lanes
  let conv := y.converged c.lanes
  let hit := lanes.filter fun l => gt.contains l || guardBad l
  let preds := if pairU i then lanes else hit
  -- lanes whose destinations become invalid
  let bad := hit.filter fun l => guardBad l || z.badIn i l || (readLanes y i hit l).any (z.badIn i)
  let regs := ((s.blk? c.blk).map (·.fr.regs)).getD 0
  if k = .ends ∨ (k = .bra ∧ (lanes.any guardBad || gt.any (z.badIn i))) then stop s
  else if (List.range 32).any fun l => y.freeSlots z regs l < slotsNeeded y z i hit preds l then stop s
  else if gt.any fun l => match y.threads[l]? with
      | some t => !windowOk i.uses t
      | none => false
    then stop s
  else if (k = .skip || k = .invalid) && basteFaults own s c (gt.filter fun l => !bad.contains l) then stop s
  else
    let mark (s : State) (bad : List Nat) : State := s.modGrp c.blk c.grp fun y =>
      { y with bast := y.bast.map fun z => markSlots z i hit preds bad conv }
    match k with
    | .skip => (s.basteMove c).endTurn
    | .invalid => (mark (s.basteMove c) hit).endTurn
    | .load =>
      let (s, vals) := basteLoad i c bad (s.basteMove c) gt
      let s := match retDst i with
        | some (d, n) => s.modGrp c.blk c.grp fun y => y.writeDst d n vals
        | none => s
      (mark s (hit.filter fun l => !vals.any (·.1 == l))).endTurn
    | .pref => (basteLoad i c bad (s.basteMove c) gt).1.endTurn
    | _ =>
      let (s, w, fs) := runChecks own i c s (if writesS i.uses && !conv then [] else gt)
      if w then s
      else if !fs.isEmpty then stop s
      else (mark (act (s.basteMove c) c gt) bad).endTurn

end State

/-- Issue an instruction for the issue group of this turn (R107, R115, R129). own gives each guard-true lane's further
checks and act performs the instruction in the guard-true lanes, after every thread of the group has moved to the next
instruction. Where the group must wait, the turn is not used up. -/
def issue (i : Instr) (g : Guard) (s : State) (own : State → Cur → Nat → State × Chk)
    (act : State → Cur → List Nat → State) : Ans :=
  match s.cur with
  | .simt c =>
    match s.grp? c.blk c.grp with
    | none => .next s.endTurn
    | some y =>
      match y.bast with
      | some z => .next (s.basteIssue c y z i g own act)
      | none =>
        if !s.ready c i then .next s
        else
          let gt := s.guardTrue c g
          let barred := gt.filter fun l => s.inTxn c l && !txnAllowed i
          let s := s.abortBarred c i barred
          let gt := gt.filter fun l => !barred.contains l
          let c' := { c with lanes := c.lanes &&& ~~~(maskLanes barred) }
          -- a collective whose every guard-true thread aborts is not performed (06 R202; 11 R328)
          if isColl i && !barred.isEmpty && gt.isEmpty then .next (s.countIssue c).endTurn else
          let recs := if takesDeferred i then gt.filterMap fun l => s.deferredChk c l else []
          if !recs.isEmpty then .next (((s.countIssue c).unmark c).takeDeferred c recs).endTurn
          else
            let (s, w, fs) := State.runChecks own i c s gt
            if w then .next s
            else if !fs.isEmpty then
              .next (((s.countIssue c).unmark c).takeDeferred c (fs.map fun (l, f, e) => (l, { f with lmask := s.doneMask c }, e))).endTurn
            else .next (act ((s.passOn c').countIssue c) c' gt).endTurn
  | _ => .next s

/-! ### Shapes of meanings -/

/-- No check beyond those of every instruction. -/
def noOwn (s : State) (_ : Cur) (_ : Nat) : State × Chk := (s, .pass)

/-- The results of a function of each listed lane. -/
def laneVals (y : Group) (gt : List Nat) (f : Group → Thread → Nat → Nat) : List (Nat × Nat) :=
  gt.filterMap fun l => (y.threads[l]?).map fun t => (l, f y t l)

/-- An instruction that writes one destination of n registers with a value of each guard-true lane. -/
def dataForm (i : Instr) (g : Guard) (d : Opnd) (n : Nat) (s : State) (f : Group → Thread → Nat → Nat) : Ans :=
  issue i g s noOwn fun s c gt => s.modGrp c.blk c.grp fun y => y.writeDst d n (laneVals y gt f)

/-- An instruction that changes each guard-true thread by itself. -/
def threadForm (i : Instr) (g : Guard) (s : State) (f : Group → Nat → Thread → Thread) : Ans :=
  issue i g s noOwn fun s c gt => s.modGrp c.blk c.grp fun y => y.modLanes gt (f y)

/-- Every non-exited thread of the group is in the issue group (R116). -/
def wholeChk (s : State) (c : Cur) (_ : Nat) : State × Chk :=
  (s, if ((s.grp? c.blk c.grp).map fun y => y.converged c.lanes).getD true then .pass else .fault 0x06 0 false)

/-- A change of a group by its lowest guard-true lane. -/
def byLowest (gt : List Nat) (f : Group → Thread → Nat → Group) (y : Group) : Group :=
  match gt.head? with
  | some l =>
    match y.threads[l]? with
    | some t => f y t l
    | none => y
  | none => y

/-- An instruction that changes its group as a whole, by the lowest guard-true lane, and needs every non-exited thread
(R116, R237). -/
def groupForm (i : Instr) (g : Guard) (s : State) (f : Group → Thread → Nat → Group) : Ans :=
  issue i g s wholeChk fun s c gt => s.modGrp c.blk c.grp (byLowest gt f)

end Sys2Proof.Machine
end

