-- ==== Sys2Proof/Machine/Control.lean ====
section
/-! DEFINITION. Control transfer, predicates, moves, lane exchanges, votes and reductions, BASTE (04 R119 to R144;
08 R237). -/

namespace Sys2Proof.Machine

/-! ### Register windows (R123 to R125) -/

/-- The register allotment of a thread of a block. -/
def State.allot (s : State) (b : Nat) : Nat := ((s.blk? b).map (·.fr.regs)).getD 0

/-- Registers that the on-chip frames retain. -/
def Thread.retained (t : Thread) : Nat := (t.links.map (·.k)).sum

/-- A window of n with the retained registers passes the allotment. -/
def Thread.over (t : Thread) (a n : Nat) : Bool := a < t.retained + n

/-- Whether an instruction of a thread waits for the oldest on-chip frame to be spilled (R125). -/
def spillNeed (a : Nat) (t : Thread) : Instr → Bool
  | .alloc _ n _ => !t.links.isEmpty && t.over a n.toNat
  | .call _ _ | .callx _ _ _ => 8 ≤ t.links.length
  | .ret _ =>
    match t.links.getLast? with
    | some f => 1 < t.links.length && a < t.retained - f.k + 8 * (f.ncode + 1)
    | none => false
  | _ => false

/-- Whether a RET waits for its frame to be filled back. -/
def fillNeed (t : Thread) : Instr → Bool
  | .ret _ => t.depth != 0 && t.links.isEmpty
  | _ => false

/-- The wait for the spill engine. -/
def State.spillChk (s : State) (c : Cur) (l : Nat) (i : Instr) : Chk :=
  match s.thr? c.blk c.grp l with
  | some t => if spillNeed (s.allot c.blk) t i || fillNeed t i then .wait else .pass
  | none => .pass

/-- The window that a RET restores (R134): what the frame retained, the callee's registers, zeros. -/
def retWindow (f : Frame) (v : List Word) : List Word :=
  let n := 8 * (f.ncode + 1)
  let w := f.saved ++ v
  w.take n ++ List.replicate (n - w.length) 0

/-- The window that an ALLOC sets (R135). -/
def allocWindow (n : Nat) (v : List Word) : List Word := v.take n ++ List.replicate (n - v.length) 0

/-- The frame that a call pushes (R133). -/
def callFrame (t : Thread) (k retpc : Nat) : Frame :=
  ⟨retpc, k, max ((t.v.length + 7) / 8) 1 - 1, t.live, t.v.take k⟩

/-! ### Transfers (R131 to R136) -/

/-- The target of a direct form: the address of its first byte and a signed word offset. -/
def relTarget (pc : Nat) (x : Ext) : Nat := wrapInt 64 ((pc : Int) + 4 * Ext.offset x)

/-- The check of a transfer of one lane to an address. -/
def State.jumpChk (s : State) (c : Cur) (l addr : Nat) : State × Chk :=
  let w := s.agent c.blk c.grp l
  let (s, k, _) := s.target c.blk w.core w.priv addr
  (s, k)

/-- Every frame of a thread back where it was before the spill engine worked for the instruction at its PC (R126 rule 4). -/
def Thread.framesBack (t : Thread) : Thread :=
  match t.before with
  | some (pc, links, spill) => if pc = t.pc then { t with links := links, spill := spill, before := none } else t
  | none => t

/-- A transfer that faults leaves every frame where it was before it (20 R498 rule 1). -/
def State.jumpBack (s : State) (c : Cur) (l addr : Nat) : State × Chk :=
  match s.jumpChk c l addr with
  | (s, .fault code va br) => (s.modThr c.blk c.grp l Thread.framesBack, .fault code va br)
  | r => r

/-- The value of a pair in one lane. -/
def State.pairOf (s : State) (c : Cur) (l : Nat) (a : Opnd) : Nat :=
  match s.grp? c.blk c.grp with
  | some y =>
    match y.threads[l]? with
    | some t => src64 .l64 y t l a
    | none => 0
  | none => 0

def execNop (h : Hd) (s : State) : Ans :=
  issue (.nop h) ⟨0xFF, 0, 0, 0⟩ s noOwn fun s _ _ => s

def execBra (h : Hd) (s : State) : Ans :=
  issue (.bra h) h.g s (fun s c l => s.jumpChk c l (relTarget c.pc h.ext)) fun s c gt =>
    s.modGrp c.blk c.grp fun y => y.modLanes gt fun _ t => { t with pc := State.skipHeader (relTarget c.pc h.ext) }

def execBrx (g : Guard) (a : Opnd) (s : State) : Ans :=
  issue (.brx g a) g s (fun s c l => s.jumpChk c l (s.pairOf c l a)) fun s c gt =>
    s.modGrp c.blk c.grp fun y => y.modLanes gt fun l t => { t with pc := State.skipHeader (src64 .l64 y t l a) }

/-- The checks of a call: the slide, the target, then the spill engine (R129, R133). -/
def State.callChk (s : State) (c : Cur) (l : Nat) (i : Instr) (k addr : Nat) : State × Chk :=
  if ((s.thr? c.blk c.grp l).map (·.v.length)).getD 0 < k then (s, .fault 0x02 0 false)
  else
    match s.jumpBack c l addr with
    | (s, .pass) => (s, s.spillChk c l i)
    | r => r

/-- The effect of a call in one thread (R133). -/
def Thread.call (t : Thread) (k retpc pc : Nat) : Thread :=
  { t with links := t.links ++ [callFrame t k retpc], v := t.v.drop k, depth := (t.depth + 1) % 2 ^ 32, pc := pc,
           before := none }

def execCall (h : Hd) (k : BitVec 7) (s : State) : Ans :=
  issue (.call h k) h.g s (fun s c l => s.callChk c l (.call h k) k.toNat (relTarget c.pc h.ext)) fun s c gt =>
    s.modGrp c.blk c.grp fun y => y.modLanes gt fun _ t =>
      t.call k.toNat c.npc (State.skipHeader (relTarget c.pc h.ext))

def execCallx (g : Guard) (k : BitVec 7) (a : Opnd) (s : State) : Ans :=
  issue (.callx g k a) g s (fun s c l => s.callChk c l (.callx g k a) k.toNat (s.pairOf c l a)) fun s c gt =>
    s.modGrp c.blk c.grp fun y => y.modLanes gt fun l t =>
      t.call k.toNat c.npc (State.skipHeader (src64 .l64 y t l a))

/-- A thread waits at EXIT for the collectives and bulk fabric transfers of its batches (11 R317). -/
def State.batchBusy (s : State) (b g l : Nat) : Bool :=
  ((s.blk? b).map fun x => x.liveColls.any fun c => c.batches.any fun (g', l', _) => g' == g && l' == l).getD false
    || s.fab.bulks.any fun k => k.blk == b && k.grp == g && k.lane == l

/-- The threads of some lanes execute EXIT (R119, R136). -/
def State.exitLanes (s : State) (c : Cur) (ls : List Nat) : State :=
  if ls = [] then s
  else ((s.progress c.blk).modGrp c.blk c.grp fun y => y.modLanes ls fun _ t => t.finish).groupExit c.blk c.grp false

def execExit (g : Guard) (s : State) : Ans :=
  issue (.exit g) g s (fun s c l => (s, if s.batchBusy c.blk c.grp l then .wait else .record)) fun s c gt =>
    s.exitLanes c gt

/-- The effect of RET in one thread whose call depth is above 0 (R134). A frame filled from memory is taken with the K and
the NCODE that stand there (R125); where memory has been altered so that window and retained registers exceed A, which R123
does not foresee, they do, and nothing stops (DESIGN CHOICE, assumption log 61). -/
def Thread.ret (t : Thread) : Thread :=
  match t.links.getLast? with
  | some f => { t with
      v := retWindow f t.v, live := f.livep, links := t.links.dropLast, depth := t.depth - 1, pc := State.skipHeader f.retpc,
      before := none }
  | none => t

/-- The checks of RET: an EXIT at depth 0 with the record and the waits of one, the frame's place, its RETPC (R134). -/
def State.retChk (s : State) (c : Cur) (l : Nat) (g : Guard) : State × Chk :=
  match s.thr? c.blk c.grp l with
  | none => (s, .pass)
  | some t =>
    if t.depth = 0 then
      (s, if s.queued c.blk c.grp l || s.batchBusy c.blk c.grp l || s.inFlight c.blk c.grp l != 0 then .wait else .record)
    else if fillNeed t (.ret g) then (s, .wait)
    else
      match t.links.getLast? with
      | some f =>
        match s.jumpBack c l f.retpc with
        | (s, .pass) => (s, s.spillChk c l (.ret g))
        | r => r
      | none => (s, .wait)

def execRet (g : Guard) (s : State) : Ans :=
  issue (.ret g) g s (fun s c l => s.retChk c l g) fun s c gt =>
    let out := gt.filter fun l => ((s.thr? c.blk c.grp l).map (·.depth)).getD 0 = 0
    (s.modGrp c.blk c.grp fun y => y.modLanes gt fun _ t => t.ret).exitLanes c out

def execAlloc (g : Guard) (n : BitVec 8) (l : BitVec 8) (s : State) : Ans :=
  issue (.alloc g n l) g s
    (fun s c j => if s.allot c.blk < n.toNat then (s, .fault 0x0A 0 false)
      else (s, s.spillChk c j (.alloc g n l)))
    fun s c gt => s.modGrp c.blk c.grp fun y => y.modLanes gt fun _ t =>
      { t with v := allocWindow n.toNat t.v, live := l.toNat, before := none }

/-- Each guard-true thread raises a fault that the instruction itself asks for; the others stay at its PC (R115 rule 6,
R129, R137). epc is what TRP_EPC takes. -/
def State.raiseAll (s : State) (c : Cur) (gt : List Nat) (code : BitVec 8) (aux epc : Nat) : State :=
  let s := s.modGrp c.blk c.grp fun y => y.modLanes (lanesOf c.lanes) fun _ t => { t with pc := c.pc }
  s.takeFaults c.blk c.grp (gt.map fun l => (l, { Flt.sync code c.pc c.npc 0 with aux := aux }, epc))

def execBrk (h : Hd) (code : BitVec 8) (s : State) : Ans :=
  issue (.brk h code) h.g s noOwn fun s c gt =>
    if gt = [] then s else s.raiseAll c gt 0x31 code.toNat c.npc

/-! ### Predicates (R138, R139) -/

def execPlop (h : Hd) (d a b c : BitVec 3) (table : BitVec 8) (s : State) : Ans :=
  threadForm (.plop h d a b c table) h.g s fun _ _ t => t.setPred d (table3 table (t.pred a) (t.pred b) (t.pred c))

def execPmov (h : Hd) (d a : BitVec 3) (s : State) : Ans :=
  threadForm (.pmov h d a) h.g s fun _ _ t => t.setPred d (t.pred a)

def execPmovNot (h : Hd) (d a : BitVec 3) (s : State) : Ans :=
  threadForm (.pmovNot h d a) h.g s fun _ _ t => t.setPred d !(t.pred a)

/-! ### Moves (R140) -/

/-- The integer kind of a 32- or 64-bit form. -/
def wKind (w64 : Bool) : Kind := .int (if w64 then 64 else 32)

def execSel (h : Hd) (w64 : Bool) (d a b : Opnd) (sel : BitVec 3) (s : State) : Ans :=
  dataForm (.sel h w64 d a b sel) h.g d (if w64 then 2 else 1) s fun y t l =>
    srcVal (wKind w64) h.ext y t l (if t.pred sel then a else b)

def execMov (h : Hd) (w : Wid) (d a : Opnd) (s : State) : Ans :=
  dataForm (.mov h w d a) h.g d w.regs s fun y t l => srcVal (.int (32 * w.regs)) h.ext y t l a

def execMovi (h : Hd) (w64 : Bool) (d : Opnd) (s : State) : Ans :=
  dataForm (.movi h w64 d) h.g d (if w64 then 2 else 1) s fun _ _ _ => immVal (wKind w64) h.ext

/-! ### Lane exchanges (R120, R141, R142) -/

def execShfl (h : Hd) (m : ShflMode) (seg : BitVec 3) (d a b : Opnd) (s : State) : Ans :=
  dataForm (.shfl h m seg d a b) h.g d 1 s fun y t l =>
    exchVal h.ext y (shflLane m (32 / 2 ^ seg.toNat) l (src32 h.ext y t l b)) a

def execQswap (h : Hd) (m : BitVec 2) (d a : Opnd) (s : State) : Ans :=
  dataForm (.qswap h m d a) h.g d 1 s fun y _ l => exchVal h.ext y (Nat.xor l (m.toNat + 1)) a

def execQbcast (h : Hd) (q : BitVec 2) (d a : Opnd) (s : State) : Ans :=
  dataForm (.qbcast h q d a) h.g d 1 s fun y _ l => exchVal h.ext y (l / 4 * 4 + q.toNat) a

/-! ### Votes and reductions (R143, R144) -/

/-- A predicate of each guard-true lane. -/
def votes (y : Group) (gt : List Nat) (a : BitVec 3) : List Bool :=
  gt.map fun l => ((y.threads[l]?).map (·.pred a)).getD false

/-- A vote that writes one predicate of every guard-true thread. -/
def voteForm (i : Instr) (g : Guard) (d a : BitVec 3) (s : State) (f : List Bool → Bool) : Ans :=
  issue i g s noOwn fun s c gt => s.modGrp c.blk c.grp fun y =>
    y.modLanes gt fun _ t => t.setPred d (f (votes y gt a))

def execVoteAll (h : Hd) (d a : BitVec 3) (s : State) : Ans :=
  voteForm (.voteAll h d a) h.g d a s fun l => l.all id

def execVoteAny (h : Hd) (d a : BitVec 3) (s : State) : Ans :=
  voteForm (.voteAny h d a) h.g d a s fun l => l.any id

def execVoteUni (h : Hd) (d a : BitVec 3) (s : State) : Ans :=
  voteForm (.voteUni h d a) h.g d a s fun l => l.all id || !l.any id

def execVoteBallot (h : Hd) (d : Opnd) (a : BitVec 3) (s : State) : Ans :=
  issue (.voteBallot h d a) h.g s noOwn fun s c gt => s.modGrp c.blk c.grp fun y =>
    let mask := maskLanes (gt.filter fun l => ((y.threads[l]?).map (·.pred a)).getD false)
    y.writeDst d 1 (gt.map fun l => (l, mask.toNat))

/-- One step of a reduction (R144). -/
def reduxStep (op : ReduxOp) (sgn : Bool) (a b : Nat) : Nat :=
  match op with
  | .add => (a + b) % 2 ^ 32
  | .min => if intOf 32 sgn b < intOf 32 sgn a then b else a
  | .max => if intOf 32 sgn a < intOf 32 sgn b then b else a
  | .and => Nat.land a b
  | .or => Nat.lor a b
  | .xor => Nat.xor a b

/-- The reduction of a list of values. -/
def reduxAll (op : ReduxOp) (sgn : Bool) : List Nat → Nat
  | [] => 0
  | a :: l => l.foldl (reduxStep op sgn) a

def execRedux (h : Hd) (op : ReduxOp) (sgn : Bool) (d a : Opnd) (s : State) : Ans :=
  issue (.redux h op sgn d a) h.g s noOwn fun s c gt => s.modGrp c.blk c.grp fun y =>
    let r := reduxAll op sgn ((laneVals y gt fun y t l => src32 h.ext y t l a).map (·.2))
    y.writeDst d 1 (gt.map fun l => (l, r))

/-! ### Basting control (08 R237) -/

def execBasteOff (h : Hd) (s : State) : Ans :=
  groupForm (.basteOff h) h.g s fun y _ _ => { y with bastOn := false }

def execBasteOn (h : Hd) (a : Opnd) (s : State) : Ans :=
  groupForm (.basteOn h a) h.g s fun y t l =>
    { y with bastOn := true, bastTh := min (max (src32 h.ext y t l a) 16) 65535 }

end Sys2Proof.Machine
end

