-- ==== Sys2Proof/Machine/Memory.lean ====
section
/-! DEFINITION. The load/store, publish and cache-maintenance forms (06 R185 to R207; 09 R267 to R275; 10 R293 to
R298). -/

namespace Sys2Proof.Machine

/-! ### Checks of a lane at issue (R185) -/

/-- The address of a memory form in one lane. -/
def memAddr (sp : Spc) (x : Ext) (a : Opnd) (g : Group) (t : Thread) (l : Nat) : Nat := effAddr sp x g t l a

namespace State

/-- A lane whose .S range check fails becomes a helper lane, and its bit of LANEFAULT is set (R189). -/
def laneOff (s : State) (c : Cur) (l : Nat) : State :=
  s.modGrp c.blk c.grp fun y => { (y.modLanes [l] fun _ t => { t.finish with off := true }) with
    lanefault := y.lanefault ||| (1#32 <<< l) }

/-- The checks of a lane that come before its access is performed: alignment to al, the range of a .S access, and, for
a returning .G access, the address and the lease (R185). -/
def memChk (s : State) (c : Cur) (l : Nat) (sp : Spc) (va n al : Nat) (ret write : Bool) : State × Chk :=
  if al ≠ 0 ∧ va % al ≠ 0 then (s, .fault 0x08 va false)
  else
    match sp with
    | .s => (if ((s.blk? c.blk).map fun x => x.scrOk va n).getD true then s else s.laneOff c l, .pass)
    | .w => (s, .pass)
    | .g =>
      if !ret then (s, .pass)
      else if 2 ^ 56 ≤ va then (s, .fault 0x10 va false)
      else if !s.leaseOk c.blk (s.agent c.blk c.grp l).priv va n write then (s, .fault 0x12 va false)
      else (s, .pass)

/-- memChk at the address a lane computes. -/
def addrChk (s : State) (c : Cur) (l : Nat) (sp : Spc) (f : Group → Thread → Nat → Nat) (n al : Nat)
    (ret write : Bool) : State × Chk :=
  match s.grp? c.blk c.grp with
  | none => (s, .pass)
  | some y =>
    match y.threads[l]? with
    | none => (s, .pass)
    | some t => s.memChk c l sp (f y t l) n al ret write

/-- The guard-true lanes that are still on. -/
def onLanes (s : State) (c : Cur) (gt : List Nat) : List Nat :=
  gt.filter fun l => !((s.thr? c.blk c.grp l).map (·.exited)).getD true

/-- A group all of whose lanes have been switched off ends. -/
def offEnd (s : State) (c : Cur) : State := s.groupExit c.blk c.grp false

/-! ### Entering accesses -/

/-- Create a returning access for the lanes that perform it and try it (R180, R186, R549). -/
def enterAcc (s : State) (c : Cur) (i : Instr) (kind : AccKind) (ls : List AccLane) : State :=
  if ls = [] then s
  else
    let id := s.nextId
    let a : Acc := ⟨id, id, c.blk, c.grp, c.pc, c.npc, i, kind, s.now, c.lanes, 0, [], ls⟩
    ({ s with nextId := id + 1, accs := s.accs ++ [a] }).pursue id

/-- Enter a store-class instruction in the group's queue (R179). -/
def enterStore (s : State) (c : Cur) (shared rel : Bool) (hnt : BitVec 2) (ls : List StLane) : State :=
  if ls = [] then s
  else
    let e : StEntry := ⟨s.nextId, c.pc, shared, rel, false, none, [], hnt, [], ls⟩
    ({ s with nextId := s.nextId + 1 }).modGrp c.blk c.grp fun y => { y with storeQ := y.storeQ ++ [e] }

/-- A value of each lane that is on, computed from its thread. -/
def laneMap {α : Type} (s : State) (c : Cur) (gt : List Nat) (f : Group → Thread → Nat → α) : List α :=
  match s.grp? c.blk c.grp with
  | none => []
  | some y => gt.filterMap fun l => (y.threads[l]?).map fun t => f y t l

end State

/-- A load or acquire of n bytes. -/
def loadForm (i : Instr) (g : Guard) (s : State) (kind : AccKind) (sp : Spc) (f : Group → Thread → Nat → Nat)
    (n : Nat) : Ans :=
  issue i g s (fun s c l => s.addrChk c l sp f n (if sp = .w then 0 else n) true false) fun s c gt =>
    (s.enterAcc c i kind (s.laneMap c (s.onLanes c gt) fun y t l => ⟨l, f y t l, 0, 0, .todo, t.priv⟩)).offEnd c

/-- A store of n bytes whose value and effect each lane gives, without return (R179, R187). -/
def storeForm (i : Instr) (g : Guard) (s : State) (sp : Spc) (f : Group → Thread → Nat → Nat) (n : Nat) (rel : Bool)
    (hnt : BitVec 2) (k : Group → Thread → Nat → StKind) : Ans :=
  issue i g s (fun s c l => s.addrChk c l sp f n n false true) fun s c gt =>
    (s.enterStore c (sp == .s) rel hnt (s.laneMap c (s.onLanes c gt) fun y t l =>
      ⟨l, f y t l, k y t l, false, none, t.priv⟩)).offEnd c

/-- An atomic with return of n bytes. Lanes that an earlier issue of it performed take their old values (20 R499
rule 3). -/
def atomForm (i : Instr) (g : Guard) (s : State) (sp : Spc) (ord : Ord) (f : Group → Thread → Nat → Nat) (n : Nat)
    (k : Group → Thread → Nat → StKind) (bc : Group → Thread → Nat → QWord × QWord) : Ans :=
  issue i g s (fun s c l => s.addrChk c l sp f n n true true) fun s c gt =>
    let on := s.onLanes c gt
    let kept : BitVec 32 := match s.grp? c.blk c.grp with
      | some y => if y.pmask ≠ 0 ∧ y.pmaskPc = c.pc then y.pmask else 0
      | none => 0
    let olds := ((s.grp? c.blk c.grp).map (·.olds)).getD []
    let lanes := s.laneMap c on fun y t l => (⟨l, f y t l, (bc y t l).1, (bc y t l).2,
      if kept.getLsbD l then (if State.acqAtom i then LaneSt.reacq (olds.getD l 0) else .bound (olds.getD l 0)) else .todo,
      t.priv⟩ : AccLane)
    let stl := s.laneMap c (on.filter fun l => !kept.getLsbD l) fun y t l =>
      (⟨l, f y t l, k y t l, false, none, t.priv⟩ : StLane)
    let id := s.nextId
    let s := s.modGrp c.blk c.grp fun y => { y with
      pmask := if kept = 0 then y.pmask else 0
      storeQ := if stl = [] then y.storeQ else y.storeQ ++
        [⟨id, c.pc, sp == .s, ord == .rel || ord == .ar, ord == .acq || ord == .ar, some id, [], 0, [], stl⟩] }
    (s.enterAcc c i .atomic lanes).offEnd c

/-! ### Loads and stores (R193, R194) -/

def execLd (h : Hd) (w : Wid) (sx : Bool) (spc : Spc) (nb : Bool) (hnt : BitVec 2) (d a : Opnd) (s : State) : Ans :=
  loadForm (.ld h w sx spc nb hnt d a) h.g s .load spc (memAddr spc h.ext a) w.bytes

def execLdv (h : Hd) (w : Wid) (spc : Spc) (nb : Bool) (hnt : BitVec 2) (d a : Opnd) (s : State) : Ans :=
  loadForm (.ldv h w spc nb hnt d a) h.g s .load spc
    (fun y t l => (memAddr spc h.ext a y t l + l * w.bytes) % (if spc = .g then 2 ^ 64 else 2 ^ 32)) w.bytes

def execLdw (h : Hd) (w : Wid) (sx : Bool) (nb : Bool) (d a : Opnd) (s : State) : Ans :=
  loadForm (.ldw h w sx nb d a) h.g s .ldw .w (memAddr .w h.ext a) w.bytes

/-- The data of a store: the low bits of its source. -/
def stData (x : Ext) (w : Wid) (b : Opnd) (y : Group) (t : Thread) (l : Nat) : StKind :=
  .store w.bytes (BitVec.ofNat 128 (srcVal (.int (32 * w.regs)) x y t l b % 2 ^ (8 * w.bytes)))

def execSt (h : Hd) (w : Wid) (spc : Spc) (hnt : BitVec 2) (a b : Opnd) (s : State) : Ans :=
  storeForm (.st h w spc hnt a b) h.g s spc (memAddr spc h.ext a) w.bytes false hnt (stData h.ext w b)

/-! ### Atomics (R195 to R199) -/

/-- The operands of an atomic of a type. -/
def atomKind (op : Aop) (ty : Aty) (b c : Opnd) (y : Group) (t : Thread) (l : Nat) : StKind :=
  .atom op ty (BitVec.ofNat 64 (srcVal (.int (32 * ty.regs)) .l64 y t l b))
    (BitVec.ofNat 64 (srcVal (.int (32 * ty.regs)) .l64 y t l c))

def execAtom (h : Hd) (op : Aop) (ty : Aty) (ord : Ord) (scp : Scp) (spc : Spc) (d a b c : Opnd) (s : State) : Ans :=
  atomForm (.atom h op ty ord scp spc d a b c) h.g s spc ord (memAddr spc h.ext a) (4 * ty.regs) (atomKind op ty b c)
    fun y t l => (BitVec.ofNat 128 (srcVal (.int (32 * ty.regs)) .l64 y t l b),
      BitVec.ofNat 128 (srcVal (.int (32 * ty.regs)) .l64 y t l c))

def execAtomf (h : Hd) (op : FOp3) (bf16 : Bool) (ord : Ord) (scp : Scp) (spc : Spc) (d a b : Opnd) (s : State) : Ans :=
  let v (y : Group) (t : Thread) (l : Nat) : Nat := srcVal (if bf16 then .pflt .bf16 else .flt .fp32) .l64 y t l b
  atomForm (.atomf h op bf16 ord scp spc d a b) h.g s spc ord (memAddr spc h.ext a) 4
    (fun y t l => .atomf op bf16 (BitVec.ofNat 32 (v y t l))) fun y t l => (BitVec.ofNat 128 (v y t l), 0)

def execCas (h : Hd) (w64 : Bool) (ord : Ord) (scp : Scp) (spc : Spc) (d a b c : Opnd) (s : State) : Ans :=
  let n := if w64 then 8 else 4
  let v (o : Opnd) (y : Group) (t : Thread) (l : Nat) : QWord := BitVec.ofNat 128 (srcVal (wKind w64) .l64 y t l o)
  atomForm (.cas h w64 ord scp spc d a b c) h.g s spc ord (memAddr spc h.ext a) n
    (fun y t l => .cas n (v b y t l) (v c y t l)) fun y t l => (v b y t l, v c y t l)

def execCas128 (h : Hd) (ord : Ord) (scp : Scp) (spc : Spc) (d a b c : Opnd) (s : State) : Ans :=
  let v (o : Opnd) (y : Group) (t : Thread) (l : Nat) : QWord := BitVec.ofNat 128 (srcVal (.int 128) .l64 y t l o)
  atomForm (.cas128 h ord scp spc d a b c) h.g s spc ord (memAddr spc h.ext a) 16
    (fun y t l => .cas 16 (v b y t l) (v c y t l)) fun y t l => (v b y t l, v c y t l)

def execRed (h : Hd) (op : Aop) (ty : Aty) (ord : Ord) (scp : Scp) (spc : Spc) (a b c : Opnd) (s : State) : Ans :=
  storeForm (.red h op ty ord scp spc a b c) h.g s spc (memAddr spc h.ext a) (4 * ty.regs) (ord == .rel) 0
    (atomKind op ty b c)

/-! ### Prefetch (R200) -/

/-- A prefetch of one lane: a sector asked for by the L1, or by the LLC alone; dropped where it would fault. -/
def State.prefetch (s : State) (w : Agent) (va : Nat) (llc : Bool) (hnt : BitVec 2) : State :=
  if 2 ^ 56 ≤ va ∨ !s.leaseOk w.blk w.priv va 1 false then s
  else
    match s.resolve w.core w.asid va (.load w.priv) with
    | (s, .cached sec wok mode) =>
      if llc then
        let e := s.dirE sec
        if e.lv || e.fifo.contains (.pref hnt) || e.req == some (.pref hnt) then s
        else s.setDir sec { e with fifo := e.fifo ++ [.pref hnt] }
      else if (s.l1? w.core sec).isSome || (find? sec (s.core w.core).pend).isSome then s
      else s.l1Ask w.core sec w.asid va (some (w.blk, w.grp)) wok mode hnt .gets .isd
    | (s, _) => s

/-- A prefetch into the L1 waits for an entry of the pending-store buffer (R180). -/
def State.prefChk (s : State) (c : Cur) (l : Nat) (llc : Bool) : State × Chk :=
  let r := s.poolFree (s.agent c.blk c.grp l).core (c.blk, c.grp)
  (s, if llc || r.1 || r.2 then .pass else .wait)

def execPref (h : Hd) (llc : Bool) (hnt : BitVec 2) (a : Opnd) (s : State) : Ans :=
  issue (.pref h llc hnt a) h.g s (fun s c l => s.prefChk c l llc) fun s c gt =>
    (s.laneMap c gt fun y t l => (l, memAddr .g h.ext a y t l)).foldl (fun s (l, va) =>
      s.prefetch (s.agent c.blk c.grp l) va llc hnt) s

/-! ### Bounded transactions (R201, R207) -/

/-- Threads of a core in transactions. -/
def State.txnCount (s : State) (core : Nat) : Nat :=
  (s.blocks.flatMap fun (_, x) => x.groups.flatMap fun y =>
    if y.core = core then y.threads.filter (·.txn.isSome) else []).length

/-- XBEG in one thread: a transaction starts, or aborts at once beyond the limit of 64. -/
def State.txnStart (s : State) (c : Cur) (d : BitVec 7) (handler l : Nat) : State :=
  let core := (s.agent c.blk c.grp l).core
  let n := s.txnCount core
  let s := s.modThr c.blk c.grp l fun t => { t with
    v := Machine.setV t.v d.toNat 0, txn := some ⟨d, State.skipHeader handler, [], [], s.now⟩ }
  if 64 ≤ n then s.abortTxn c.blk c.grp l 0x11 0 0 else s

def execXbeg (h : Hd) (d : BitVec 7) (s : State) : Ans :=
  issue (.xbeg h d) h.g s (fun s c l => s.jumpChk c l (relTarget c.pc h.ext)) fun s c gt =>
    gt.foldl (fun s l => s.txnStart c d (relTarget c.pc h.ext) l) s

/-- The commit of one thread's transaction: its speculative sectors become M data. -/
def State.txnCommit (s : State) (c : Cur) (l : Nat) (x : Txn) : State :=
  let w := s.agent c.blk c.grp l
  let s := x.writes.foldl (fun s (sec, v) =>
    match s.l1? w.core sec with
    | some e =>
      if e.st = .m ∨ e.st = .e then s.setL1 w.core sec { e with st := .m, val := { e.val with bytes := v.bytes } }
      else s.cohWrite sec (-1) v.bytes
    | none => s.cohWrite sec (-1) v.bytes) s
  let s := if x.writes = [] then s else s.progress c.blk
  (s.modThr c.blk c.grp l fun t => { t with txn := none }).bump 2 2 w.core 1

def execXend (h : Hd) (d : BitVec 7) (s : State) : Ans :=
  issue (.xend h d) h.g s noOwn fun s c gt =>
    gt.foldl (fun s l =>
      match s.thr? c.blk c.grp l with
      | none => s
      | some t =>
        let put (s : State) (x : Word) : State := s.modThr c.blk c.grp l fun t => { t with v := setV t.v d.toNat x }
        match t.txn with
        | some x => put (s.txnCommit c l x) 1
        | none => put s 2) s

def execXabt (h : Hd) (code : BitVec 8) (s : State) : Ans :=
  issue (.xabt h code) h.g s noOwn fun s c gt =>
    gt.foldl (fun s l => s.abortTxn c.blk c.grp l 0x12 code 0) s

/-! ### Acquire, release, fences (09 R267, R273, R274) -/

def execLda (h : Hd) (w : Wid) (sx : Bool) (spc : Spc) (scp : Scp) (hnt : BitVec 2) (d a : Opnd) (s : State) : Ans :=
  loadForm (.lda h w sx spc scp hnt d a) h.g s .acquire spc (memAddr spc h.ext a) w.bytes

def execStrel (h : Hd) (w : Wid) (spc : Spc) (scp : Scp) (hnt : BitVec 2) (a b : Opnd) (s : State) : Ans :=
  storeForm (.strel h w spc scp hnt a b) h.g s spc (memAddr spc h.ext a) w.bytes true hnt (stData h.ext w b)

/-- Scopes under which a fence is wide. -/
def Scp_wide : Scp → Bool
  | .grp | .blk => false
  | _ => true

namespace State

/-- Every earlier load of the thread has been performed. -/
def loadsChk (s : State) (c : Cur) (l : Nat) : Chk := if s.inFlight c.blk c.grp l = 0 then .pass else .wait

/-- The acquire part of a wide fence: the publish of every met-tag slot (R267, R268). -/
def fenceAcq (s : State) (c : Cur) (l : Nat) : State × Chk :=
  match s.thr? c.blk c.grp l with
  | none => (s, .pass)
  | some t =>
    match t.metFault with
    | some code => (s.modThr c.blk c.grp l fun t => { t with metFault := none }, .fault code 0 false)
    | none =>
      let core := (s.agent c.blk c.grp l).core
      let (s, fail) := (t.met.filter fun m => s.tagLive core m).foldl (fun (s, fail) m =>
        let (s, f) := s.pubObtain core m
        (s, fail <|> f)) (s, (none : Option (BitVec 8)))
      match fail with
      | some code => (s, .fault code 0 false)
      | none => (s, if t.met.any fun m => s.tagLive core m then .wait else .pass)

/-- The release part of a wide fence: the batches the thread sealed, and publish_all() of its core (R267, R270). -/
def fenceRel (s : State) (c : Cur) (l : Nat) : State × Chk :=
  let w := s.agent c.blk c.grp l
  if ((s.thr? c.blk c.grp l).map (·.published)).getD true then (s, if s.batchesDone w then .pass else .wait)
  else
    let s := s.demandPublish w.core (c.blk, c.grp, l)
    (s, if ((s.thr? c.blk c.grp l).map (·.published)).getD true && s.batchesDone w then .pass else .wait)

/-- The met-tag slots of a wide acquiring fence are cleared. -/
def clearMet (s : State) (c : Cur) (gt : List Nat) : State :=
  s.modGrp c.blk c.grp fun y => y.modLanes gt fun _ t => { t with met := [] }

end State

def execFenceAcq (g : Guard) (scp : Scp) (s : State) : Ans :=
  issue (.fenceAcq g scp) g s
    (fun s c l => match s.loadsChk c l with
      | .pass => if Scp_wide scp then s.fenceAcq c l else (s, .pass)
      | k => (s, k))
    fun s c gt => if Scp_wide scp then s.clearMet c gt else s

def execFenceRel (g : Guard) (scp : Scp) (s : State) : Ans :=
  issue (.fenceRel g scp) g s
    (fun s c l => match s.loadsChk c l with
      | .pass => if Scp_wide scp then s.fenceRel c l else (s, .pass)
      | k => (s, k))
    fun s _ _ => s

def execFenceAr (g : Guard) (scp : Scp) (s : State) : Ans :=
  issue (.fenceAr g scp) g s
    (fun s c l => match s.loadsChk c l with
      | .pass =>
        if Scp_wide scp then
          match s.fenceRel c l with
          | (s, .pass) => s.fenceAcq c l
          | r => r
        else (s, .pass)
      | k => (s, k))
    fun s c gt => if Scp_wide scp then s.clearMet c gt else s

/-! ### Cache maintenance (10 R293 to R297) -/

/-- The bytes of a range that lie in the sector at va: where they start and how many. -/
def rangePart (base len va : Nat) : Nat × Nat :=
  let a := max base va
  (a, min (base + len) (va + 64) - a)

namespace State

/-- No other core of the cluster holds the sector (R282). -/
def lastHolder (s : State) (c sec : Nat) : Bool :=
  (List.range 4).all fun i => c / 4 * 4 + i == c || (match s.l1? (c / 4 * 4 + i) sec with
    | some e => e.st != .s && e.st != .e && e.st != .o && e.st != .m && e.st != .sma && e.st != .oma
    | none => true)

/-- One step of the walk of a CFLUSH or CINV in one lane (R294, R296). -/
def maintStep (s : State) (c : Cur) (l : Nat) (inv : Bool) (m : Maint) : State × Chk :=
  let w := s.agent c.blk c.grp l
  let set (s : State) (m : Maint) : State := s.modThr c.blk c.grp l fun t => { t with maint := some m }
  let skip (s : State) : State × Chk := (set s { m with next := m.next + 64 }, .wait)
  match m.fail with
  | some code => (s, .fault code (rangePart m.base m.len m.next).1 false)
  | none =>
    if m.sent then (s, .wait)
    else if m.base + m.len ≤ m.next then (s, .pass)
    else
      let (a, n) := rangePart m.base m.len m.next
      if 2 ^ 56 ≤ a then (s, .fault 0x10 a false)
      else if !s.leaseOk w.blk w.priv a n false then (s, .fault 0x12 a false)
      else
        match s.resolve w.core w.asid a (.load w.priv) with
        | (s, .fault code br) => (s, .fault code a br)
        | (s, .drop) => (s, .wait)
        | (s, .cached sec _ _) =>
          if (find? sec (s.core w.core).pend).isSome then (s, .wait)
          else
            match s.l1? w.core sec with
            | some e =>
              if !e.st.stable then (s, .wait)
              else
                let dirty := e.st == .m || e.st == .o
                let s :=
                  if inv then
                    let st : L1St := match e.st with
                      | .m => .mia | .o => .oia | .e => .eia | _ => .sia
                    (s.setL1 w.core sec { e with st := st }).send
                      ⟨if dirty then .putm else .putc, w.core, sec, e.val, if s.lastHolder w.core sec then 1 else 0, 0, .core w.core⟩
                  else s
                (set (s.send ⟨if inv then .cinvq else .cflq, w.core, sec, SecVal.zero, 0, 0, .core w.core⟩)
                  { m with sent := true }, .wait)
            | none =>
              (set (s.send ⟨if inv then .cinvq else .cflq, w.core, sec, SecVal.zero, 0, 0, .core w.core⟩)
                { m with sent := true }, .wait)
        | (s, _) => skip s

/-- CFLUSH or CINV in one lane: the posted entries of the thread to the range first, then the walk (R294). -/
def maintChk (s : State) (c : Cur) (l base len : Nat) (inv : Bool) : State × Chk :=
  if len = 0 then (s, .pass)
  else
    match (s.thr? c.blk c.grp l).bind (·.maint) with
    | some m => s.maintStep c l inv m
    | none =>
      if (s.core (s.agent c.blk c.grp l).core).posted.any fun p => p.blk == c.blk && p.grp == c.grp && p.lane == l
          && base < p.va + 64 && p.va < base + len then (s, .wait)
      else s.maintStep c l inv ⟨base, len, base / 64 * 64, false, none⟩

/-- The range of a maintenance form in one lane. -/
def maintRange (s : State) (c : Cur) (l : Nat) (x : Ext) (a b : Opnd) : Nat × Nat :=
  match s.grp? c.blk c.grp with
  | some y =>
    match y.threads[l]? with
    | some t => (src64 .l64 y t l a, src32 x y t l b)
    | none => (0, 0)
  | none => (0, 0)

end State

/-- CFLUSH and CINV. -/
def maintForm (i : Instr) (g : Guard) (s : State) (x : Ext) (a b : Opnd) (inv : Bool) : Ans :=
  issue i g s (fun s c l =>
    let (base, len) := s.maintRange c l x a b
    s.maintChk c l base len inv) fun s _ _ => s

def execCflush (h : Hd) (a b : Opnd) (s : State) : Ans := maintForm (.cflush h a b) h.g s h.ext a b false

def execCinv (h : Hd) (a b : Opnd) (s : State) : Ans := maintForm (.cinv h a b) h.g s h.ext a b true

def execCzero (h : Hd) (a b : Opnd) (s : State) : Ans :=
  issue (.czero h a b) h.g s noOwn fun s c gt =>
    s.enterStore c false false 0 ((s.laneMap c gt fun y t l =>
      (⟨l, src64 .l64 y t l a, .zero (src32 h.ext y t l b) false, false, none, t.priv⟩ : StLane)).filter fun z =>
        match z.kind with
        | .zero len _ => len != 0
        | _ => true)

end Sys2Proof.Machine
end

