-- ==== Sys2Proof/Machine/Bulk.lean ====
section
/-! DEFINITION. Reads and writes of bytes that an engine makes for a thread or a block: the spill engine, the copy engine,
the tile sequencer, the fabric's bulk forms (04 R126; 11 R307; 13 R355; 15 R397). -/

namespace Sys2Proof.Machine

/-- What an attempt to read or write answers. -/
inductive BGot where
  | bytes (l : List Byte)
  | wait
  | fault (code : BitVec 8) (va : Nat) (broken : Bool)
  deriving DecidableEq, Repr

/-- A range cut at sector boundaries: start and length of each part. -/
def sectorParts : Nat → Nat → Nat → List (Nat × Nat)
  | 0, _, _ => []
  | k + 1, va, n =>
    if n = 0 then []
    else
      let m := min n (64 - va % 64)
      (va, m) :: sectorParts k (va + m) (n - m)

/-- The parts of a range of n bytes. -/
def partsOf (va n : Nat) : List (Nat × Nat) := sectorParts (n / 64 + 2) va n

namespace State

/-- A request for an owner whose answer stays until the owner drops it. -/
def peekRemote (s : State) (owner : FOwner) (dst : Nat) (op : FOp) : State × Option (FabStatus × SecVal) :=
  match s.fab.unacked.find? fun r => r.owner == owner && r.dst == dst && r.op == op with
  | some r => (s, r.result)
  | none => s.remote owner dst false op

/-- A request for an owner to a sector's home, for a page of an engine's access; one that leaves for a migrate-on-count page
is counted (15 R386). -/
def peekHome (s : State) (w : Agent) (owner : FOwner) (mode : BitVec 2) (va sec : Nat) (op : FOp) :
    State × Option (FabStatus × SecVal) :=
  let dst := secHome sec
  let fresh := mode == 2 && !(s.fab.unacked.any fun r => r.owner == owner && r.dst == dst && r.op == op)
    && !s.peerLost dst && s.fabRoom dst
  (if fresh then s.migCount (w.core / 4) w.asid va dst else s).peekRemote owner dst op

/-- A host request for an owner, likewise. -/
def peekHost (s : State) (owner : FOwner) (op : HostOp) : State × Option (FabStatus × SecVal) :=
  match s.hst.reqs.find? fun r => r.owner == owner && r.op == op with
  | some r => (s, r.result)
  | none => s.hostAsk owner op

/-- The owner has taken its answers. -/
def dropAnswers (s : State) (owner : FOwner) : State :=
  { s with
    fab := { s.fab with unacked := s.fab.unacked.filter fun r => !(r.owner == owner && r.result.isSome) }
    hst := { s.hst with reqs := s.hst.reqs.filter fun r => !(r.owner == owner && r.result.isSome) } }

/-- A copy of a sector of another home, or of host memory, is in this package. -/
def hasCopy (s : State) (sec : Nat) : Bool := (s.dirE sec).pkgst != .i

/-- Host memory that the device caches through CXL.cache (21 R522). -/
def hostSec (sec : Nat) : Bool := 0xC000000000000 ≤ secOff sec

/-- Read n bytes at a place within one sector. -/
def readPart (s : State) (w : Agent) (owner : FOwner) (va n : Nat) : State × BGot :=
  let out (v : SecVal) (o : Nat) : BGot := if v.psn then .fault 0x18 va false else .bytes (toBytes n (takeSec v.bytes o n))
  let fin (r : State × Option (FabStatus × SecVal)) (o : Nat) : State × BGot :=
    match r with
    | (s, none) => (s, .wait)
    | (s, some (.ok, v)) => (s, .bytes (toBytes n (takeSec v.bytes o n)))
    | (s, some (.fault code, _)) => (s, .fault code va false)
  if 2 ^ 56 ≤ va then (s, .fault 0x10 va false)
  else if !s.leaseOk w.blk w.priv va n false then (s, .fault 0x12 va false)
  else
    match s.translate (w.core / 4) w.asid va (.load w.priv) with
    | (s, .fault code br) => (s, .fault code va br)
    | (s, .drop) => (s, .wait)
    | (s, .ok e) =>
      let pa := e.phys va
      let sec := pa / 64
      let o := pa % 64
      let home (s : State) (p : Nat) : State × BGot :=
        if p = s.self then
          match s.homeReady sec false with
          | (s, none) => (s, .wait)
          | (s, some (some code)) => (s, .fault code va false)
          | (s, some none) =>
            match s.performHome (.read pa) with
            | (s, .ok, v) => (s, .bytes (toBytes n (takeSec v.bytes o n)))
            | (s, .fault code, _) => (s, .fault code va false)
        else fin (s.peekRemote owner p (.home (.read pa))) o
      match s.place e with
      | .barred => (s, .fault 0x11 va false)
      | .doorbell => home s s.self
      | .home p => home s p
      | .host => fin (s.peekHost owner (.read pa n)) o
      | .cached =>
        if s.hasCopy sec then ((s.llcTouch sec w.use).1.readBy sec, out (s.cohRead sec) o)
        else if hostSec sec then fin (s.peekHost owner (.read pa n)) o
        else if s.homed sec then
          match s.podRecall sec false with
          | (s, false) => (s, .wait)
          | (s, true) =>
            match s.llcTouch sec w.use with
            | (s, false) => (s, .wait)
            | (s, true) => (s.readBy sec, out (s.cohRead sec) o)
        else fin (s.peekHome w owner e.mode va sec (.home (.read pa))) o

/-- Write bytes within one sector, under ownership (11 R307 rule 3). With dry set, what this package itself would write
is only made ready. -/
def writePart (s : State) (w : Agent) (owner : FOwner) (dry : Bool) (va : Nat) (bs : List Byte) : State × BGot :=
  let n := bs.length
  let fin (r : State × Option (FabStatus × SecVal)) : State × BGot :=
    match r with
    | (s, none) => (s, .wait)
    | (s, some (.ok, _)) => (s, .bytes [])
    | (s, some (.fault code, _)) => (s, .fault code va false)
  if 2 ^ 56 ≤ va then (s, .fault 0x10 va false)
  else if !s.leaseOk w.blk w.priv va n true then (s, .fault 0x12 va false)
  else
    match s.translate (w.core / 4) w.asid va (.store w.priv) with
    | (s, .fault code br) => (s, .fault code va br)
    | (s, .drop) => (s, .wait)
    | (s, .ok e) =>
      let pa := e.phys va
      let sec := pa / 64
      let mask := maskOf (pa % 64) n
      let val := placeSec (pa % 64) (ofBytes bs)
      let op : HomeOp := .write pa mask val
      let own (s : State) : State × BGot :=
        if (s.cohRead sec).psn && mask != -1 then (s, .fault 0x18 va false)
        else if dry then (s, .bytes []) else (s.cohWrite sec mask val, .bytes [])
      let home (s : State) (p : Nat) : State × BGot :=
        if p = s.self then
          match s.homeReady sec true with
          | (s, none) => (s, .wait)
          | (s, some (some code)) => (s, .fault code va false)
          | (s, some none) =>
            if dry then (s, .bytes [])
            else match s.performHome op with
            | (s, .ok, _) => (s, .bytes [])
            | (s, .fault code, _) => (s, .fault code va false)
        else fin (s.peekRemote owner p (.home op))
      match s.place e with
      | .barred => (s, .fault 0x11 va false)
      | .doorbell => home s s.self
      | .home p => home s p
      | .host => fin (s.peekHost owner (.write pa n (BitVec.ofNat 512 (ofBytes bs))))
      | .cached =>
        if (s.dirE sec).pkgst = .m ∨ (s.dirE sec).pkgst = .e then
          let (s, r) := own (s.llcTouch sec w.use).1
          if dry then (s, r) else (s.setDir sec { s.dirE sec with pkgst := .m }, r)
        else if hostSec sec then fin (s.peekHost owner (.write pa n (BitVec.ofNat 512 (ofBytes bs))))
        else if s.homed sec then
          match s.podRecall sec true with
          | (s, false) => (s, .wait)
          | (s, true) =>
            match s.llcTouch sec w.use with
            | (s, false) => (s, .wait)
            | (s, true) => own s
        else fin (s.peekHome w owner e.mode va sec (.home op))

/-- Read the parts of a range: every part is asked for, and the first that has not answered or that faults decides. -/
def readParts (s : State) (w : Agent) (owner : FOwner) : List (Nat × Nat) → State × BGot
  | [] => (s, .bytes [])
  | (va, n) :: ps =>
    match s.readPart w owner va n with
    | (s, .bytes l) =>
      match s.readParts w owner ps with
      | (s, .bytes l') => (s, .bytes (l ++ l'))
      | r => r
    | (s, .wait) => ((s.readParts w owner ps).1, .wait)
    | r => r

/-- Read n bytes from an address upward. -/
def readRange (s : State) (w : Agent) (owner : FOwner) (va n : Nat) : State × BGot := s.readParts w owner (partsOf va n)

/-- Write the parts of a range in ascending order, up to the first that faults; every part is asked for. -/
def writeParts (s : State) (w : Agent) (owner : FOwner) (dry : Bool) (bs : List Byte) : List (Nat × Nat) → State × BGot
  | [] => (s, .bytes [])
  | (va, n) :: ps =>
    match s.writePart w owner dry va (bs.take n) with
    | (s, .bytes _) => s.writeParts w owner dry (bs.drop n) ps
    | (s, .wait) => ((s.writeParts w owner dry (bs.drop n) ps).1, .wait)
    | r => r

/-- Write parts: this package writes its own once none of them waits. -/
def writeAll (s : State) (w : Agent) (owner : FOwner) (bs : List Byte) (ps : List (Nat × Nat)) : State × BGot :=
  match s.writeParts w owner true bs ps with
  | (s, .wait) => (s, .wait)
  | (s, _) => s.writeParts w owner false bs ps

/-- Write bytes from an address upward. -/
def writeRange (s : State) (w : Agent) (owner : FOwner) (va : Nat) (bs : List Byte) : State × BGot :=
  s.writeAll w owner bs (partsOf va bs.length)

end State

/-! ### The spill engine (04 R125, R126) -/

/-- The base of a thread's spill area (19 R468). -/
def spillBase (x : Block) (g l : Nat) : Nat := x.fr.spillbase + x.fr.spillsz * (x.blkid * x.fr.bthreads + 32 * g + l)

/-- The bytes a frame with slide k takes in the spill area. -/
def frameBytes (k : Nat) : Nat := 16 * ((4 * k + 15) / 16) + 16

/-- A link entry (R124). -/
def linkWord (f : Frame) : Nat :=
  f.retpc % 2 ^ 56 + (f.k % 128) * 2 ^ 64 + (f.ncode % 16) * 2 ^ 72 + (f.livep % 16) * 2 ^ 76

/-- The bytes of a frame: its registers, filled up to 16 bytes by what is not written, then its link entry. -/
def frameRegs (f : Frame) : List Byte := f.saved.flatMap fun x => toBytes 4 x.toNat

/-- What the spill engine keeps of the frames at its first work for the instruction at the PC (R126 rule 4). -/
def Thread.framesAt (t : Thread) : Option (Nat × List Frame × Nat) :=
  match t.before with
  | some (pc, r) => if pc = t.pc then some (pc, r) else some (t.pc, t.links, t.spill)
  | none => some (t.pc, t.links, t.spill)

namespace State

/-- The instruction at a thread's PC, with the PC after it. -/
def insAt (s : State) (b g l : Nat) : Option (Instr × Nat) :=
  match s.blk? b, s.grp? b g, s.thr? b g l with
  | some x, some y, some t =>
    match s.cachedAt y.core x.asid t.pc with
    | some (.ins i npc) => some (i, npc)
    | _ => none
  | _, _, _ => none

/-- A fault of a spill or a fill, at the instruction that needed it. -/
def spillFault (s : State) (b g l : Nat) (npc va : Nat) (code : BitVec 8) (br : Bool) : State :=
  match s.thr? b g l with
  | some t => ((s.dropAnswers (.spill b g l)).modThr b g l Thread.framesBack).takeFault b g l
      { Flt.sync code t.pc npc va with broken := br } t.pc
  | none => s

/-- Earlier stores of a thread, or of its core to the same bytes, are still queued or pending: a spill or a fill, which is
an access by the thread, waits for them (06 R182, R183; assumption log 31). -/
def frameBusy (s : State) (b g l va n : Nat) : Bool :=
  (((s.grp? b g).map fun y => y.storeQ.any fun e => !e.shared && e.lanes.any fun z => z.lane == l && !z.done).getD false)
    || (s.core (s.agent b g l).core).pend.any fun (_, p) => p.owners.any fun (b', g', l', _, a) =>
      (b' == b && g' == g && l' == l) || (decide (va / 64 ≤ a / 64) && decide (a / 64 ≤ (va + n - 1) / 64))

/-- Spill the oldest on-chip frame of a thread. -/
def spillOne (s : State) (b g l npc : Nat) (x : Block) (t : Thread) (f : Frame) : State :=
  let w := s.agent b g l
  let own := FOwner.spill b g l
  let n := frameBytes f.k
  if spillBase x g l + x.fr.spillsz < t.spill + n then s.spillFault b g l npc t.spill 0x0A false
  else if s.frameBusy b g l t.spill n then s
  else
    match s.writeRange w own t.spill (frameRegs f) with
    | (s, .fault code va br) => s.spillFault b g l npc va code br
    | (s, .wait) => s
    | (s, .bytes _) =>
      match s.writeRange w own (t.spill + n - 16) (toBytes 16 (linkWord f)) with
      | (s, .fault code va br) => s.spillFault b g l npc va code br
      | (s, .wait) => s
      | (s, .bytes _) =>
        (s.dropAnswers own).modThr b g l fun t =>
          { t with links := t.links.tail, spill := t.spill + n, before := t.framesAt }

/-- Fill the frame on top of a thread's spill area. -/
def fillOne (s : State) (b g l npc : Nat) (x : Block) (t : Thread) : State :=
  let w := s.agent b g l
  let own := FOwner.spill b g l
  if s.frameBusy b g l (spillBase x g l) (t.spill - spillBase x g l) then s else
  match s.readRange w own (t.spill - 16) 16 with
  | (s, .fault code va br) => s.spillFault b g l npc va code br
  | (s, .wait) => s
  | (s, .bytes bs) =>
    let e := ofBytes bs
    let k := e / 2 ^ 64 % 128
    let n := frameBytes k
    if t.spill < spillBase x g l + n then s.spillFault b g l npc t.spill 0x0A false
    else
      match s.readRange w own (t.spill - n) (4 * k) with
      | (s, .fault code va br) => s.spillFault b g l npc va code br
      | (s, .wait) => s
      | (s, .bytes rs) =>
        let f : Frame := ⟨e % 2 ^ 56, k, e / 2 ^ 72 % 16, min 8 (e / 2 ^ 76 % 16),
          (List.range k).map fun j => BitVec.ofNat 32 (ofBytes ((rs.drop (4 * j)).take 4))⟩
        (s.dropAnswers own).modThr b g l fun t =>
          { t with links := [f], spill := t.spill - n, before := t.framesAt }

end State

/-- The guard of the forms that spill and fill. -/
def frameGuard : Instr → Option Guard
  | .alloc g _ _ | .callx g _ _ | .ret g => some g
  | .call h _ => some h.g
  | _ => none

/-- Whether a thread is at a guard-true form of R125 whose checks before the spill engine it has passed (R129, R135). After
the halt of its block none is (R127). -/
def State.atFrame (s : State) (b g l npc : Nat) (t : Thread) (i : Instr) : Bool :=
  let c : Cur := ⟨b, g, 1 <<< l, t.pc, npc⟩
  let lands (addr : Nat) : Bool := match s.jumpChk c l addr with
    | (_, .pass) => true
    | _ => false
  !t.exited && !s.haltedGrp b g && ((frameGuard i).map t.guard).getD false && (match i with
    | .alloc _ n _ => n.toNat ≤ s.allot b
    | .call h k => k.toNat ≤ t.v.length && lands (relTarget t.pc h.ext)
    | .callx _ k a => k.toNat ≤ t.v.length && lands (s.pairOf c l a)
    | .ret _ => match t.links.getLast? with
      | some f => lands f.retpc
      | none => true
    | _ => false)

/-- SPILL_FRAME: the oldest on-chip frame of a thread whose instruction would break a limit goes to the spill area. -/
def execSpillFrame (b g l : Nat) (s : State) : Ans :=
  .next (match s.insAt b g l, s.blk? b, s.thr? b g l with
    | some (i, npc), some x, some t =>
      match t.links with
      | f :: _ => if spillNeed x.fr.regs t i && s.atFrame b g l npc t i then s.spillOne b g l npc x t f else s
      | [] => s
    | _, _, _ => s)

/-- FILL_FRAME: the frame that a RET needs comes back from the spill area. -/
def execFillFrame (b g l : Nat) (s : State) : Ans :=
  .next (match s.insAt b g l, s.blk? b, s.thr? b g l with
    | some (i, npc), some x, some t => if fillNeed t i && s.atFrame b g l npc t i then s.fillOne b g l npc x t else s
    | _, _, _ => s)

end Sys2Proof.Machine
end

