-- ==== Sys2Proof/Machine/Copy.lean ====
section
/-! DEFINITION. The copy engine and the named barriers: collectives and their slices, multicast, address order, fix-ups,
batches, barrier phases (11 R301 to R327; 09 R270, R271). -/

namespace Sys2Proof.Machine

/-! ### Barrier phases (R318, R323) -/

/-- A number as the signed 40-bit field TXB holds it (R318). -/
def signed40 (x : Int) : Int := (x + 2 ^ 39) % 2 ^ 40 - 2 ^ 39

/-- The completion test of a phase (R323). -/
def Barrier.flips (z : Barrier) : Bool := z.arr == 0 && z.txb == 0

/-- check_phase: the barrier after it. -/
def Barrier.check (z : Barrier) : Barrier :=
  if z.flips then { z with ph := z.ph + 1, arr := z.cnt, txb := z.eb.toNat } else z

namespace State

/-- A barrier of a block. -/
def bar (s : State) (b n : Nat) : Barrier := ((s.blk? b).bind fun x => x.nb[n]?).getD Barrier.reset

def modBar (s : State) (b n : Nat) (f : Barrier → Barrier) : State :=
  s.modBlk b fun x => { x with nb := x.nb.modify n f }

/-- Release the threads of a block that are held at a barrier whose phase has left their group's token (R322). -/
def wakeBar (s : State) (b n : Nat) : State :=
  let z := s.bar b n
  s.modBlk b fun x => { x with groups := x.groups.map fun y =>
    if z.cnt = 0 ∨ z.ph ≠ y.tok.getD n 0 then { y with threads := y.threads.map fun t =>
      if (t.hold == some (.barrier (BitVec.ofNat 4 n))) = true then { t with hold := none } else t } else y }

/-- check_phase(n) of a block. -/
def checkPhase (s : State) (b n : Nat) : State := (s.modBar b n Barrier.check).wakeBar b n

/-- on_bytes(n, k) of a block. -/
def onBytes (s : State) (b n k : Nat) : State :=
  if (s.bar b n).cnt = 0 then s else (s.modBar b n fun z => { z with txb := signed40 (z.txb - k) }).checkPhase b n

/-- The write pointer of a block advances (R312). -/
def cwpAdd (s : State) (b : Nat) (bar : Option (BitVec 4)) (k : Nat) : State :=
  match bar with
  | some n => if n.toNat < 8 then s.modBlk b fun x => { x with
      cwp := x.cwp.modify n.toNat fun w => w + BitVec.ofNat 32 k } else s
  | none => s

/-- A slice's bytes are reported to the barrier that it signals. -/
def report (s : State) (b : Nat) (bar : Option (BitVec 4)) (k : Nat) : State :=
  match bar with
  | some n => s.onBytes b n.toNat k
  | none => s

end State

/-! ### Multicast partitions (R309, R310; 19 R473) -/

/-- The clusters of a block's multicast partition: the rectangle of its launch, in which the block's own cluster has the
block's place. For a block restored on another cluster (19 R477) it is the rectangle about the new cluster (DESIGN CHOICE,
assumption log 43: the spec does not say which clusters a restored block's partition has). -/
def Block.partition (x : Block) : List Nat :=
  let mx := if x.record.task then 0 else x.fr.mcx
  let my := if x.record.task then 0 else x.fr.mcy
  let size := 2 ^ (mx + my)
  let k := x.blkid % size
  let part := x.blkid / size
  let cx := x.cluster % 8 - k % 2 ^ mx
  let cy := x.cluster / 8 - k / 2 ^ mx
  (List.range (min size (x.nblk - part * size))).map fun j => cx + j % 2 ^ mx + 8 * (cy + j / 2 ^ mx)

/-- The block of a partition on a cluster. -/
def State.partBlock (s : State) (x : Block) (cl : Nat) : Option Nat :=
  let size (y : Block) : Nat := if y.record.task then 1 else 2 ^ (y.fr.mcx + y.fr.mcy)
  (s.blocks.find? fun (_, y) => y.gridid == x.gridid && y.cluster == cl && y.blkid / size y == x.blkid / size x).map (·.1)

/-- The clusters that a mask names. -/
def maskClusters (m : BitVec 64) : List Nat := (List.range 64).filter fun c => m.getLsbD c

/-! ### Supplying a slice (R302, R303, R306, R310) -/

/-- What a collective instruction asks: its spaces, operands and length in the supplying lane. -/
structure CopyArgs where
  multi : Bool
  dspc : Spc
  sspc : Spc
  bar : Option (BitVec 4)
  dist : BitVec 16
  hnt : BitVec 2
  daddr : Nat
  saddr : Nat
  len : Nat
  mask : BitVec 64
  deriving DecidableEq, Repr

/-- An address operand of a copy. -/
def copyAddr (sp : Spc) (y : Group) (t : Thread) (l : Nat) (a : Opnd) : Nat :=
  match sp with
  | .g => src64 .l64 y t l a
  | _ => src32 .l64 y t l a

/-- The checks of a supplying lane: passed, a fault, or the lane switched off (none) (R306, R310). -/
def State.copyChk (s : State) (b : Nat) (a : CopyArgs) : Option Chk :=
  let x := s.blk? b
  let outside : Bool := a.multi && (match x with
    | some x => (maskClusters a.mask).any fun c => !x.partition.contains c
    | none => false)
  let scr (sp : Spc) (p : Nat) : Bool := sp == .s && !((x.map fun x => x.scrOk p a.len).getD true)
  if a.multi && a.mask == 0 then some .pass
  else if outside then some (.fault 0x24 0 false)
  else if a.len = 0 then some .pass
  else if a.dspc = .w then some (.fault 0x28 a.daddr false)
  else if a.daddr % 16 ≠ 0 then some (.fault 0x08 a.daddr false)
  else if a.saddr % 16 ≠ 0 then some (.fault 0x08 a.saddr false)
  else if a.len % 16 ≠ 0 then some (.fault 0x08 a.daddr false)
  else if scr a.dspc a.daddr || scr a.sspc a.saddr then none
  else if a.sspc = .w && (2 ^ 30 < a.saddr + a.len || !((x.map (·.fr.ws)).getD false)) then some (.fault 0x28 a.saddr false)
  else some .pass

namespace State

/-- The supplying lane of a collective instruction among its guard-true lanes (R303 rule 1). -/
def supplier (s : State) (c : Cur) (g : Guard) : Option Nat := (s.onLanes c (s.guardTrue c g)).head?

/-- The arguments as a lane supplies them. -/
def argsOf (s : State) (c : Cur) (l : Nat) (f : Group → Thread → Nat → CopyArgs) : Option CopyArgs :=
  match s.grp? c.blk c.grp with
  | some y => (y.threads[l]?).map fun t => f y t l
  | none => none

/-- The own check of a collective instruction in one lane. -/
def collChk (s : State) (c : Cur) (g : Guard) (l : Nat) (f : Group → Thread → Nat → CopyArgs) : State × Chk :=
  if s.supplier c g != some l then (s, .pass)
  else
    match s.argsOf c l f with
    | none => (s, .pass)
    | some a =>
      match s.copyChk c.blk a with
      | some k => (s, k)
      | none => (s.laneOff c l, .pass)

/-- The slice that a group supplies; an empty one without a supplying lane. -/
def sliceOf (s : State) (c : Cur) (l : Option Nat) (a : Option CopyArgs) : Slice :=
  match l, a with
  | some l, some a =>
    let none_ := a.len == 0 || (a.multi && a.mask == 0)
    { seq := s.nextId, grp := c.grp, lane := l, pc := c.pc, dspc := a.dspc, sspc := a.sspc, daddr := a.daddr
      saddr := a.saddr, rem := if none_ then 0 else a.len, len := if none_ then 0 else a.len, mask := a.mask
      priv := (s.agent c.blk c.grp l).priv, done := none_, fixed := false, dist := a.dist, hnt := a.hnt }
  | _, _ => Slice.empty c.grp c.pc

/-- A collective of a block is in flight. -/
def collLive (s : State) (b n : Nat) : Bool :=
  ((s.blk? b).map fun x => x.liveColls.any fun k => k.num == n).getD false

/-- A slice reaches the blocks to which it delivers: its collective takes its place there among those that signal NB0 to NB7
(R312 rule 1). All of them are reached at the issue (DEDUCED, assumption log 56). -/
def reach (s : State) (b n : Nat) (bar : Option (BitVec 4)) (multi : Bool) (sl : Slice) : State :=
  match bar, s.blk? b with
  | some q, some x =>
    if 8 ≤ q.toNat then s
    else
      let dsts := if multi then (maskClusters sl.mask).filterMap fun c => s.partBlock x c else [b]
      dsts.foldl (fun s d => s.modBlk d fun y =>
        if y.order.contains (b, n, q) then y
        else { y with order := (y.order.filter fun (b', n', _) => s.collLive b' n') ++ [(b, n, q)] }) s
  | _, _ => s

/-- Whether the turn of a collective has come at a block: every one that signals the same barrier and reached it before has
completed (R312 rule 1). -/
def turnAt (s : State) (d b n : Nat) (bar : Option (BitVec 4)) : Bool :=
  match bar, s.blk? d with
  | some q, some y =>
    8 ≤ q.toNat || !y.order.contains (b, n, q)
      || (y.order.takeWhile (· != (b, n, q))).all fun (b', n', r) => r != q || !s.collLive b' n'
  | _, _ => true

/-- A group's slice joins the collective of its CC (R302, R303, R304). -/
def joinColl (s : State) (c : Cur) (gt : List Nat) (multi : Bool) (bar : Option (BitVec 4)) (sl : Slice) : State :=
  match s.blk? c.blk, s.grp? c.blk c.grp with
  | some x, some y =>
    let n := y.cc.toNat
    let batches := gt.filterMap fun l => (y.threads[l]?).bind fun t =>
      if t.exited then none else some (c.grp, l, t.ob)
    let s := { s with nextId := s.nextId + 1 }
    let s := s.modGrp c.blk c.grp fun y => { y with cc := y.cc + 1 }
    match x.colls.find? (·.num == n) with
    | some k =>
      if k.multi != multi || k.bar != bar then s.abandon c.blk c.grp k.firstPc c.pc
      else (s.modBlk c.blk fun x => { x with colls := x.colls.map fun (k : Coll) =>
        if k.num = n then { k with slices := k.slices ++ [sl], batches := k.batches ++ batches } else k }).reach c.blk n bar
          multi sl |>.settleColls c.blk
    | none =>
      if x.abandoned then s.abandon c.blk c.grp c.pc 0
      else
        let gone := x.groups.zipIdx.filterMap fun (z, g) =>
          if g != c.grp && ((z.ended && !z.killed) || decide (n < z.cc.toNat)) then some (Slice.empty g 0) else none
        let k : Coll := ⟨n, multi, bar, c.pc, sl :: gone, batches, false⟩
        ((s.modBlk c.blk fun x => { x with colls := x.colls ++ [k] }).reach c.blk n bar multi sl).settleColls c.blk
  | _, _ => s

end State

/-- CPY and CPYM. -/
def collForm (i : Instr) (g : Guard) (s : State) (multi : Bool) (bar : Option (BitVec 4)) (f : Group → Thread → Nat → CopyArgs) : Ans :=
  issue i g s (fun s c l => s.collChk c g l f) fun s c gt =>
    let on := s.onLanes c gt
    let a := on.head?.bind fun l => s.argsOf c l f
    let s := if on = [] then s else s.progress c.blk
    -- a zero mask that signals a barrier reports zero bytes to the sender's (R310)
    let zero : Bool := (a.map fun a => a.multi && a.mask == 0).getD false
    let s := s.joinColl c on multi bar (s.sliceOf c on.head? a)
    (if zero then s.report c.blk bar 0 else s).offEnd c

def execCpy (g : Guard) (dspc sspc : Spc) (bar : Option (BitVec 4)) (dist : BitVec 16) (hnt : BitVec 2) (a b c : Opnd)
    (s : State) : Ans :=
  collForm (.cpy g dspc sspc bar dist hnt a b c) g s false bar fun y t l =>
    ⟨false, dspc, sspc, bar, dist, hnt, copyAddr dspc y t l a, copyAddr sspc y t l b, src32 .l64 y t l c, 0⟩

def execCpym (g : Guard) (sspc : Spc) (bar : Option (BitVec 4)) (len : BitVec 24) (a b c : Opnd) (s : State) : Ans :=
  collForm (.cpym g sspc bar len a b c) g s true bar fun y t l =>
    ⟨true, .s, sspc, bar, 0, 0, copyAddr .s y t l a, copyAddr sspc y t l b, len.toNat, BitVec.ofNat 64 (src64 .l64 y t l c)⟩

/-! ### Performing a slice (R307, R308, R311, R312) -/

/-- The part of a slice's destination that has been performed. -/
def Slice.covers (z : Slice) (sp : Spc) (a : Nat) : Bool :=
  z.dspc == sp && z.len != 0 && decide (z.daddr - (z.len - z.rem) ≤ a) && decide (a < z.daddr)

/-- A later slice of the same block has already performed a destination unit on a cluster, and its value stands (R307
rule 5). A unit of a CPYM is performed on a cluster of its mask once it has left the holding buffer for it. -/
def State.outranked (s : State) (b n g : Nat) (sp : Spc) (a dst : Nat) : Bool :=
  match s.blk? b with
  | none => false
  | some x =>
    let held (k : Coll) (z : Slice) : Bool := (getD [] s.hold x.cluster).any fun u =>
      u.blk == b && u.coll == k.num && u.grp == z.grp && u.addr == a && u.dsts.contains dst
    x.colls.any fun k => k.slices.any fun z => (n < k.num || (n == k.num && g < z.grp)) && z.covers sp a
      && (if k.multi then z.mask.getLsbD dst && !held k z else dst == x.cluster)

/-- A slice comes before another in the address order of its barrier (R312). -/
def Block.inOrder (x : Block) (n g : Nat) (bar : Option (BitVec 4)) : Bool :=
  match bar with
  | some b =>
    8 ≤ b.toNat || x.colls.all fun k =>
      if k.bar != bar || n < k.num then true
      else if k.num = n then (List.range g).all fun j => k.slices.any fun z => z.grp == j && z.done
      else k.complete x.groups.length
  | none => true

namespace State

/-- One slice of a collective of a block. -/
def slice? (s : State) (b n g : Nat) : Option (Block × Coll × Slice) :=
  match s.blk? b with
  | some x =>
    match x.colls.find? (·.num == n) with
    | some k => (k.slices.find? (·.grp == g)).map fun z => (x, k, z)
    | none => none
  | none => none

def modSlice (s : State) (b n g : Nat) (f : Slice → Slice) : State :=
  s.modBlk b fun x => { x with colls := x.colls.map fun (k : Coll) =>
    if k.num = n then { k with slices := k.slices.map fun z => if z.grp = g then f z else z } else k }

/-- Every load and store of the supplying group before the copy has been performed (R307 rule 1). -/
def groupPerformed (s : State) (b g seq : Nat) : Bool :=
  (s.accs.all fun a => !(a.blk == b && a.grp == g && decide (a.seq < seq) && a.lanes.any (·.st.open_)))
    && (match s.grp? b g with
      | some y =>
        let c := s.core y.core
        y.storeQ.all (fun e => decide (seq < e.seq))
          && c.pend.all (fun (_, p) => !p.owners.any fun (b', g', _, _, _) => b' == b && g' == g)
          && c.posted.all fun p => !(p.blk == b && p.grp == g)
      | none => true)

/-- The engine may work on a slice: its group's accesses are performed, its turn in the address order has come, and of the
fix-up entries it is the first (R307, R312, R326). While the block is halted, what is a fix-up entry stands still (R325). A
slice that joins a collective with an entry is no new collective, and is not held up. -/
def sliceReady (s : State) (b : Nat) (x : Block) (k : Coll) (z : Slice) : Bool :=
  !z.done && s.groupPerformed b z.grp z.seq && x.inOrder k.num z.grp k.bar && (k.multi || s.turnAt b b k.num k.bar)
    && (!z.fixed || x.halting.isEmpty && (x.fixups.head?.any fun f => f.coll == k.num && f.grp == z.grp))

/-- Segments of 128 bytes that n bytes of a .W source meet for the first time in their slice (12 R339). -/
def segsRead (z : Slice) (n : Nat) : Nat :=
  (z.saddr + n - 1) / 128 + 1 - (if z.rem = z.len then z.saddr / 128 else (z.saddr - 1) / 128 + 1)

/-- The bytes of a source range (R307 rule 2). -/
def sliceRead (s : State) (b : Nat) (z : Slice) (w : Agent) (own : FOwner) (n : Nat) : State × BGot :=
  match z.sspc with
  | .g => s.readRange w own z.saddr n
  | .s => (s, .bytes (Memory.bytes (((s.blk? b).map (·.scratch)).getD []) z.saddr n))
  | .w =>
    if s.refreshing z.saddr || s.refreshing (z.saddr + n - 1) then (s, .wait)
    else if s.wsBad z.saddr n then (s, .fault 0x18 z.saddr false)
    else (s.bump 8 0 (z.saddr / 2 ^ 28 % 4) (segsRead z n), .bytes (s.wstore.bytes z.saddr n))

/-- The end of a slice at a destination block: its bytes are reported (R323), its fix-up entry leaves the list. -/
def sliceEnd (s : State) (b : Nat) (k : Coll) (z : Slice) : State :=
  let s := s.modSlice b k.num z.grp fun z => { z with done := true, fixed := false }
  let s := if z.fixed then s.modBlk b fun x => { x with
      fixups := x.fixups.tail, replaying := x.fixups.length != 1 } else s
  (if k.multi then s else s.report b k.bar z.len).settleColls b

/-- A unit of a CPYM is performed at a block on a cluster of its mask. -/
def deliverUnit (s : State) (cl : Nat) (u : HoldU) (dst d : Nat) (bar : Option (BitVec 4)) : State :=
  let s := if s.outranked u.blk u.coll u.grp .s u.addr dst then s
    else s.modBlk d fun y => { y with scratch := y.scratch.setNum u.addr 16 u.val.toNat }
  (s.cwpAdd d bar 16).bump 7 2 cl 16

/-- A fault of a slice: the rest of it counts as delivered, and the fault is deferred in the supplying thread (R308). -/
def sliceFault (s : State) (b : Nat) (k : Coll) (z : Slice) (code : BitVec 8) (va : Nat) : State :=
  let dsts : List Nat := match s.blk? b with
    | some x => if k.multi then (maskClusters z.mask).filterMap fun c => s.partBlock x c else [b]
    | none => []
  -- units of a CPYM still in the holding buffer are delivered first
  let cl := ((s.blk? b).map (·.cluster)).getD 0
  let mine := (getD [] s.hold cl).filter fun u => u.blk == b && u.coll == k.num && u.grp == z.grp
  let s := mine.foldl (fun s u => u.dsts.foldl (fun s c =>
    match (s.blk? b).bind fun x => s.partBlock x c with
    | some d => s.deliverUnit cl u c d k.bar
    | none => s) s) s
  let s := { s with hold := put cl ((getD [] s.hold cl).filter fun u => !mine.contains u) s.hold }
  let s := dsts.foldl (fun s d => s.cwpAdd d k.bar z.rem) s
  let s := if k.multi then dsts.foldl (fun s d => s.report d k.bar z.len) s else s
  let s := s.modSlice b k.num z.grp fun z => { z with daddr := z.daddr, rem := 0, len := z.len - z.rem }
  (s.sliceEnd b k z).storeFault b z.grp z.lane z.pc va code

/-- The bytes that one move takes: a whole sector of .G where the slice covers it, else one unit. -/
def moveSize (s : State) (b : Nat) (x : Block) (k : Coll) (z : Slice) : Nat :=
  let far : Bool := z.sspc != z.dspc || z.saddr + 64 ≤ z.daddr || z.daddr ≤ z.saddr
  if !k.multi && z.dspc == .g && z.daddr % 64 == 0 && decide (64 ≤ z.rem) && far
    && (List.range 4).all fun i => !s.outranked b k.num z.grp .g (z.daddr + 16 * i) x.cluster then 64 else 16

/-- A unit of a CPYM finds the holding buffer of its cluster full, and is not read yet (R311). -/
def holdFull (s : State) (x : Block) (k : Coll) : Bool := k.multi && decide (8192 ≤ (getD [] s.hold x.cluster).length)

/-- Put a unit of a CPYM into the holding buffer of its cluster (R311). -/
def holdUnit (s : State) (b : Nat) (x : Block) (k : Coll) (z : Slice) (bs : List Byte) : State :=
  let u : HoldU := ⟨s.nextId, b, k.num, z.grp, z.daddr, BitVec.ofNat 128 (ofBytes bs), maskClusters z.mask⟩
  { s with nextId := s.nextId + 1, hold := put x.cluster (getD [] s.hold x.cluster ++ [u]) s.hold }

/-- A move of a slice has been performed: it stands further on, and ends with its last unit. A CPYM slice ends when the
last acknowledgement returns. -/
def moved (s : State) (b : Nat) (x : Block) (k : Coll) (z : Slice) (n : Nat) (own : FOwner) : State :=
  let s := (s.dropAnswers own).modSlice b k.num z.grp fun z => { z with
    daddr := z.daddr + n, saddr := z.saddr + n, rem := z.rem - n }
  let s := s.bump 7 1 x.cluster n
  if k.multi then s
  else
    let s := (s.cwpAdd b k.bar n).bump 7 2 x.cluster n
    if z.rem ≤ n then s.sliceEnd b k z else s

/-- Move the next m bytes of a slice: they are performed, or it waits, or one of them faults. -/
def sliceStep (s : State) (b : Nat) (x : Block) (k : Coll) (z : Slice) (m : Nat) : State × BGot :=
  let w := { s.agent b z.grp z.lane with priv := z.priv, use := Reuse.ofCopy z.hnt z.dist }
  let own := FOwner.slice b k.num z.grp
  match s.sliceRead b z w own m with
  | (s, .bytes bs) =>
    if k.multi then ((s.holdUnit b x k z bs).moved b x k z m own, .bytes [])
    else if m = 16 && s.outranked b k.num z.grp z.dspc z.daddr x.cluster then (s.moved b x k z m own, .bytes [])
    else
      match z.dspc with
      | .g =>
        (match s.writeRange w own z.daddr bs with
        | (s, .bytes _) => (s.moved b x k z m own, .bytes [])
        | r => r)
      | _ => ((s.modBlk b fun x => { x with scratch := x.scratch.setBytes z.daddr bs }).moved b x k z m own, .bytes [])
  | r => r

/-- Move one sector, or one unit, of a slice; false where it waits or has ended. A sector that faults is moved unit by unit,
so that the units before the faulting one are performed (R308 rule 1). -/
def sliceMove (s : State) (b n g : Nat) : State × Bool :=
  match s.slice? b n g with
  | none => (s, false)
  | some (x, k, z) =>
    if z.rem = 0 ∨ !s.sliceReady b x k z ∨ s.holdFull x k then (s, false)
    else
      let m := s.moveSize b x k z
      let r := s.sliceStep b x k z m
      let r := match r with
        | (s, .fault _ _ _) => if m = 16 then r else s.sliceStep b x k z 16
        | r => r
      match r with
      | (s, .bytes _) => (s, true)
      | (s, .wait) => (s, false)
      | (s, .fault code va _) => (s.sliceFault b k z code va, false)

/-- Move a slice as far as it goes. -/
def sliceRun (s : State) (b n g : Nat) : Nat → State
  | 0 => s
  | f + 1 =>
    match s.sliceMove b n g with
    | (s, true) => s.sliceRun b n g f
    | (s, false) => s

/-- The turn of a copy engine on a slice: one move. -/
def copyTurn (s : State) (b n g : Nat) : State := if s.pkg.stopped then s else (s.sliceMove b n g).1

end State

/-- COPY_SLICE_DONE: the remaining units of a slice are performed, and its bytes reported with the last, or it stops
at a fault; a slice that waits stays where it stands. -/
def execCopySliceDone (b n g : Nat) (s : State) : Ans :=
  .next (match s.slice? b n g with
    | some (_, _, z) => s.sliceRun b n g (z.rem / 16 + 1)
    | none => s)

namespace State

/-- The slice of a CPYM ends when all its units have left the holding buffer. -/
def multiDone (s : State) (cl : Nat) (u : HoldU) : State :=
  match s.slice? u.blk u.coll u.grp with
  | some (_, k, z) =>
    if z.rem = 0 && !z.done && !(getD [] s.hold cl).any (fun v => v.blk == u.blk && v.coll == u.coll && v.grp == u.grp)
    then s.sliceEnd u.blk k z else s
  | none => s

/-- A destination of a multicast unit performs and acknowledges it, unless an earlier unit of the slice still waits for
that destination, or the turn of its collective has not come there (R311, R312). A unit for a cluster whose block of the
partition has ended or is saved is dropped and counts as acknowledged (DESIGN CHOICE, assumption log 56). -/
def holdAck (s : State) (cl id dst : Nat) : State :=
  let us := getD [] s.hold cl
  match us.find? (·.id == id) with
  | none => s
  | some u =>
    let same (v : HoldU) : Bool := v.blk == u.blk && v.coll == u.coll && v.grp == u.grp
    let bar := ((s.slice? u.blk u.coll u.grp).map fun (_, k, _) => k.bar).getD none
    let at_ := (s.blk? u.blk).bind fun x => s.partBlock x dst
    if !u.dsts.contains dst || us.any (fun v => same v && decide (v.id < id) && v.dsts.contains dst)
        || at_.any fun d => !s.turnAt d u.blk u.coll bar then s
    else
      let u' := { u with dsts := u.dsts.filter (· != dst) }
      let us' := (us.map fun v => if v.id = id then u' else v).filter fun v => v.dsts != []
      let s := { s with hold := put cl us' s.hold }
      let s := match at_ with
        | some d =>
          let s := s.deliverUnit cl u dst d bar
          match s.slice? u.blk u.coll u.grp with
          | some (_, _, z) =>
            if z.rem = 0 && !us'.any (fun v => same v && v.dsts.contains dst) then s.report d bar z.len else s
          | none => s
        | none => s
      s.multiDone cl u

end State

def execHoldBufferAck (cluster id dst : Nat) (s : State) : Ans := .next (s.holdAck cluster id dst)

/-! ### Write pointers, batches and the snapshot (R313 to R316, R327) -/

def execCrdptr (h : Hd) (n : BitVec 3) (d : Opnd) (s : State) : Ans :=
  issue (.crdptr h n d) h.g s noOwn fun s c gt =>
    let v := (((s.blk? c.blk).map (·.cwp)).getD []).getD n.toNat 0
    s.modGrp c.blk c.grp fun y => y.writeDst d 1 (gt.map fun l => (l, v.toNat))

/-- The open batch number after a seal (R315). -/
def nextBatch (n : Word) : Word := if n + 1 = 0 then 1 else n + 1

def execCseal (h : Hd) (d : Opnd) (s : State) : Ans :=
  issue (.cseal h d) h.g s
    (fun s c l => (s, if 8 ≤ (((s.thr? c.blk c.grp l).map (·.seals)).getD []).length then .wait else .pass))
    fun s c gt =>
      let s := s.modGrp c.blk c.grp fun y =>
        (y.writeDst d 1 (laneVals y gt fun _ t _ => t.ob.toNat)).modLanes gt fun _ t =>
          { t with seals := t.seals ++ [t.ob], ob := nextBatch t.ob }
      s.settleBatches c.blk

def execCwait (h : Hd) (a : Opnd) (s : State) : Ans :=
  issue (.cwait h a) h.g s
    (fun s c l =>
      match s.grp? c.blk c.grp with
      | some y =>
        match y.threads[l]? with
        | some t =>
          let n : Word := BitVec.ofNat 32 (src32 h.ext y t l a)
          (s, if t.seals.any fun m => !seqAbove m n then .wait else .record)
        | none => (s, .pass)
      | none => (s, .pass))
    fun s _ _ => s

/-- The status word of CFIXQ. -/
def Block.fixWord (x : Block) : Nat :=
  min 1024 x.fixups.length + (if x.replaying then 2 ^ 11 else 0) + min 15 x.liveColls.length * 2 ^ 12

def execCfixq (h : Hd) (d : Opnd) (s : State) : Ans :=
  issue (.cfixq h d) h.g s noOwn fun s c gt =>
    let v := ((s.blk? c.blk).map (·.fixWord)).getD 0
    s.modGrp c.blk c.grp fun y => y.writeDst d 1 (gt.map fun l => (l, v))

/-! ### Barriers (R319 to R322; 09 R271) -/

/-- BARI: rules 1 and 2 of R320. -/
def Barrier.init (z : Barrier) (c : Nat) (e : Word) : Barrier :=
  if z.cnt = c ∧ z.eb = e then z else { z with cnt := c, eb := e, arr := c, txb := e.toNat }

def execBari (h : Hd) (n : BitVec 4) (a b : Opnd) (s : State) : Ans :=
  issue (.bari h n a b) h.g s noOwn fun s c gt =>
    match (s.laneMap c (gt.take 1) fun y t l => (src32 h.ext y t l a, src32 h.ext y t l b)) with
    | (cn, e) :: _ => s.modBar c.blk n.toNat fun z => z.init (min (max cn 1) 256) (BitVec.ofNat 32 e)
    | [] => s

/-- An arrival at an initialised barrier, before check_phase (R321). -/
def Barrier.arrive (z : Barrier) (bytes cidx : Nat) (seq : Word) : Barrier :=
  { z with
    txb := signed40 (z.txb + bytes)
    arr := z.arr - 1
    aseq := z.aseq.set cidx seq }

namespace State

/-- The arrival of a group at a barrier (R321; 09 R271 rule 1). -/
def arrive (s : State) (c : Cur) (n bytes : Nat) : State :=
  match s.grp? c.blk c.grp with
  | none => s
  | some y =>
    let z := s.bar c.blk n
    let s := s.modGrp c.blk c.grp fun y => { y with tok := y.tok.set n z.ph }
    let s := (s.progress c.blk).rseqNext y.core
    if z.cnt = 0 then s
    else (s.modBar c.blk n fun z => z.arrive bytes y.cidx (s.core y.core).rseq).checkPhase c.blk n

/-- The waits of an arrival: room for the release (09 R257), then the deferred record. -/
def arriveChk (s : State) (c : Cur) (l : Nat) : State × Chk :=
  let core := (s.agent c.blk c.grp l).core
  if s.rseqRoom core then (s, .record) else (s.publishAll core, .wait)

end State

def execBara (h : Hd) (n : BitVec 4) (s : State) : Ans :=
  issue (.bara h n) h.g s (fun s c l => s.arriveChk c l) fun s c gt => if gt = [] then s else s.arrive c n.toNat 0

def execBarx (h : Hd) (n : BitVec 4) (b : Opnd) (s : State) : Ans :=
  issue (.barx h n b) h.g s (fun s c l => s.arriveChk c l) fun s c gt =>
    match (s.laneMap c (gt.take 1) fun y t l => src32 h.ext y t l b) with
    | k :: _ => s.arrive c n.toNat k
    | [] => s

namespace State

/-- The wait of BARW in one lane: the phase, the thread being held, then the publish of every other core's arrival
sequence (R322; 09 R271 rule 2). -/
def barwChk (s : State) (c : Cur) (l n : Nat) : State × Chk :=
  match s.blk? c.blk, s.grp? c.blk c.grp with
  | some x, some y =>
    let z := s.bar c.blk n
    if z.cnt ≠ 0 ∧ z.ph = y.tok.getD n 0 then
      (s.modThr c.blk c.grp l fun t => { t with hold := some (.barrier (BitVec.ofNat 4 n)) }, .wait)
    else
      let others := x.cores.zipIdx.filterMap fun (core, i) =>
        let t : HemTag := ⟨s.pkg.id, BitVec.ofNat 8 core, z.aseq.getD i 0, false⟩
        if core != y.core && !seqAbove t.seq (s.core core).rseq && s.tagLive y.core t then some t else none
      let s := others.foldl (fun s t => (s.pubObtain y.core t).1) s
      (s, if others = [] then .pass else .wait)
  | _, _ => (s, .pass)

end State

def execBarw (h : Hd) (n : BitVec 4) (s : State) : Ans :=
  issue (.barw h n) h.g s (fun s c l => s.barwChk c l n.toNat) fun s _ _ => s

end Sys2Proof.Machine
end

