-- ==== Sys2Proof/Machine/Publish.lean ====
section
/-! DEFINITION. The acquiring side of the publish engine: what a publish acknowledgement, or its failure, does to the
acquires, fences and releases of a core that wait for it (09 R258, R261 to R264, R268). -/

namespace Sys2Proof.Machine

/-- The tag that a publish request of a core was sent for. -/
structure Asked where
  pkg : Nat
  core : Nat
  seq : Word
  deriving DecidableEq, Repr

/-- A tag is the one asked for. -/
def Asked.is (q : Asked) (t : HemTag) : Bool := t.pkg.toNat == q.pkg && t.core.toNat == q.core && t.seq == q.seq

/-- Enter a watermark, newest last, in a cache of 16 (R258). -/
def Core.learn (c : Core) (k : Known) : Core :=
  let rest := c.known.filter fun x => !(x.pkg == k.pkg && x.core == k.core)
  { c with known := (if 16 ≤ rest.length then rest.drop 1 else rest) ++ [k] }

/-- A wide acquiring fence at the PC of a thread. -/
def isAcqFence : Framed → Bool
  | .ins (.fenceAcq _ p) _ | .ins (.fenceAr _ p) _ => p != .grp && p != .blk
  | .ins (.halt _) _ => true
  | _ => false

namespace State

/-- Clear a tag in the L1 of a core (R264). -/
def clearTag (s : State) (c : Nat) (q : Asked) : State :=
  let one (e : L1E) : L1E := if e.val.tag.any q.is then { e with val := { e.val with tag := none } } else e
  s.modCore c fun x => { x with l1 := x.l1.map fun (k, e) => (k, one e) }

/-- Change the state of the lanes of a core's accesses that wait for a publish, and end the accesses that can end. -/
def wakeLanes (s : State) (c : Nat) (q : Asked) (f : AccLane → QWord → LaneSt) : State :=
  let hit (a : Acc) (z : AccLane) : Bool := match z.st with
    | .waitPub p k n _ => ((s.grp? a.blk a.grp).map (·.core)) == some c && p == q.pkg && k == q.core && n == q.seq
    | _ => false
  let ids := (s.accs.filter fun a => a.lanes.any (hit a)).map (·.id)
  let s := { s with accs := s.accs.map fun (a : Acc) => { a with lanes := a.lanes.map fun z =>
    match z.st with
    | .waitPub _ _ _ v => if hit a z then { z with st := f z v } else z
    | _ => z } }
  ids.foldl (fun s id => s.settle id) s

/-- Change every thread that runs on a core. -/
def modThreadsOn (s : State) (c : Nat) (f : Nat → Thread → Thread) : State :=
  { s with blocks := s.blocks.map fun (b, x) => (b, { x with groups := x.groups.map fun y =>
    if y.core = c then { y with threads := y.threads.map (f x.asid) } else y }) }

/-- A release at the head of a store queue of a core has met the tag. -/
def releaseMeets (s : State) (c asid : Nat) (q : Asked) (e : StEntry) (z : StLane) : Bool :=
  e.rel && !e.shared && !z.done && ((s.l1Name c asid z.va).any fun (_, x) => x.val.tag.any q.is)

/-- The acknowledgement of a publish with watermark pw reaches a core: the slots of the threads whose own wide fence waits for
it are resolved (R264, R268). -/
def pubDone (s : State) (c : Nat) (q : Asked) (pw : Word) : State :=
  let known := !seqAbove q.seq pw
  let waits := s.blocks.any fun (_, x) => x.groups.any fun y => y.core == c &&
    (y.storeQ.head?.any fun e => e.lanes.any (s.releaseMeets c x.asid q e))
  let s := if known then s.modCore c fun x => x.learn ⟨q.pkg, q.core, pw⟩ else s
  let s := if known || waits then s.clearTag c q else s
  let s0 := s
  let s := s.modThreadsOn c fun asid t =>
    if (s0.cachedAt c asid t.pc).any isAcqFence then { t with met := t.met.filter fun m => !q.is m } else t
  s.wakeLanes c q fun _ v => .bound v

/-- A publish that a core waits for ends with a fault (R262, R264). -/
def pubFailed (s : State) (c : Nat) (q : Asked) (code : BitVec 8) : State :=
  let fence (asid : Nat) (t : Thread) : Bool := t.met.any q.is && (s.cachedAt c asid t.pc).any isAcqFence
  let s0 := s
  let s := s.modThreadsOn c fun asid t => if fence asid t then { t with metFault := some code } else t
  let one (asid : Nat) (e : StEntry) (z : StLane) : StLane :=
    if s0.releaseMeets c asid q e z then { z with fail := some code } else z
  let head (asid : Nat) (l : List StEntry) : List StEntry :=
    match l with
    | e :: es => ({ e with lanes := e.lanes.map (one asid e) } : StEntry) :: es
    | [] => []
  let grp (asid : Nat) (y : Group) : Group := if y.core = c then { y with storeQ := head asid y.storeQ } else y
  let blk (x : Block) : Block := { x with groups := x.groups.map (grp x.asid) }
  let s : State := { s with blocks := s.blocks.map fun (b, x) => (b, blk x) }
  s.wakeLanes c q fun z v => .fault code z.va false (some v)

/-- Requests for a publish that the fabric ended with a fault. -/
def pubEnded (s : State) (c : Nat) : State :=
  let ended := s.fab.unacked.filterMap fun r =>
    match r.op, r.result with
    | .pub k n, some (.fault code, _) => if r.owner = .pub c then some ((⟨r.dst, k, n⟩ : Asked), code) else none
    | _, _ => none
  let s := { s with fab := { s.fab with unacked := s.fab.unacked.filter fun r =>
    !(r.owner == .pub c && r.result.isSome) } }
  ended.foldl (fun s (q, code) => s.pubFailed c q code) s

end State

end Sys2Proof.Machine
end

