-- ==== Sys2Proof/Machine/Fabric.lean ====
section
/-! DEFINITION. The fabric engine: the five fabric instructions, requests performed at this home under the duplicate
filter, responses, resends, deadlines, reductions (15 R386 to R405). -/

namespace Sys2Proof.Machine

/-! ### An operation performed at this home (R385, R397) -/

/-- The sectors of an operation. -/
def opParts : HomeOp → List (Nat × Nat)
  | .reads pa n => partsOf pa n
  | .writes pa bs => partsOf pa bs.length
  | op => [(opAddr op, opSize op)]

/-- An operation that needs ownership of its sector. -/
def opOwns : HomeOp → Bool
  | .read _ | .reads _ _ => false
  | _ => true

/-- A 64-bit address in the doorbell window. -/
def opDoorbell (op : HomeOp) : Bool :=
  0x8800000000000 ≤ gpaOff (opAddr op) && gpaOff (opAddr op) < 0x8800000010000

namespace State

/-- Make every sector of an operation ready: not yet, ready, or the code of a publish that failed. -/
def readyParts (s : State) (own : Bool) : List (Nat × Nat) → State × Option (Option (BitVec 8))
  | [] => (s, some none)
  | (pa, _) :: ps =>
    match s.homeReady (pa / 64) own with
    | (s, none) => ((s.readyParts own ps).1, none)
    | (s, some (some code)) => (s, some (some code))
    | (s, some none) => s.readyParts own ps

def opReady (s : State) (op : HomeOp) : State × Option (Option (BitVec 8)) :=
  if opDoorbell op then (s, some none) else s.readyParts (opOwns op) (opParts op)

/-- Perform a block write part by part. -/
def writeBlock (s : State) (bs : List Byte) : List (Nat × Nat) → State × FabStatus
  | [] => (s, .ok)
  | (pa, n) :: ps =>
    match s.performHome (.write pa (maskOf (pa % 64) n) (placeSec (pa % 64) (ofBytes (bs.take n)))) with
    | (s, .ok, _) => s.writeBlock (bs.drop n) ps
    | (s, st, _) => (s, st)

/-- Read the sectors of a block. -/
def readBlock (s : State) : List (Nat × Nat) → State × FabStatus × List SecData
  | [] => (s, .ok, [])
  | (pa, _) :: ps =>
    match s.performHome (.read pa) with
    | (s, .ok, v) =>
      match s.readBlock ps with
      | (s, .ok, l) => (s, .ok, v.bytes :: l)
      | r => r
    | (s, st, _) => (s, st, [])

/-- Perform any operation at this home: its status, its first sector or old value, the sectors after it. -/
def performOp (s : State) (op : HomeOp) : State × FabStatus × SecVal × List SecData :=
  match op with
  | .writes _ bs =>
    let (s, st) := s.writeBlock bs (opParts op)
    (s, st, SecVal.zero, [])
  | .reads _ _ =>
    match s.readBlock (opParts op) with
    | (s, st, v :: l) => (s, st, ⟨v, none, false⟩, l)
    | (s, st, []) => (s, st, SecVal.zero, [])
  | _ =>
    let (s, st, v) := s.performHome op
    (s, st, v, [])

end State

/-- The bytes of a block read from pa, out of its sectors. -/
def blockBytes (pa n : Nat) (v : SecData) (more : List SecData) : List Byte :=
  ((v :: more).flatMap fun x => toBytes 64 x.toNat).drop (pa % 64) |>.take n

/-! ### Bulk transfers (R397) -/

namespace State

def bulk? (s : State) (id : Nat) : Option Bulk := s.fab.bulks.find? (·.id == id)

def modBulk (s : State) (id : Nat) (f : Bulk → Bulk) : State :=
  { s with fab := { s.fab with bulks := s.fab.bulks.map fun k => if k.id = id then f k else k } }

/-- Earlier loads and stores of a thread have been performed (R397 rule 5). -/
def threadPerformed (s : State) (b g l seq : Nat) : Bool :=
  (s.accs.all fun a => !(a.blk == b && a.grp == g && decide (a.seq < seq) && a.lanes.any (·.lane == l)))
    && (match s.grp? b g with
      | some y =>
        let c := s.core y.core
        y.storeQ.all (fun e => decide (seq < e.seq) || !e.lanes.any fun z => z.lane == l && !z.done)
          && c.pend.all (fun (_, p) => !p.owners.any fun (b', g', l', _, _) => b' == b && g' == g && l' == l)
          && c.posted.all fun p => !(p.blk == b && p.grp == g && p.lane == l)
      | none => true)

/-- A bulk transfer stops at a fault, which is recorded deferred (R397 rule 8). -/
def bulkFault (s : State) (k : Bulk) (va : Nat) (code : BitVec 8) : State :=
  (s.modBulk k.id fun k => { k with rem := 0 }).storeFault k.blk k.grp k.lane k.pc va code

/-- The agent for which a bulk transfer accesses memory. -/
def bulkAgent (s : State) (k : Bulk) : Agent := { s.agent k.blk k.grp k.lane with priv := k.priv }

/-- Requests of a bulk transfer that have left and have not been taken. -/
def bulkOpen (s : State) (id : Nat) : List FReq := s.fab.unacked.filter fun r => match r.owner with
  | .bulk i _ => i == id
  | _ => false

/-- Remove a request of a stream. -/
def dropReq (s : State) (r : FReq) : State :=
  { s with fab := { s.fab with unacked := s.fab.unacked.filter fun q => !(q.dst == r.dst && q.seq == r.seq && q.op == r.op) } }

/-- Take the answered requests of a bulk transfer: a write's status, or a read's bytes, which are written locally. -/
def bulkTake (s : State) (k : Bulk) : List FReq → State
  | [] => s
  | r :: rs =>
    let addr : Nat := match r.owner with
      | .bulk _ a => a
      | _ => 0
    let s := match r.result with
      | none => s
      | some (.fault code, _) => (s.dropReq r).bulkFault k addr code
      | some (.ok, v) =>
        match r.op with
        | .home (.reads pa n) =>
          (match s.writeRange (s.bulkAgent k) (.source k.id) addr (blockBytes pa n v.bytes r.more) with
          | (s, .bytes _) => (s.dropReq r).dropAnswers (.source k.id)
          | (s, .wait) => s
          | (s, .fault code va _) => (s.dropReq r).bulkFault k va code)
        | _ => s.dropReq r
    s.bulkTake k rs

/-- Resolve the remote address of a bulk transfer: its home, its physical address, and whether requests for its page are
counted (R386); none for a host window. -/
def bulkPlace (s : State) (k : Bulk) (va n : Nat) (w : Want) : State × Except (BitVec 8) (Option (Nat × Nat × Bool)) :=
  let a := s.bulkAgent k
  if 2 ^ 56 ≤ va then (s, .error 0x10)
  else if !s.leaseOk a.blk a.priv va n w.w then (s, .error 0x12)
  else
    match s.translate (a.core / 4) a.asid va w with
    | (s, .fault code _) => (s, .error code)
    | (s, .drop) => (s, .error 0x10)
    | (s, .ok e) =>
      match s.place e with
      | .barred => (s, .error 0x11)
      | .home p => (s, .ok (some (p, e.phys va, false)))
      | .doorbell => (s, .ok (some (s.self, e.phys va, false)))
      | .cached => (s, .ok (if hostSec (e.phys va / 64) then none else some (gpaHome (e.phys va), e.phys va, e.mode == 2)))
      | .host => (s, .ok none)

/-- A request of a bulk transfer is sent, and counted where its page asks for it (R386). -/
def bulkSend (s : State) (k : Bulk) (counted : Bool) (va p : Nat) (op : HomeOp) : State :=
  let a := s.bulkAgent k
  (if counted then s.migCount (a.core / 4) a.asid va p else s).fabSend p false (.home op) (.bulk k.id k.daddr)

/-- The transfer stands n bytes further on. -/
def bulkNext (s : State) (k : Bulk) (n : Nat) : State :=
  (s.dropAnswers (.source k.id)).modBulk k.id fun k => { k with
    daddr := k.daddr + n, saddr := k.saddr + n, rem := k.rem - n }

/-- Send the next request of an FPUT: at most 256 bytes within an aligned 256-byte block of the remote address. -/
def putNext (s : State) (k : Bulk) : State × Bool :=
  let n := min k.rem (256 - k.daddr % 256)
  let w := s.bulkAgent k
  match s.readRange w (.source k.id) k.saddr n with
  | (s, .wait) => (s, false)
  | (s, .fault code va _) => (s.bulkFault k va code, false)
  | (s, .bytes bs) =>
    match s.bulkPlace k k.daddr n (.store w.priv) with
    | (s, .error code) => (s.bulkFault k k.daddr code, false)
    | (s, .ok none) =>
      (match s.writeRange w (.source k.id) k.daddr bs with
      | (s, .bytes _) => (s.bulkNext k n, true)
      | (s, .wait) => (s, false)
      | (s, .fault code va _) => (s.bulkFault k va code, false))
    | (s, .ok (some (p, pa, mig))) =>
      let op : HomeOp := .writes pa bs
      if p = s.self then
        match s.opReady op with
        | (s, none) => (s, false)
        | (s, some (some code)) => (s.bulkFault k k.daddr code, false)
        | (s, some none) =>
          match s.performOp op with
          | (s, .ok, _, _) => (s.bulkNext k n, true)
          | (s, .fault code, _, _) => (s.bulkFault k k.daddr code, false)
      else if s.peerLost p then (s.bulkFault k k.daddr 0x1C, false)
      else if !s.fabRoom p then (s, false)
      else ((s.bulkSend k mig k.daddr p op).bulkNext k n, true)

/-- Send the next request of an FGET. -/
def getNext (s : State) (k : Bulk) : State × Bool :=
  let n := min k.rem (256 - k.saddr % 256)
  let w := s.bulkAgent k
  match s.bulkPlace k k.saddr n (.load w.priv) with
  | (s, .error code) => (s.bulkFault k k.saddr code, false)
  | (s, .ok none) =>
    (match s.readRange w (.source k.id) k.saddr n with
    | (s, .wait) => (s, false)
    | (s, .fault code va _) => (s.bulkFault k va code, false)
    | (s, .bytes bs) =>
      match s.writeRange w (.source k.id) k.daddr bs with
      | (s, .bytes _) => (s.bulkNext k n, true)
      | (s, .wait) => (s, false)
      | (s, .fault code va _) => (s.bulkFault k va code, false))
  | (s, .ok (some (p, pa, mig))) =>
    let op : HomeOp := .reads pa n
    if p = s.self then
      match s.opReady op with
      | (s, none) => (s, false)
      | (s, some (some code)) => (s.bulkFault k k.saddr code, false)
      | (s, some none) =>
        match s.performOp op with
        | (s, .fault code, _, _) => (s.bulkFault k k.saddr code, false)
        | (s, .ok, v, more) =>
          match s.writeRange w (.source k.id) k.daddr (blockBytes pa n v.bytes more) with
          | (s, .bytes _) => (s.bulkNext k n, true)
          | (s, .wait) => (s, false)
          | (s, .fault code va _) => (s.bulkFault k va code, false)
    else if s.peerLost p then (s.bulkFault k k.saddr 0x1C, false)
    else if !s.fabRoom p then (s, false)
    else ((s.bulkSend k mig k.saddr p op).bulkNext k n, true)

/-! ### Reductions (R399 to R402) -/

/-- The switches that every member of a collective reaches, ascending (R401). -/
def chunkSwitches (s : State) (c : Collective) : List Nat :=
  (List.range 64).filter fun k => s.pkg.caps.stations.contains k &&
    c.members.all fun m => m == s.self || (getD [] s.fab.reach m).contains k

def collective? (s : State) (id : BitVec 16) : Option Collective := s.fab.colls.find? (·.id == id)

/-- A FRED ends: with a fault it is recorded deferred. Its contribution chunks are no longer awaited. -/
def fredEnd (s : State) (k : Bulk) (fault : Option (BitVec 8 × Nat)) : State :=
  let other (r : FReq) : Bool := match r.owner with
    | .bulk i _ => i != k.id
    | _ => true
  let s := { s with fab := { s.fab with
    bulks := s.fab.bulks.filter (·.id != k.id)
    unacked := s.fab.unacked.filter other
    waiting := s.fab.waiting.filter other } }
  let s := match fault with
    | some (code, va) => s.storeFault k.blk k.grp k.lane k.pc va code
    | none => s
  s.settleBatches k.blk

end State

/-- The bytes of an element of FRED. -/
def fredBytes : Fmt → Nat
  | .fp32 => 4
  | _ => 2

/-- Elements of a chunk. -/
def chunkElems (k : Bulk) (c : Nat) : List Nat := (List.range 64).map (64 * c + ·) |>.filter (· < k.count)

/-- One element widened exactly to FP32 (R401). -/
def widenElem (f : Fmt) (x : Nat) : Word :=
  match fmtSpec f, fmtSpec .fp32 with
  | some a, some b => BitVec.ofNat 32 (b.round (a.decode x) 1 false false 0).1
  | _, _ => 0

/-- One element of a result, from FP32 (R401). -/
def narrowElem (f : Fmt) (x : Word) : Nat :=
  match f, fmtSpec f, fmtSpec .fp32 with
  | .fp32, _, _ => x.toNat
  | _, some a, some b => (a.round (b.decode x.toNat) 1 false false 0).1
  | _, _, _ => 0

/-- The greater or lesser of two FP32 encodings, −0 below +0. -/
def pick32 (max : Bool) (x y : Nat) : Nat :=
  if Val.lt0 (fp32S.decode x) (fp32S.decode y) == max then y else x

/-- The result of one element: the tree sum, or the extreme, whose NaN has the sign of the first (R100, R401). -/
def reduceElem (op : FOp3) (xs : List Nat) : Nat :=
  match op with
  | .add => treeSum xs.length xs
  | _ =>
    match xs.find? fun x => (fp32S.decode x).isNan with
    | some x => fp32S.enc (fp32S.sign x) fp32S.nanMag
    | none =>
      match xs with
      | x :: t => t.foldl (pick32 (op == .max)) x
      | [] => 0

namespace State

/-- The contribution of a FRED is read and its chunks are sent (R400 rule 3, R401). -/
def fredSend (s : State) (k : Bulk) : State × Bool :=
  let w := s.bulkAgent k
  let n := fredBytes k.fmt
  match s.readRange w (.source k.id) k.saddr (n * k.count) with
  | (s, .wait) => (s, false)
  | (s, .fault code va _) => (s.fredEnd k (some (code, va)), false)
  | (s, .bytes bs) =>
    match (s.collective? k.coll).map s.chunkSwitches with
    | none | some [] => (s.fredEnd k (some (0x1C, k.saddr)), false)
    | some sw =>
      let vals := (List.range k.count).map fun i => widenElem k.fmt (ofBytes ((bs.drop (n * i)).take n))
      let chunks := List.range ((k.count + 63) / 64)
      let s := (s.dropAnswers (.source k.id)).modBulk k.id fun k => { k with rem := 0, vals := vals }
      (chunks.foldl (fun s c => s.fabSend (1024 + sw.getD (c % sw.length) 0) false
        (.chunk k.coll k.round k.op k.fmt k.count c ((chunkElems k c).map fun i => vals.getD i 0)) (.bulk k.id c)) s, false)

/-- One piece of work on a bulk transfer; true where there may be more. -/
def bulkStep (s : State) (id : Nat) : State × Bool :=
  match s.bulk? id with
  | none => (s, false)
  | some k =>
    let s := if k.kind = 2 then s else s.bulkTake k (s.bulkOpen id)
    match s.bulk? id with
    | none => (s, false)
    | some k =>
      if k.rem = 0 ∨ !s.threadPerformed k.blk k.grp k.lane k.id then (s, false)
      else if k.kind = 0 then s.putNext k
      else if k.kind = 1 then s.getNext k
      else s.fredSend k

/-- An FPUT or FGET ends when all its requests have completed (R397 rule 4). -/
def bulkFinish (s : State) (id : Nat) : State :=
  match s.bulk? id with
  | some k =>
    let reads := s.fab.unacked.any fun r => r.owner == .source id && r.result.isNone
    if k.kind ≠ 2 ∧ k.rem = 0 ∧ s.bulkOpen id = [] ∧ !reads then
      { (s.dropAnswers (.source id)) with fab := { (s.dropAnswers (.source id)).fab with
          bulks := s.fab.bulks.filter (·.id != id) } }.settleBatches k.blk
    else s
  | none => s

/-- Work on a bulk transfer as far as it goes. -/
def bulkRun (s : State) (id : Nat) : Nat → State
  | 0 => s.bulkFinish id
  | f + 1 =>
    match s.bulkStep id with
    | (s, true) => s.bulkRun id f
    | (s, false) => s.bulkFinish id

/-- Work on one bulk transfer. -/
def bulkPump (s : State) (id : Nat) : State := s.bulkRun id (((s.bulk? id).map (·.rem)).getD 0 / 16 + 2)

/-! ### The target side (R390, R392, R394) -/

def modDup (s : State) (src : Nat) (seq : Word) (f : Dup → Dup) : State :=
  { s with fab := { s.fab with dups := s.fab.dups.map fun d => if d.src = src ∧ d.seq = seq then f d else d } }

def dup? (s : State) (src : Nat) (seq : Word) : Option Dup := s.fab.dups.find? fun d => d.src == src && d.seq == seq

/-- Every lower number of the stream from LOW on has been performed or abandoned (R390). -/
def lowerDone (s : State) (src : Nat) (seq : Word) : Bool :=
  let low := getD 0 s.fab.low src
  (List.range (seq - low).toNat).all fun i =>
    match s.dup? src (low + BitVec.ofNat 32 i) with
    | some d => d.st != .inProgress
    | none => false

/-- Perform a request that its target holds, if it can be, and answer it. -/
def serveOne (s : State) (d : Dup) : State :=
  match d.held with
  | none => s
  | some op =>
    if d.obit && !s.lowerDone d.src d.seq then s
    else
      match s.opReady op with
      | (s, none) => s
      | (s, some (some code)) =>
        (s.modDup d.src d.seq fun d => { d with st := .done, held := none, result := some (.fault code, SecVal.zero) }).emit
          (.response d.src d.seq (.fault code) SecVal.zero [])
      | (s, some none) =>
        let (s, st, v, more) := s.performOp op
        (s.modDup d.src d.seq fun d => { d with st := .done, held := none, result := some (st, v) }).emit
          (.response d.src d.seq st v more)

/-- Serve every held request once, in the order of arrival. -/
def serveHeld (s : State) : State := s.fab.dups.foldl (fun s d =>
  match s.dup? d.src d.seq with
  | some d => s.serveOne d
  | none => s) s

/-- The turn of the fabric engine: requests that wait for room, held requests and bulk transfers. -/
def fabricTurn (s : State) : State :=
  if s.pkg.stopped then s else (s.fab.bulks.map (·.id)).foldl (fun s id => s.bulkPump id) s.fabFlush.serveHeld

/-- The home agent is open (16 R409). -/
def homeOpen (s : State) : Bool := s.hom.ctl.getLsbD 0

/-- A request of another package arrives (R392). A duplicate of a read that is done is performed again, when it can be. -/
def requestArrives (s : State) (src : Nat) (seq low : Word) (obit : Bool) (op : HomeOp) : State :=
  if !s.homeOpen then s.emit (.response src seq (.fault 0x1C) SecVal.zero [])
  else
    let old := getD 0 s.fab.low src
    let low := if seqAbove low old then low else old
    let s := { s with fab := { s.fab with
      low := putD 0 src low s.fab.low
      dups := s.fab.dups.filter fun d => !(d.src == src && seqAbove low d.seq) } }
    if seqAbove low seq then s
    else
      match s.dup? src seq with
      | none =>
        ({ s with fab := { s.fab with dups := s.fab.dups ++ [(⟨src, seq, .inProgress, obit, some op, none⟩ : Dup)] } }).serveHeld
      | some d =>
        match d.st, d.result with
        | .inProgress, _ => s
        | .abandoned, _ => (s.emit (.abandoned src seq)).bump 11 2 0 1
        | .done, some (st, v) =>
          if opOwns op then (s.emit (.response src seq st v [])).bump 11 2 0 1
          else
            ((s.modDup src seq fun d => { d with held := some op }).bump 11 2 0 1).serveHeld
        | .done, none => s

end State

def execFabricRequestArrival (src : Nat) (seq low : Word) (obit : Bool) (op : HomeOp) (s : State) : Ans :=
  .next (s.requestArrives src seq low obit op)

/-- ABANDON: the entry of the number, unless done, and every held O-bit request above it, are abandoned (R394). -/
def execAbandon (src : Nat) (seq : Word) (s : State) : Ans :=
  let drop (d : Dup) : Bool := d.src == src && d.st == .inProgress && (d.seq == seq || (d.obit && seqAbove d.seq seq))
  let s := { s with fab := { s.fab with
    dups := (s.fab.dups.map fun d => if drop d then { d with st := .abandoned, held := none } else d)
      ++ (if (s.dup? src seq).isNone && !seqAbove (getD 0 s.fab.low src) seq
        then [(⟨src, seq, .abandoned, false, none, none⟩ : Dup)] else []) } }
  .next (s.emit (.abandoned src seq)).serveHeld

/-! ### The source side (R386, R393, R394) -/

namespace State

/-- An open request of a stream by its number. -/
def req? (s : State) (dst : Nat) (seq : Word) : Option FReq :=
  s.fab.unacked.find? fun r => r.dst == dst && r.seq == seq && r.result.isNone

def modReq (s : State) (r : FReq) (f : FReq → FReq) : State :=
  { s with fab := { s.fab with unacked := s.fab.unacked.map fun q =>
    if q.dst = r.dst ∧ q.seq = r.seq ∧ q.op = r.op then f q else q } }

/-- Those that wait for a request go on: a returning access, or a bulk transfer. -/
def afterAnswer (s : State) (o : FOwner) : State :=
  match o with
  | .lane acc _ => s.pursue acc
  | .bulk id _ => s.bulkPump id
  | .source id => s.bulkPump id
  | .pub c => s.pubEnded c
  | _ => s

/-- A request ends with a result. -/
def answer (s : State) (r : FReq) (st : FabStatus) (v : SecVal) (more : List SecData) : State :=
  if r.owner = .engine then s.dropReq r
  else (s.modReq r fun q => { q with result := some (st, v), more := more }).afterAnswer r.owner

end State

/-- A request that only tells its target that a number is abandoned. -/
def FOp.abandons : FOp → Bool
  | .abandon _ => true
  | _ => false

/-- FABRIC_RESPONSE: a response ends its request; one that comes after the deadline, when only the ABANDON of its number is
still open, is discarded (R393 rule 3). An abandon response ends that ABANDON (R394). -/
def execFabricResponse (dst : Nat) (seq : Word) (st : FabReply) (v : SecVal) (more : List SecData) (s : State) : Ans :=
  .next (match s.req? dst seq, st with
    | some r, .answer st => if r.op.abandons then s else s.answer r st v more
    | some r, .abandoned => if r.op.abandons then s.dropReq r else s
    | none, _ => s)

/-- A request that is sent again until it is acknowledged, and not three times at most: an ABANDON (R394), a notice
(17 R433), what returns or writes back a sector. -/
def FReq.untilHeard (r : FReq) : Bool := r.owner == .engine && (match r.op with
  | .pod _ _ => false
  | _ => true)

/-- FABRIC_RESEND: 8 µs after the previous send, at most three times, by the station of R388; ABANDON until it is
acknowledged (R393, R394). A request that no station reaches any more fails with PEER_DOWN, as R388 has it. -/
def execFabricResend (dst : Nat) (seq : Word) (s : State) : Ans :=
  .next (match s.req? dst seq with
    | some r =>
      if !s.pkg.stopped ∧ r.last + 11200 ≤ s.now ∧ (r.resends < 3 ∨ r.untilHeard) then
        if dst < 1024 ∧ getD [] s.fab.reach dst = [] then
          if r.owner = .engine then s else s.answer r (.fault 0x1C) SecVal.zero []
        else
          let stn := s.stationFor dst r.op (some r.stn)
          ((s.modReq r fun q => { q with resends := q.resends + 1, stn := stn, last := s.now }).emit
            (.packet dst seq (s.lowOf dst) r.obit r.op stn)).bump 11 1 0 1
      else s
    | none => s)

namespace State

/-- End a list of requests with FABRIC_TIMEOUT. -/
def timeoutAll (s : State) : List FReq → State
  | [] => s
  | r :: rs => ((s.answer r (.fault 0x1B) SecVal.zero []).bump 11 3 0 1).timeoutAll rs

end State

/-- FABRIC_DEADLINE_EXPIRY: the request and every later O-bit request of its stream end, and ABANDON is sent (R393,
R394). A contribution chunk ends its FRED (R402). -/
def execFabricDeadlineExpiry (dst : Nat) (seq : Word) (s : State) : Ans :=
  .next (match s.req? dst seq with
    | some r =>
      if s.now < r.sent + r.dl ∨ r.owner = .engine then s
      else
        match r.op, r.owner with
        | .chunk _ _ _ _ _ _ _, .bulk id _ =>
          (match s.bulk? id with
          | some k => (s.fredEnd k (some (0x1B, k.daddr))).bump 11 3 0 1
          | none => s.dropReq r)
        | _, _ =>
          let later := (s.openReqs dst).filter fun q => q.obit && seqAbove q.seq seq
          let s := s.timeoutAll (r :: later)
          let stn := s.stationFor dst (.abandon seq) none
          let a : FReq := ⟨dst, seq, false, .abandon seq, .engine, s.now, r.dl, 0, none, [], stn, s.now⟩
          ({ s with fab := { s.fab with unacked := s.fab.unacked ++ [a] } }).emit
            (.packet dst seq (s.lowOf dst) false (.abandon seq) stn)
    | none => s)

/-- MIGRATION_THRESHOLD: the record is written, or dropped where its queue is full, and the count returns to 0 (R386). -/
def execMigrationThreshold (asid vpage home : Nat) (s : State) : Ans :=
  let th := s.fab.mig.toNat % 65536
  .next (match s.fab.migs.find? fun m => m.asid == asid && m.vpage == vpage && m.home == home with
    | some m =>
      if th = 0 ∨ m.count < th then s
      else
        let s := { s with fab := { s.fab with migs := s.fab.migs.map fun (x : Mig) =>
          if x.asid = asid ∧ x.vpage = vpage then { x with count := 0 } else x } }
        match s.ioqPush (s.fab.mig.toNat / 65536 % 1024)
            (toBytes 16 (vpage % 2 ^ 56 + asid % 2 ^ 11 * 2 ^ 64 + home % 2 ^ 10 * 2 ^ 80 + th * 2 ^ 96)) with
        | (s, true) => s.bump 11 4 0 1
        | (s, false) => s.bump 11 5 0 1
    | none => s)

/-- LINK_TRAINING: a switch reports which package IDs it reaches (R387). A switch whose station is absent reports
nothing, and no station trains where the image was refused (22 R542). -/
def execLinkTraining (switch : Nat) (ids : List Nat) (s : State) : Ans :=
  .next (if s.pkg.caps.stations.contains switch && !s.pkg.bootFail then
    let old := s.fab.reach.map fun (p, ks) => (p, ks.filter (· != switch))
    let reach := ids.foldl (fun t p => put p (getD [] t p ++ [switch]) t) old
    { s with fab := { s.fab with reach := reach.filter fun (_, ks) => ks != [] } }
    else s)

/-! ### Registration (R399) -/

/-- The bytes of a descriptor: its ID, its member count, its members. -/
def descOf (bs : List Byte) : Collective :=
  let n := ofBytes ((bs.drop 2).take 2) % 2048
  ⟨BitVec.ofNat 16 (ofBytes (bs.take 2)), (List.range n).map fun i => ofBytes ((bs.drop (8 + 2 * i)).take 2) % 1024, 0⟩

namespace State

/-- The address of the descriptor. -/
def collAddr (s : State) : Nat := (s.fab.collHi.toNat % 2 ^ 30) * 2 ^ 32 + s.fab.collLo.toNat / 64 * 64

/-- Read bytes at a global physical address for the engine. -/
def physRead (s : State) : List (Nat × Nat) → State × BGot
  | [] => (s, .bytes [])
  | (pa, n) :: ps =>
    let (s, r) : State × BGot :=
      if gpaHome pa = s.self then
        match s.podRecall (pa / 64) false with
        | (s, false) => (s, .wait)
        | (s, true) => (s.readBy (pa / 64), .bytes (toBytes n (takeSec (s.cohRead (pa / 64)).bytes (pa % 64) n)))
      else
        match s.peekRemote (.source 0) (gpaHome pa) (.home (.read pa)) with
        | (s, some (.ok, v)) => (s, .bytes (toBytes n (takeSec v.bytes (pa % 64) n)))
        | (s, some (.fault code, _)) => (s, .fault code pa false)
        | (s, none) => (s, .wait)
    match r with
    | .bytes l =>
      match s.physRead ps with
      | (s, .bytes l') => (s, .bytes (l ++ l'))
      | r => r
    | r => (s, r)

/-- Whether a registration is refused (R399 rule 3). -/
def collBad (s : State) (c : Collective) : Bool :=
  c.members.length == 1 || decide (1024 < c.members.length) || !decide c.members.Nodup
    || (s.fab.bulks.any fun k => k.kind == 2 && k.coll == c.id)
    || (c.members != [] && (s.chunkSwitches c).isEmpty)

end State

/-- COLL_REGISTER: a write of FAB_COLL_HI, and with GO the start of a registration (R395, R399). -/
def execCollRegister (hi : Word) (s : State) : Ans :=
  let s := { s with fab := { s.fab with collHi := hi &&& 0x3FFFFFFF } }
  .next (if hi.getLsbD 31 && !s.fab.collBusy then { s with fab := { s.fab with collBusy := true } } else s)

/-- COLL_REGISTER_DONE: the descriptor has been read and every switch has acknowledged it: DONE, or ERR where it is
refused (R399). -/
def execCollRegisterDone (s : State) : Ans :=
  .next (if !s.fab.collBusy then s
    else
      let pa := s.collAddr
      match s.physRead (partsOf pa 8) with
      | (s, .wait) => s
      | (s, .fault _ _ _) => { s.dropAnswers (.source 0) with fab := { (s.dropAnswers (.source 0)).fab with
          collBusy := false, collErr := true } }
      | (s, .bytes h) =>
        match s.physRead (partsOf pa (8 + 2 * (ofBytes ((h.drop 2).take 2) % 2048))) with
        | (s, .wait) => s
        | (s, .fault _ _ _) => { s.dropAnswers (.source 0) with fab := { (s.dropAnswers (.source 0)).fab with
            collBusy := false, collErr := true } }
        | (s, .bytes bs) =>
          let s := s.dropAnswers (.source 0)
          let c := descOf bs
          if s.collBad c then { s with fab := { s.fab with collBusy := false, collErr := true } }
          else
            let rest := s.fab.colls.filter (·.id != c.id)
            { s with fab := { s.fab with
              collBusy := false, collDone := true, colls := if c.members = [] then rest else rest ++ [c] } })

/-- The FRED that a result chunk of an ID is for: the oldest that lacks the chunk and has sent its contribution, which a round
that ends abnormally need not have (R400, R402; assumption log 65). -/
def State.fredFor (s : State) (id : BitVec 16) (chunk : Nat) (st : FabStatus) : Option Bulk :=
  s.fab.bulks.find? fun k => k.kind == 2 && k.coll == id && !k.chunks.contains chunk && decide (64 * chunk < k.count)
    && (st != .ok || k.rem == 0)

/-- RESULT_CHUNK: a reduced chunk is written at the destination of its FRED, or the round ends abnormally (R400 to R402).
contribs lists the members' chunks by member index; this package's own is the one it sent. -/
def execResultChunk (id : BitVec 16) (chunk : Nat) (st : FabStatus) (contribs : List (List Word)) (s : State) : Ans :=
  .next (match s.fredFor id chunk st, s.collective? id with
    | some k, some c =>
      match st with
      | .fault code => s.fredEnd k (some (code, k.daddr))
      | .ok =>
        let es := chunkElems k chunk
        let mine := c.members.findIdx (· == s.self)
        let own := es.map fun i => k.vals.getD i 0
        let all := (List.range c.members.length).map fun m => if m = mine then own else contribs.getD m []
        let n := fredBytes k.fmt
        let bs := (List.range es.length).flatMap fun j =>
          toBytes n (narrowElem k.fmt (BitVec.ofNat 32 (reduceElem k.op (all.map fun x => (x.getD j 0).toNat))))
        match s.writeRange (s.bulkAgent k) (.source k.id) (k.daddr + 64 * n * chunk) bs with
        | (s, .wait) => s
        | (s, .fault code va _) => s.fredEnd k (some (code, va))
        | (s, .bytes _) =>
          let s := s.dropAnswers (.source k.id)
          let s := { s with fab := { s.fab with unacked := s.fab.unacked.filter fun r => r.owner != FOwner.bulk k.id chunk } }
          let s := s.modBulk k.id fun k => { k with chunks := k.chunks ++ [chunk] }
          if k.chunks.length + 1 = (k.count + 63) / 64 then s.fredEnd k none else s
    | _, _ => s)

/-! ### The fabric instructions (R396 to R403) -/

namespace State

/-- Bulk transfers of a thread whose requests are not all sent (R397 rule 3). -/
def unsent (s : State) (b g l : Nat) : Nat :=
  s.fab.bulks.countP fun k => k.blk == b && k.grp == g && k.lane == l && k.kind != 2 && k.rem != 0

/-- Three operands of a bulk form in one lane. -/
def bulkArgs (s : State) (c : Cur) (l : Nat) (a b n : Opnd) : Nat × Nat × Nat :=
  match s.grp? c.blk c.grp with
  | some y =>
    match y.threads[l]? with
    | some t => (src64 .l64 y t l a, src64 .l64 y t l b, src32 .l64 y t l n)
    | none => (0, 0, 0)
  | none => (0, 0, 0)

/-- The check of an FPUT or FGET in one lane. -/
def bulkChk (s : State) (c : Cur) (l : Nat) (a b n : Opnd) : State × Chk :=
  let (x, y, z) := s.bulkArgs c l a b n
  if x % 16 ≠ 0 then (s, .fault 0x08 x false)
  else if y % 16 ≠ 0 then (s, .fault 0x08 y false)
  else if z % 16 ≠ 0 then (s, .fault 0x08 x false)
  else (s, if z ≠ 0 ∧ 4 ≤ s.unsent c.blk c.grp l then .wait else .pass)

/-- Enter bulk transfers and work on each. An FRED of no elements joins its round and is complete (R400; assumption log 65). -/
def enterBulk (s : State) (c : Cur) (kind : Nat) (op : FOp3) (fmt : Fmt) (coll : BitVec 16) :
    List (Nat × Nat × Nat × Nat) → State
  | [] => s
  | (l, d, a, n) :: ls =>
    let t := s.thr? c.blk c.grp l
    let round := ((s.collective? coll).map (·.rounds)).getD 0
    let k : Bulk := ⟨s.nextId + 1, c.blk, c.grp, l, c.pc, kind, d, a, n, (t.map (·.ob)).getD 0, round, op, fmt, coll,
      if kind = 2 then n else 0, [], [], (t.map (·.priv)).getD false⟩
    let s := { s with nextId := s.nextId + 2, fab := { s.fab with
      bulks := if n = 0 then s.fab.bulks else s.fab.bulks ++ [k]
      colls := s.fab.colls.map fun (x : Collective) =>
        if kind = 2 ∧ x.id = coll then { x with rounds := x.rounds + 1 } else x } }
    (s.bulkPump k.id).enterBulk c kind op fmt coll ls

end State

/-- FPUT and FGET. -/
def bulkForm (i : Instr) (g : Guard) (s : State) (kind : Nat) (a b n : Opnd) : Ans :=
  issue i g s (fun s c l => s.bulkChk c l a b n) fun s c gt =>
    let s := if gt = [] then s else s.progress c.blk
    s.enterBulk c kind .add .fp32 0 ((gt.map fun l =>
      let (x, y, z) := s.bulkArgs c l a b n
      (l, x, y, z)).filter fun (_, _, _, z) => z != 0)

def execFput (g : Guard) (a b c : Opnd) (s : State) : Ans := bulkForm (.fput g a b c) g s 0 a b c

def execFget (g : Guard) (a b c : Opnd) (s : State) : Ans := bulkForm (.fget g a b c) g s 1 a b c

/-- FSIG: it waits for the requests of earlier FPUTs, then goes to its home from the head of the store queue (R398). -/
def signalForm (i : Instr) (g : Guard) (s : State) (add : Bool) (a b : Opnd) : Ans :=
  issue i g s
    (fun s c l =>
      let va := (s.bulkArgs c l a b (.k 0)).1
      if va % 8 ≠ 0 then (s, .fault 0x08 va false)
      else (s, if s.fab.bulks.any fun k => k.blk == c.blk && k.grp == c.grp && k.lane == l && k.kind == 0 && k.rem != 0
        then .wait else .pass))
    fun s c gt =>
      let s := if gt = [] then s else s.progress c.blk
      s.enterStore c false false 0 (gt.map fun l =>
        let (x, y, _) := s.bulkArgs c l a b (.k 0)
        (⟨l, x, .signal add (BitVec.ofNat 64 y), false, none, (s.agent c.blk c.grp l).priv⟩ : StLane))

def execFsigSet (g : Guard) (a b : Opnd) (s : State) : Ans := signalForm (.fsigSet g a b) g s false a b

def execFsigAdd (g : Guard) (a b : Opnd) (s : State) : Ans := signalForm (.fsigAdd g a b) g s true a b

def execFred (g : Guard) (op : FOp3) (fmt : Fmt) (id : BitVec 16) (a b c : Opnd) (s : State) : Ans :=
  issue (.fred g op fmt id a b c) g s
    (fun s cu l =>
      let (x, y, _) := s.bulkArgs cu l a b c
      if !((s.collective? id).map fun k => k.members.contains s.self).getD false then (s, .fault 0x11 x false)
      else if x % 16 ≠ 0 then (s, .fault 0x08 x false)
      else if y % 16 ≠ 0 then (s, .fault 0x08 y false)
      else (s, .pass))
    fun s cu gt =>
      let s := if gt = [] then s else s.progress cu.blk
      s.enterBulk cu 2 op fmt id (gt.map fun l =>
        let (x, y, z) := s.bulkArgs cu l a b c
        (l, x, y, z))

def execFatom (g : Guard) (op : Aop) (ty : Aty) (ord : Ord) (scp : Scp) (d a b c : Opnd) (s : State) : Ans :=
  let n := 4 * ty.regs
  let v (o : Opnd) (y : Group) (t : Thread) (l : Nat) : QWord :=
    BitVec.ofNat 128 (srcVal (.int (32 * ty.regs)) .l64 y t l o)
  issue (.fatom g op ty ord scp d a b c) g s
    (fun s cu l => s.addrChk cu l .g (fun y t l => src64 .l64 y t l a) n n true true)
    fun s cu gt =>
      let s := if gt = [] then s else s.progress cu.blk
      s.enterAcc cu (.fatom g op ty ord scp d a b c) .fatom (s.laneMap cu gt fun y t l =>
        ⟨l, src64 .l64 y t l a, v b y t l, v c y t l, .todo, t.priv⟩)

/-! ### Posted entries (06 R181 rule 3, R187) -/

namespace State

/-- The answer of a posted entry's request, at a peer or at the host. -/
def postedResult (s : State) (core id : Nat) : Option (FabStatus × SecVal) :=
  match s.fab.unacked.find? fun r => r.owner == .posted core id with
  | some r => r.result
  | none => (s.hst.reqs.find? fun r => r.owner == .posted core id).bind (·.result)

/-- The request of a posted entry is gone, and so is the entry. -/
def postedFree (s : State) (core id : Nat) : State :=
  let s := { s with
    fab := { s.fab with unacked := s.fab.unacked.filter fun r => r.owner != FOwner.posted core id }
    hst := { s.hst with reqs := s.hst.reqs.filter fun r => r.owner != FOwner.posted core id } }
  (s.modCore core fun x => { x with posted := x.posted.filter (·.id != id) }).drainPost core id

end State

/-- POSTED_ACK: the acknowledgement of a posted entry has returned; the entry is freed (06 R181). -/
def execPostedAck (core id : Nat) (s : State) : Ans :=
  .next (match (s.core core).posted.find? (·.id == id), s.postedResult core id with
    | some p, some (.ok, _) => (s.postedFree core id).progress p.blk
    | _, _ => s)

/-- STORE_FAULT_DEFERRED: the fault of a posted entry goes to its thread's deferred record (06 R187). -/
def execStoreFaultDeferred (core id : Nat) (code : BitVec 8) (s : State) : Ans :=
  .next (match (s.core core).posted.find? (·.id == id), s.postedResult core id with
    | some p, some (.fault c, _) =>
      if c = code then (s.postedFree core id).storeFault p.blk p.grp p.lane p.pc p.va code else s
    | _, _ => s)

end Sys2Proof.Machine
end

