-- ==== Sys2Proof/Machine/Engines.lean ====
section
/-! DEFINITION. Events of the issue engine, the basting unit, the load/store engine, the publish engine and the weight
store (04 R110 to R113; 06 R176, R177, R181, R186, R206; 08 R238 to R245; 09 R263, R264; 12 R334 to R338). -/

namespace Sys2Proof.Machine

/-! ### The issue engine (R111, R113) -/

/-- READY_WAIT_FAVOUR: an eligible thread whose wait count has reached 4,096 becomes the favoured one, as R111 chooses
it. -/
def execReadyWaitFavour (blk grp : Nat) (s : State) : Ans :=
  .next (match s.grp? blk grp with
    | some y =>
      if (s.eligible blk y).any fun l => (y.threads[l]?).any (4096 ≤ ·.ready) then
        s.modGrp blk grp fun z => { z with fav := (s.choosePc blk y (s.readyAt blk grp y)).1.fav }
      else s
    | none => s)

/-- GROUP_WAIT_PRIORITY: a group whose wait count has reached 4,096 issues first. -/
def execGroupWaitPriority (blk grp : Nat) (s : State) : Ans :=
  .next (s.modGrp blk grp fun y => if 4096 ≤ y.waits then { y with prio := true } else y)

/-! ### Basting (R238 to R240, R244) -/

/-- An outstanding LD or LDV of .G without NB (R238, R239). -/
def canTrigger : Instr → Bool
  | .ld _ _ _ sp nb _ _ _ | .ldv _ _ sp nb _ _ _ => sp == .g && !nb
  | _ => false

namespace State

/-- The load that the consumer of an issue group waits for. -/
def triggerOf (s : State) (b g : Nat) (y : Group) : Option Acc :=
  match (s.choosePc b y (s.readyAt b g y)).2 with
  | none => none
  | some pc =>
    let ls := (s.eligible b y).filter fun l => (y.threads[l]?).any (·.pc == pc)
    match s.cachedAt y.core (((s.blk? b).map (·.asid)).getD 0) pc with
    | some (.ins i _) =>
      s.accs.find? fun a => a.blk == b && a.grp == g && canTrigger a.ins && decide (y.bastTh < s.now - a.issued)
        && y.lastTrig != some a.id
        && (match retDst a.ins with
          | some (d, n) => (d.isS || a.lanes.any fun z => ls.contains z.lane)
              && i.uses.any fun u => !u.dst && opndsMeet d n u.op u.regs
          | none => false)
    | _ => none

/-- The record of an entry, less the slots of the loads in flight. -/
def basteRecord (s : State) (y : Group) (a : Acc) : Baste where
  trigger := a.id
  since := s.now
  pcs := y.threads.map (·.pc)
  vs := y.threads.map (·.v)
  ps := y.threads.map (·.p)
  sds := y.threads.map (·.sdcnt)
  s := y.s
  fpstat := y.fpstat
  slotV := List.replicate 32 []
  slotP := List.replicate 32 false
  slotS := []
  invV := List.replicate 32 []
  invP := List.replicate 32 0
  invS := []

/-- The destinations of every returning access of the group take slots marked invalid (R240 rule 5). -/
def basteSlots (s : State) (b g : Nat) (z : Baste) : Baste :=
  s.accs.foldl (fun z a =>
    match retDst a.ins with
    | some (d, n) =>
      if a.blk = b ∧ a.grp = g then
        let (vs, ss) := opndRegs d n
        let addTo (t : List (List Nat)) : List (List Nat) := a.lanes.foldl (fun t q => t.modify q.lane fun r =>
          r ++ vs.filter fun k => !r.contains k) t
        { z with
          slotV := addTo z.slotV
          invV := addTo z.invV
          slotS := z.slotS ++ ss.filter fun k => !z.slotS.contains k
          invS := z.invS ++ ss.filter fun k => !z.invS.contains k }
      else z
    | none => z) z

/-- A group enters basting where the conditions of R238 hold. Where the slots of the loads in flight do not fit, basting
ends at once (R244 rule 2). -/
def bastingEnter (s : State) (b g : Nat) : State :=
  match s.blk? b, s.grp? b g with
  | some x, some y =>
    if y.bast.isSome || !y.bastOn || y.ended || x.halting.contains y.core || (s.core y.core).haltReq.isSome
        || y.threads.any (·.txn.isSome) then s
    else
      match s.triggerOf b g y with
      | none => s
      | some a =>
        let z0 := s.basteRecord y a
        let live := (List.range 32).filter fun l => (y.threads[l]?).any (!·.exited)
        if live.any fun l => y.freeSlots z0 x.fr.regs l = 0 then s
        else
          let z := s.basteSlots b g z0
          let full := live.any fun l => y.freeSlots z0 x.fr.regs l <
            (z.slotV.getD l []).length + (if l = y.lowLive then z.slotS.length else 0)
          let s := (s.modGrp b g fun y => { y with bast := some z }).bump 4 0 (4 * y.core + y.quad) 1
          if full then s.bastingOver b g else s
  | _, _ => s

end State

/-- BASTING_ENTRY. -/
def execBastingEntry (blk grp : Nat) (s : State) : Ans := .next (s.bastingEnter blk grp)

/-- BASTING_END: the triggering load has ended, or a halt has begun (R244). -/
def execBastingEnd (blk grp : Nat) (s : State) : Ans :=
  .next (match s.blk? blk, s.grp? blk grp with
    | some x, some y =>
      match y.bast with
      | some z =>
        let over_ := match s.acc? z.trigger with
          | some a => a.over
          | none => true
        if over_ || x.halting.contains y.core || (s.core y.core).haltReq.isSome then s.bastingOver blk grp else s
      | none => s
    | _, _ => s)

/-! ### The load/store engine -/

/-- STORE_QUEUE_RETIRE (R181). -/
def execStoreQueueRetire (blk grp : Nat) (s : State) : Ans := .next (s.retire blk grp)

/-- LOAD_DATA_RETURN (R186, R549). -/
def execLoadDataReturn (acc : Nat) (s : State) : Ans := .next (s.pursue acc)

/-- TRANSACTION_TIMEOUT: 16,384 cclk after its XBEG a transaction aborts with cause 0x15 (R205). -/
def execTransactionTimeout (blk grp lane : Nat) (s : State) : Ans :=
  .next (match (s.thr? blk grp lane).bind (·.txn) with
    | some x => if x.began + 16384 ≤ s.now then s.abortTxn blk grp lane 0x15 0 0 else s
    | none => s)

namespace State

def modCarve (s : State) (c : Nat) (f : Carve → Carve) : State := s.modCore c fun x => { x with carve := f x.carve }

/-- A write of DSP_CARVE_REQ (R176, R177). -/
def carveWrite (s : State) (v : Word) : State :=
  let c := v.toNat % 256
  let n : BitVec 3 := v.extractLsb' 8 3
  if !v.getLsbD 31 then s
  else if !s.pkg.caps.cores.contains c || (s.core c).carve.busy then s.modCarve c fun k => { k with err := true }
  else if n = (s.core c).carve.cur then s.modCarve c fun k => { k with tgt := n, done := true }
  else s.modCarve c fun k => { k with tgt := n, busy := true }

/-- No resident block holds a portion at a carve-out offset from n ways on. -/
def portionsBelow (s : State) (c n : Nat) : Bool :=
  s.blocks.all fun (_, x) => !x.cores.contains c || decide (x.fr.scratch = 0)
    || decide (x.scrOff.getD (x.cores.idxOf c) 0 + portion x.fr.scratch x.cores.length ≤ 65536 * n)

end State

/-- CARVE_REQUEST. -/
def execCarveRequest (v : Word) (s : State) : Ans := .next (s.carveWrite v)

/-- CARVE_COMPLETE: the ways given up are empty, or the portions given up are free (R177). -/
def execCarveComplete (core : Nat) (s : State) : Ans :=
  let k := (s.core core).carve
  let ready := if k.cur.toNat < k.tgt.toNat then s.waysFree core else s.portionsBelow core k.tgt.toNat
  .next (if k.busy && ready then s.modCarve core fun k => { k with cur := k.tgt, busy := false, done := true } else s)

/-! ### The publish engine (R263, R264) -/

namespace State

/-- A publish request is served: answered at once where its sequence is not in the window, else a drain (R263). -/
def pubServe (s : State) (c : Nat) (who : PubWho) (q : Word) : State :=
  let s := s.bump 5 2 c 1
  if (s.core c).inWindow q then s.publishTo c q (some ⟨who, q⟩) else s.pubReply c who q

/-- Take a message off the mesh. -/
def take (s : State) (m : Msg) : State := { s with net := s.net.erase m }

/-- The acknowledgement of a publish in the package, which carries the watermark pw: one of its messages is taken off the
mesh, in no order (01 R26; 09 R264). -/
def pubAckOwn (s : State) (core : Nat) (pw : Word) : State :=
  let ms := s.net.filter fun m => m.kind == .pubAck && m.core == core && m.seq == pw && s.landed m
  match ms[Config.netPick s.now % ms.length]? with
  | none => s
  | some m =>
    let s := s.take m
    let q : Asked := ⟨s.self, core, BitVec.ofNat 32 (m.sec - 2 ^ 62)⟩
    match m.who with
    | .core c => s.pubDone c q m.seq
    | .slice sec => if (s.cohRead sec).tag.any q.is then (s.untag sec).serveHeld else s.serveHeld
    | .peer _ _ => s

/-- The answer of another package to the oldest publish request open toward a core of it. -/
def pubAckFar (s : State) (pkg core : Nat) (pw : Word) (st : FabStatus) : State :=
  match s.fab.unacked.find? fun r => r.dst == pkg && r.result.isNone && (match r.op with
    | .pub k _ => k == core
    | _ => false) with
  | none => s
  | some r =>
    match r.op, r.owner with
    | .pub k n, .pub c =>
      let s := { s with fab := { s.fab with unacked := s.fab.unacked.filter fun q =>
        !(q.dst == r.dst && q.seq == r.seq && q.op == r.op) } }
      match st with
      | .ok => s.pubDone c ⟨pkg, k, n⟩ pw
      | .fault code => s.pubFailed c ⟨pkg, k, n⟩ code
    | _, _ => (s.answer r st SecVal.zero []).serveHeld

end State

/-- PUB_REQ: from this package as a message of the mesh, from a peer by the fabric; a package that is not open answers a
peer PEER_DOWN (R264, 16 R409). -/
def execPubReq (core : Nat) (who : PubWho) (seq : Word) (s : State) : Ans :=
  .next (match who with
    | .peer pkg _ =>
      if s.homeOpen then s.pubServe core who seq else s.emit (.pubAck pkg core 0 (.fault 0x1C))
    | _ =>
      match s.net.find? fun m => m.kind == .pubReq && m.core == core && m.sec == pubKey seq && m.who == who && s.landed m with
      | some m => (s.take m).pubServe core who seq
      | none => s)

/-- PUB_ACK. -/
def execPubAck (pkg core : Nat) (pw : Word) (st : FabStatus) (s : State) : Ans :=
  .next (if pkg = s.self then s.pubAckOwn core pw else s.pubAckFar pkg core pw st)

/-! ### The weight store (12 R334, R336, R338) -/

namespace State

/-- A write request at the weight-store controllers, in accesses of n bytes: one through the window, or those of a copy
command: its state and its completion status (R331, R334). -/
def weightWrite (s : State) (io : Bool) (a n : Nat) (bs : List Byte) : State × FabStatus :=
  if !io || decide (2 ^ 30 < a + bs.length) then (s, .fault 0x28)
  else if a % max 1 n ≠ 0 then (s, .fault 0x08)
  else if s.wsReaders != 0 then (s, .fault 0x28)
  else ({ s with wsWrite := s.wsWrite ++ [(a, bs)] }, .ok)

/-- The poison of the segments of .W after some bytes are written: a segment is rewritten, and no longer poisoned, once
every byte of it has been written (R332). -/
def wsClear (p : Tab (BitVec 128)) (a n : Nat) : Tab (BitVec 128) :=
  p.filterMap fun (k, m) =>
    let m := (List.range 128).foldl (fun (m : BitVec 128) i =>
      if a ≤ 128 * k + i ∧ 128 * k + i < a + n then m &&& ~~~(1#128 <<< i) else m) m
    if m = 0 then none else some (k, m)

/-- The oldest accepted write has reached the store (R334 rule 1); WSC_WRITES counts its segments (R339). -/
def weightDone (s : State) : State :=
  match s.wsWrite with
  | (a, bs) :: ws =>
    let n := bs.length
    ({ s with
      wsWrite := ws
      wstore := s.wstore.setBytes a bs
      wsPoison := wsClear s.wsPoison a n }).bump 8 1 (a / 2 ^ 28) (if n = 0 then 0 else (a + n - 1) / 128 - a / 128 + 1)
  | [] => s

end State

/-- WEIGHT_STORE_WRITE: accepted while the reader count is zero; its completion status goes to the service core. -/
def execWeightStoreWrite (ioCore : Bool) (addr nbytes : Nat) (v : List Byte) (s : State) : Ans :=
  let (s, st) := s.weightWrite ioCore addr nbytes v
  .next (s.emit (.svc st 0))

/-- WEIGHT_STORE_WRITE_COMPLETE. -/
def execWeightStoreWriteComplete (s : State) : Ans := .next s.weightDone

/-- REFRESH_WINDOW_START: the schedule is a function of the clock (R336), so nothing else changes. -/
def execRefreshWindowStart (_die _group : Nat) (s : State) : Ans := .next s

/-- REFRESH_WINDOW_END: the reads that waited for the bank group are served (R338). -/
def execRefreshWindowEnd (die group : Nat) (s : State) : Ans :=
  .next ((s.accs.filter fun a => a.kind == .ldw && a.lanes.any fun z =>
    z.st == .todo && z.va / 2 ^ 28 % 4 == die && z.va / 2 ^ 25 % 8 == group).foldl (fun s a => s.pursue a.id) s)

end Sys2Proof.Machine
end

