-- ==== Sys2Proof/Machine/Directory.lean ====
section
/-! DEFINITION. What the slice directory builds on: slices and hints, the messages of a sector, the end of a
transaction, and requests that fail (10 R280 to R288). -/

namespace Sys2Proof.Machine

/-- The core that a request of an L1 names. -/
def DReq.core? : DReq → Option Nat
  | .gets c | .getx c | .getz c | .upg c | .cflq c | .cinvq c => some c
  | _ => none

/-- A request that ends with its core the only holder. -/
def DReq.owning : DReq → Bool
  | .getx _ | .getz _ | .upg _ => true
  | _ => false

/-- A request that ends with the sector in no L1. -/
def DReq.clears : DReq → Bool
  | .cinvq _ => true
  | _ => false

namespace State

/-- The sector lives outside this package: homed elsewhere, or in host memory. -/
def far (s : State) (sec : Nat) : Bool := !s.homed sec || hostSec sec

/-- The first message of a kind for a core and a sector that has arrived. -/
def msg? (s : State) (k : MKind) (core sec : Nat) : Option Msg :=
  s.net.find? fun m => m.kind == k && m.core == core && m.sec == sec && s.landed m

/-- A core's request for a sector is a non-binding read of its basting units, which no other access has joined (08 R243). -/
def nonBinding (s : State) (c sec : Nat) : Bool := (s.l1? c sec).any fun e => e.st == .isd && e.baste.isSome

/-- A non-binding read is dropped: its miss entry ends, and BST_DROPPED counts it (08 R243 rules 4 and 6, R248). -/
def dropRead (s : State) (c sec : Nat) : State :=
  match (s.l1? c sec).bind (·.baste) with
  | some q => (s.delL1 c sec).bump 4 4 (4 * c + q) 1
  | none => s

/-- The hint of the access for which a core asks for a sector. -/
def askHint (s : State) (r : DReq) (sec : Nat) : BitVec 2 :=
  match r with
  | .pref h => h
  | r => ((r.core?.bind fun c => s.l1? c sec).map (·.hnt)).getD 0

/-! ### The end of a transaction (R286) -/

/-- Act on a PUTM at a stable entry; WB_ACK in every case (R285). The flag of R282 of a PUTM that was held is the one that
holds now: HELD and HCORE keep none (DESIGN CHOICE, assumption log 22). -/
def putmRows (s : State) (core sec : Nat) (v : SecVal) (last : Bool) : State :=
  let e := s.dirE sec
  let clv := if last then e.clv &&& ~~~(clvBit (core / 4)) else e.clv
  let s := if (e.st = .x ∨ e.st = .o) ∧ e.owner = core then
      s.setDir sec { e with
        val := v, lv := true, ld := true, owner := 0
        st := if e.st = .x then .i else .s
        clv := if e.st = .x then 0 else clv }
    else s.setDir sec { e with clv := clv }
  s.msg .wbAck core sec SecVal.zero 0

/-- The entry becomes stable: a held PUTM is acted on before anything else. -/
def dirSettle (s : State) (sec : Nat) : State :=
  let e := s.dirE sec
  let s := s.setDir sec { e with trans := .stable, req := none, grant := none, acks := 0, keeps := false, held := none }
  match e.held with
  | some (c, v) => s.putmRows c sec v (s.lastHolder c sec)
  | none => s

/-! ### Requests that fail (R288) -/

/-- The lanes of a core that wait for a sector under a name fault. -/
def failLanes (s : State) (c asid vsec : Nat) (code : BitVec 8) : State :=
  let mine (a : Acc) : Bool := ((s.grp? a.blk a.grp).map (·.core)) == some c
    && ((s.blk? a.blk).map (·.asid)) == some asid && a.kind != .atomic && retSpc a.ins == .g
  let ids := (s.accs.filter mine).map (·.id)
  let s' := { s with accs := s.accs.map fun (a : Acc) => if mine a then
    { a with lanes := a.lanes.map fun z =>
      if z.st.ready ∧ z.va / 64 = vsec then { z with st := .fault code z.va false none } else z } else a }
  ids.foldl (fun s id => s.settle id) s'

/-- The lanes at the heads of a core's store queues that wait for a sector under a name fault. -/
def failQueues (s : State) (c asid vsec : Nat) (code : BitVec 8) : State :=
  let lane (z : StLane) : StLane := if !z.done && z.va / 64 == vsec then { z with fail := some code } else z
  let head (l : List StEntry) : List StEntry :=
    match l with
    | e :: es => (if e.shared then e else { e with lanes := e.lanes.map lane }) :: es
    | [] => []
  let blk (x : Block) : Block := if x.asid = asid then { x with groups := x.groups.map fun y =>
    if y.core = c then { y with storeQ := head y.storeQ } else y } else x
  { s with blocks := s.blocks.map fun (b, x) => (b, blk x) }

/-- The sector at which an address of an address space lies, by the cluster's TLB or the tables. -/
def vaSec (s : State) (core asid va : Nat) : Option Nat :=
  match (getD [] s.xlt.tlb (core / 4)).find? fun e => e.asid == asid && e.vpage ≤ va && va < e.vpage + e.size with
  | some e => some (e.phys va / 64)
  | none => (s.walk asid va).map fun (_, lvl, p) => (tlbOf asid va lvl p).phys va / 64

/-- Change the CFLUSH or CINV of the first thread of a core whose step for a sector is with the slice. -/
def modMaint (s : State) (core sec : Nat) (f : Maint → Maint) : State :=
  let hits := s.blocks.flatMap fun (b, x) => x.groups.zipIdx.flatMap fun (y, g) =>
    if y.core = core then y.threads.zipIdx.filterMap fun (t, l) => match t.maint with
      | some m => if m.sent && s.vaSec core x.asid (rangePart m.base m.len m.next).1 == some sec then some (b, g, l)
          else none
      | none => none
    else []
  match hits with
  | (b, g, l) :: _ => s.modThr b g l fun t => { t with maint := t.maint.map f }
  | [] => s

/-- The recorded request of an entry completes with a fault: granted to no one (R288). -/
def dirFail (s : State) (sec : Nat) (code : BitVec 8) : State :=
  match (s.dirE sec).req with
  | none => s
  | some r =>
    let s := match r with
      | .cflq c | .cinvq c => s.modMaint c sec fun m => { m with fail := some code }
      | .gets c | .getx c | .getz c | .upg c =>
        match s.l1? c sec with
        | none => s
        | some e =>
          let s := if s.nonBinding c sec then s.dropRead c sec else s
          let s := match e.st with
            | .sma => s.setL1 c sec { e with st := .s }
            | .oma => s.setL1 c sec { e with st := .o }
            | _ => s.delL1 c sec
          let s := if (find? sec (s.core c).pend).isSome then s.failPend c sec code else s.failQueues c e.asid e.vsec code
          -- SEAM_DENY refuses ownership alone: a load that shared the request asks again (16 R419)
          if code = 0x1A then s else s.failLanes c e.asid e.vsec code
      | _ => s
    s.dirSettle sec

end State

end Sys2Proof.Machine
end

