-- ==== Sys2Proof/Machine/Walk.lean ====
section
/-! DEFINITION. What the death of a cell, or of the host, does to one pod directory entry and to one line of the LLC: the
rows of the Mending walk (17 R436 to R438; 21 R529). A transaction of the home that ends with a fault (16 R427). -/

namespace Sys2Proof.Machine

/-! ### A transaction of the home ends with a fault (R427) -/

namespace State

/-- A package's request to the home ends with a fault. -/
def podRefuse (s : State) (src sec : Nat) (code : BitVec 8) : State := s.podSend src (.refuse code) sec SecVal.zero

/-- What a transaction leaves when it ends without its last answers: the owner, where it has not answered a forward and
the request was not its own; the sharers; or nothing. -/
def podLeft (s : State) (b : Nat) (e : PodE) : State :=
  let ownerGone := e.fwd && !(e.acks.contains (if e.hown then 1024 else e.owner))
  let e' : PodE := { e with trans := .stable, req := none, acks := [], fwd := false, dirty := false }
  if (e.st = .x ∨ e.st = .o) ∧ !ownerGone then s.podPut b e'
  else if e.mv = 0 ∧ e.cv = 0 ∧ !e.host then s.podDel b
  else s.podPut b { e' with st := .s, owner := 0, hown := false }

/-- A transaction of the home ends with a fault for whoever asked (R427 rules 1 to 3, 6). -/
def podAbort (s : State) (sec : Nat) (code : BitVec 8) : State :=
  match s.podFind sec with
  | none => s
  | some (b, e) =>
    match e.req with
    | none => s
    | some r =>
      let held := e.held
      let s := (List.range (2 ^ e.sz)).foldl (fun s i => s.podOver (b + i) fun _ => true) (s.podLeft b { e with held := none })
      let s := match r.who with
        | .pkg p => (s.podRefuse p sec code).podFree sec
        | .host => s.emit (.hostReply (64 * sec) ⟨0, none, true⟩ true)
        | _ => if r.kind ≠ .evict ∧ (s.dirE sec).trans = .bH ∧ (((s.dirE sec).req.bind DReq.core?).isSome) then s.dirFail sec code else s
      match held with
      | some (p, v) => s.podWb sec p v
      | none => s

end State

/-! ### The rows of the walk (R437) -/

/-- Who died. -/
inductive Dead where
  | cell (c : Nat)
  | host
  deriving DecidableEq, Repr

/-- The entry without its dead sharers. -/
def PodE.withoutDead (e : PodE) (d : Dead) : PodE :=
  if e.st = .x then e
  else
    match d with
    | .cell c => { e with cv := e.cv &&& ~~~(1#64 <<< c) }
    | .host => { e with host := false }

namespace State

/-- A package, or 1024 for the host, is dead. -/
def deadAck (s : State) (d : Dead) (p : Nat) : Bool :=
  match d with
  | .cell c => p != 1024 && s.cellOf p == some c
  | .host => p == 1024

/-- The recorded owner is dead. -/
def deadOwner (s : State) (d : Dead) (e : PodE) : Bool :=
  (e.st == .x || e.st == .o) && s.deadAck d (if e.hown then 1024 else e.owner)

/-- The requester of a transaction is dead. -/
def deadReq (s : State) (d : Dead) (e : PodE) : Bool :=
  match e.req with
  | some ⟨.pkg p, _⟩ => s.deadAck d p
  | some ⟨.host, _⟩ => d == .host
  | _ => false

/-- Set the poison mark of a sector, and PSN in the home LLC (R425). -/
def poisonHome (s : State) (sec : Nat) : State :=
  let s := { s with hom := { s.hom with
    poison := if s.hom.poison.contains sec then s.hom.poison else s.hom.poison ++ [sec] } }
  if (s.dirE sec).lv then s.modDir sec fun e => { e with val := { e.val with psn := true } } else s

/-- The sector of a dead owner: its received writeback is written, or the sector is poisoned; the sharers stay. -/
def ownerDied (s : State) (b : Nat) (e : PodE) : State × Bool :=
  let put (s : State) : State :=
    if e.st = .x then s.podDel b else s.podPut b { e with st := .s, owner := 0, hown := false, held := none }
  match (e.held.bind fun (p, v) => if !e.hown && p == e.owner then some v else none) with
  | some v => (put (s.llcPut b v true), false)
  | none =>
    let s := (put s).poisonHome b
    (if e.st = .x then s
      else (s.podSharers e .home).foldl (fun s p => if p = 1024 then s else s.podAsk p .poisonNotice b) s, true)

/-- The visit of the entry that covers a sector; true where the sector is poisoned. -/
def entryVisit (s : State) (d : Dead) (sec : Nat) : State × Bool :=
  match s.podFind sec with
  | none => (s, false)
  | some (b, e) =>
    let e := e.withoutDead d
    let s := s.podPut b e
    let ends := e.trans != .stable && s.deadReq d e
    let waits := e.trans != .stable && s.deadOwner d e && e.fwd && e.acks.contains (if e.hown then 1024 else e.owner)
    let s :=
      if ends then
        let s := (s.podLeft b { e with held := none }).podFree b
        match e.held with
        | some (p, v) => s.podWb b p v
        | none => s
      else if waits && d != .host then s.podAbort b 0x1C
      else if e.trans != .stable then
        let s := if waits then s.poisonHome b else s
        let e := { e with acks := e.acks.filter fun p => !s.deadAck d p }
        let s := s.podPut b e
        if e.acks = [] then s.podFinish b else s
      else s
    match s.podFind sec with
    | some (b, e) => if e.trans == .stable && s.deadOwner d e then s.ownerDied b e else (s, false)
    | none => (s, false)

/-- A line of host memory when the host dies: its copies, and the sector and its tag, are discarded at once (R529 rule 3). -/
def lineVisit (s : State) (sec : Nat) : State :=
  if (s.dirE sec).pkgst = .i then s
  else
    let s := s.dropLocal sec
    s.modDir sec fun e => { e with lv := false, ld := false, pkgst := .i, val := SecVal.zero }

/-! ### A request meets what is not yet visited (R436) -/

/-- Visit the entry of a sector for one walk. -/
def walkEntry (s : State) (w : Walk) (sec : Nat) : State :=
  let (s, psn) := (s.bump 13 2 0 1).entryVisit (.cell w.cell) sec
  let s := if psn then s.bump 13 3 0 1 else s
  { s with mnd := { s.mnd with walks := s.mnd.walks.map fun (x : Walk) => if x.cell = w.cell then { x with
    entries := x.entries.filter (· != sec)
    poisoned := x.poisoned + if psn then 1 else 0 } else x } }

/-- The line of a sector has been visited: the sector and its tag are discarded, whatever walk asked for it (R438). -/
def lineGone (s : State) (sec : Nat) : State :=
  let s := s.modDir sec fun e => { e with
    st := .i, clv := 0, owner := 0, lv := false, ld := false, pkgst := .i, val := SecVal.zero }
  { s with mnd := { s.mnd with walks := s.mnd.walks.map fun (x : Walk) => { x with lines := x.lines.filter (· != sec) } } }

/-- Invalidate every L1 copy of a sector homed in a dead cell, and wait for the acknowledgements (R438, 10 R285). -/
def lineRecall (s : State) (sec : Nat) : State :=
  let e := s.dirE sec
  let cs := (List.range 64).filter fun c => e.clv.getLsbD c || ((e.st == .x || e.st == .o) && e.owner / 4 == c)
  if cs = [] then s.lineGone sec
  else (s.setDir sec { e with trans := .bI, req := some (.recall .lost), acks := cs.length }).sendInvs sec cs none

/-- Visit the line of a sector for a walk; a transient line is waited for. Where L1s hold copies, these are recalled, and
the line is discarded with the last acknowledgement. -/
def walkLine (s : State) (sec : Nat) : State :=
  if (s.dirE sec).trans = .stable then (if (s.dirE sec).st = .i then s.lineGone sec else s.lineRecall sec) else s

/-- The entry, or the line, of a sector is visited first by every walk that has not visited it. -/
def walkMeet (s : State) (sec : Nat) : State :=
  s.mnd.walks.foldl (fun s w =>
    let s := match s.podFind sec with
      | some (b, e) => (w.entries.filter fun k => decide (b ≤ k) && decide (k < b + 2 ^ e.sz)).foldl
          (fun s k => s.walkEntry w k) s
      | none => s
    if w.lines.contains sec then s.walkLine sec else s) s

end State

end Sys2Proof.Machine
end

