-- ==== Sys2Proof/Machine/Slice.lean ====
section
/-! DEFINITION. The slice directory: its state table, its FIFO, memory steps, and the L1 side of every message (10 R280
to R298; 09 R261). -/

namespace Sys2Proof.Machine

/-- A recall that leaves this package no copy. -/
def Recall.takes : Recall → Bool
  | .x | .inv | .lost => true
  | .s | .dg => false

namespace State

/-! ### Grants (R285) -/

/-- No holder is known outside this L1: no other package, and not the host. -/
def soleHolder (s : State) (sec : Nat) : Bool :=
  if s.far sec then (s.dirE sec).pkgst == .e || (s.dirE sec).pkgst == .m
  else (s.podFind sec).isNone

/-- Send the grant of a request and wait for DONE. -/
def grant (s : State) (sec : Nat) (r : DReq) : State :=
  let e := s.dirE sec
  match r with
  | .gets c =>
    let b := clvBit (c / 4)
    if e.st = .i then
      -- a non-binding read takes no ownership (08 R243 rule 6)
      let k : MKind := if s.soleHolder sec && !s.nonBinding c sec then .dataE else .dataS
      let st : DirSt := if k = .dataE then .x else .s
      (s.setDir sec { e with trans := .bD, req := some r, clv := b, grant := some ⟨c, st, c⟩ }).msg k c sec e.val 0
    else
      let st : DirSt := if e.st = .o then .o else .s
      (s.setDir sec { e with trans := .bD, req := some r, clv := e.clv ||| b, grant := some ⟨c, st, e.owner⟩ }).msg
        .dataS c sec e.val 0
  | .getx c | .getz c | .upg c =>
    let s := s.setDir sec { e with
      trans := .bD, req := some r, clv := clvBit (c / 4), grant := some ⟨c, .x, c⟩
      pkgst := if s.far sec then .m else e.pkgst }
    if e.keeps then s.msg .upgAck c sec SecVal.zero 0 else s.msg .dataM c sec e.val 0
  | _ => s.dirSettle sec

/-- The step of a CFLQ or CINVQ at memory begins (R285). -/
def memStep (s : State) (sec : Nat) (r : DReq) : State :=
  s.modDir sec fun e => { e with trans := .bW, req := some r }

/-- A writeback of a far sector that its home has not acknowledged. -/
def wbOpen (s : State) (sec : Nat) : Option SecVal :=
  (s.fab.unacked ++ s.fab.waiting).findSome? fun r => match r.op with
    | .wb k v => if k = sec then some v else none
    | _ => none

/-- A home's recall meets a package without a copy: data that the package has given, or has on its way, answers again
(16 R424 rules 2 and 3). -/
def recallEmpty (s : State) (sec : Nat) (k : Recall) : State :=
  let home := secHome sec
  if k = .lost then s
  else if k = .inv then s.podSend home .invAck sec SecVal.zero
  else
    match (find? sec s.fab.kept).orElse fun _ => s.wbOpen sec with
    | some v => s.podSend home (.fwdData true) sec v
    | none => s.podSend home .empty sec SecVal.zero

/-- The package's copy of a far sector, which no L1 holds as its owner, goes to the home that recalls it (16 R422, R424). -/
def recallAnswer (s : State) (sec : Nat) (k : Recall) : State :=
  let home := secHome sec
  let e := s.dirE sec
  let gone := { e with lv := false, ld := false, pkgst := .i, val := SecVal.zero }
  if k = .lost then s.lineGone sec
  else if k = .inv then (s.setDir sec gone).podSend home .invAck sec SecVal.zero
  else
    let s := match k with
      | .s => s.setDir sec { e with pkgst := if e.ld then .o else .s }
      | .dg => s.setDir sec { e with pkgst := .s, ld := false }
      | _ => s.setDir sec gone
    ({ s with fab := { s.fab with kept := put sec e.val s.fab.kept } }).podSend home (.fwdData e.ld) sec e.val

/-- A recall that meets a request of this package waiting in B_H for that same home: it is answered at once, as R424 rule 4
has a loser's copy discarded before its own UPG is served (DEDUCED, assumption log 22). -/
def recallNow (s : State) (sec : Nat) (k : Recall) : State :=
  if (s.dirE sec).pkgst = .i then s.recallEmpty sec k
  else (if k.takes then s.dropLocal sec else s.pullLocal sec).recallAnswer sec k

/-- An entry in B_F, B_FI or B_I has what it waited for (R285). -/
def dirGo (s : State) (sec : Nat) : State :=
  let e := s.dirE sec
  match e.req with
  | none => s
  | some r =>
    match r with
    | .cflq _ => s.memStep sec r
    | .cinvq _ => (s.setDir sec { e with st := .i, clv := 0, owner := 0 }).memStep sec r
    | .recall k =>
      let s := if k.takes then s.setDir sec { e with st := .i, clv := 0, owner := 0 } else s
      (s.recallAnswer sec k).dirSettle sec
    | .gets _ => s.grant sec r
    | _ => (s.setDir sec { e with st := .i }).grant sec r

/-- Invalidate the CLV clusters, each but for a core left out, and wait for their acknowledgements; with none the
transaction goes on (R285, B_I). -/
def invWait (s : State) (sec : Nat) (r : DReq) (keep : Bool) (but : Option Nat) : State :=
  let e := s.dirE sec
  let s := (s.setDir sec { e with trans := .bI, req := some r, acks := e.clusters.length, keeps := keep }).sendInvs sec
    e.clusters but
  if e.clusters = [] then s.dirGo sec else s

/-- The rows of CFLQ and CINVQ, by which a recall of the home acts too (R285, R288): with all set, every copy is discarded.
An owner in X gives a recall its data and keeps nothing, since no copy of this package may stay in E. -/
def stepRow (s : State) (sec : Nat) (r : DReq) (all wbi : Bool) : State :=
  let e := s.dirE sec
  if e.st = .x ∨ e.st = .o then
    let others := if all && e.st == .o then e.clusters else []
    let s := (s.setDir sec { e with
      trans := if others = [] then .bF else .bFI
      req := some r
      acks := others.length }).forward sec (if wbi then .fwdWbi else .fwdWb) e.owner
    if others = [] then s else s.sendInvs sec others (some e.owner)
  else if all then s.invWait sec r false none
  else (s.setDir sec { e with req := some r }).dirGo sec

/-- A request whose package copy is enough, on an entry that the slice may act on (R285). One that has been in B_M or B_H
is already counted as a miss (R299). -/
def dirRow (s : State) (sec : Nat) (r : DReq) (missed : Bool) : State :=
  let e := s.dirE sec
  let needLlc : Bool := match r with
    | .getz _ | .cflq _ | .cinvq _ | .recall _ => false
    | _ => e.st == .i || e.st == .s || e.st == .o
  if needLlc && !e.lv then
    (s.setDir sec { e with trans := .bM, req := some r }).bump 6 1 (s.sliceOfSec sec) (if missed then 0 else 1)
  else
    let s := if e.lv && !missed then s.bump 6 0 (s.sliceOfSec sec) 1 else s
    let ownedBy (c : Nat) : Bool := (e.st == .x || e.st == .o) && e.owner == c
    match r with
    | .pref _ => s.dirSettle sec
    | .gets c =>
      if e.st = .x ∧ e.owner ≠ c then
        (s.setDir sec { e with trans := .bF, req := some r }).forward sec .fwdGets e.owner
      else if e.st = .x then (s.setDir sec { e with st := .i, clv := 0 }).grant sec r
      else s.grant sec r
    | .getx c | .getz c | .upg c =>
      let isUpg := match r with
        | .upg _ => true
        | _ => false
      let inClv := e.clv.getLsbD (c / 4)
      match e.st with
      | .i =>
        let s := if e.lv then s else s.setDir sec { e with val := SecVal.zero, lv := true }
        s.grant sec r
      | .s =>
        let keep := isUpg && inClv
        s.invWait sec r keep (if keep then some c else none)
      | .x =>
        if ownedBy c then (s.setDir sec { e with keeps := isUpg }).grant sec r
        else (s.setDir sec { e with trans := .bF, req := some r }).forward sec .fwdGetx e.owner
      | .o =>
        if ownedBy c then s.invWait sec r isUpg (some c)
        else
          (((s.setDir sec { e with trans := .bFI, req := some r, acks := e.clusters.length }).forward sec .fwdGetx
            e.owner).sendInvs sec e.clusters (some e.owner))
    | .cflq _ => (s.llcUnpin sec).stepRow sec r false false
    | .cinvq _ => (s.llcUnpin sec).stepRow sec r true true
    | .recall k =>
      s.stepRow sec r k.takes (k.takes || e.st == .x)
    | _ => s.dirSettle sec

/-! ### The package's copy (R288) -/

/-- What a request needs of the package's copy of a far sector. -/
def pkgEnough (s : State) (sec : Nat) (r : DReq) : Bool :=
  let p := (s.dirE sec).pkgst
  match r with
  | .gets _ | .pref _ => p != .i
  | .getx _ | .getz _ | .upg _ => p == .e || p == .m
  | _ => true

/-- The request that a package sends toward the home of a far sector. -/
def farOp (s : State) (sec : Nat) (r : DReq) : FOp :=
  if r.owning then (if (s.dirE sec).pkgst = .s ∨ (s.dirE sec).pkgst = .o then .upg sec else .rdX sec) else .rdS sec

/-- The transfer through CXL.cache that a miss on host memory needs: a copy, or ownership (an empty write). -/
def hostGet (sec : Nat) (r : DReq) : HostOp :=
  .coherent (64 * sec) (if r.owning then .write (64 * sec) 0 0 else .read (64 * sec))

/-- A dirty or possibly dirty package copy of a far sector is written back by giving it up. -/
def flushReq (s : State) (sec : Nat) (r : DReq) : DReq :=
  match r with
  | .cflq c => if s.far sec && ((s.dirE sec).pkgst == .e || (s.dirE sec).pkgst == .m || (s.dirE sec).pkgst == .o)
      then .cinvq c else r
  | r => r

/-- A PUTM held over a transaction that another package's request made is acted on (R286). -/
def dirHeld (s : State) (sec : Nat) : State :=
  match (s.dirE sec).held with
  | some (c, v) => (s.modDir sec fun e => { e with held := none }).putmRows c sec v (s.lastHolder c sec)
  | none => s

/-- What another package's request does at the home. -/
def podKind : DReq → PKind
  | .podS _ => .rdS
  | .podX _ => .rdX
  | _ => .upg

/-- A request for which the line needs a way in its set: one of an L1 or of another package, or a prefetch into the LLC. -/
def needsWay : DReq → Bool
  | .gets _ | .getx _ | .getz _ | .upg _ | .pref _ | .podS _ | .podX _ | .podU _ => true
  | _ => false

/-- A request of another package. -/
def ofPod : DReq → Bool
  | .podS _ | .podX _ | .podU _ => true
  | _ => false

/-- A request that cannot be acted on at a stable entry: its line finds no way in its set (R290), or the pod entry of its
sector is transient. -/
def actWaits (s : State) (sec : Nat) (r : DReq) : Bool :=
  needsWay r && !s.llcRoom (sec / 2) || ofPod r && (s.podFind sec).any fun (_, e) => e.trans != .stable

/-- Act on a request at a stable entry (R284, R285, R288). One that cannot be acted on stays at the head of the FIFO. -/
def dirAct (s : State) (sec : Nat) (r : DReq) : State :=
  let s := (s.walkMeet sec).dirHeld sec
  if (s.dirE sec).trans != .stable || s.actWaits sec r then s.modDir sec fun e => { e with fifo := r :: e.fifo }
  else
  let s := if ofPod r then s.llcSeat sec else if needsWay r then s.llcPlace sec (.ofHint (s.askHint r sec)) else s
  match r with
  | .podS p | .podX p | .podU p =>
    ((s.modDir sec fun e => { e with trans := .bH, req := some r }).bump 6 1 (s.sliceOfSec sec) 1).podServe sec
      ⟨.pkg p, podKind r⟩
  | .recall k => if (s.dirE sec).pkgst = .i then s.recallEmpty sec k else s.dirRow sec r false
  | _ =>
    let r := s.flushReq sec r
    let wait (s : State) : State :=
      (s.modDir sec fun e => { e with trans := .bH, req := some r }).bump 6 1 (s.sliceOfSec sec) 1
    if s.far sec then
      if s.pkgEnough sec r then s.dirRow sec r false
      else if hostSec sec then
        match s.hostAsk (.sector sec) (hostGet sec r) with
        | (s, some (.fault code, _)) => (wait s).dirFail sec code
        | (s, _) => wait s
      else
        match (if s.homeOpen then s.remote (.sector sec) (secHome sec) false (s.farOp sec r)
          else (s, some (FabStatus.fault 0x1C, SecVal.zero))) with
        | (s, some (.fault code, _)) => (wait s).dirFail sec code
        | (s, _) => wait s
    else
      match r with
      | .cflq _ =>
        match s.podFind sec with
        | some (_, e) => if e.st = .s && e.trans = .stable then s.dirRow sec r false
            else if e.trans = .stable then (wait s).podServe sec ⟨.home, .downgrade⟩ else wait s
        | none => s.dirRow sec r false
      | .cinvq _ =>
        match s.podFind sec with
        | some (_, e) => if e.trans = .stable then (wait s).podServe sec ⟨.home, .recall⟩ else wait s
        | none => s.dirRow sec r false
      | _ =>
        match s.podRecall sec r.owning with
        | (s, true) => s.dirRow sec r false
        | (s, false) => wait s

/-- The requests queued at the slice of a sector. -/
def fifoCount (s : State) (sec : Nat) : Nat :=
  (s.dir.map fun (k, e) => if s.sliceOfSec k = s.sliceOfSec sec then e.fifo.length else 0).sum

/-- A request can reach the slice of a sector: it can be acted on at once, it is a recall that R424 rule 4 answers at once,
or fewer than 64 requests are queued there. Any other waits in its message class (R284). -/
def dirTakes (s : State) (sec : Nat) (r : DReq) : Bool :=
  let e := s.dirE sec
  decide (s.fifoCount sec < 64) || (match r with
    | .recall _ => e.trans == .bH && e.req.any fun q => q.core?.isSome
    | _ => false) || (e.trans == .stable && e.fifo.isEmpty && !s.actWaits sec r)

/-- A request has reached the slice: it is acted on, or it waits in the FIFO of its sector (R284). -/
def dirArrive (s : State) (sec : Nat) (r : DReq) : State :=
  let e := s.dirE sec
  match r, e.trans, e.req.bind DReq.core? with
  | .recall k, .bH, some _ => s.recallNow sec k
  | _, _, _ => if e.trans = .stable ∧ e.fifo = [] then s.dirAct sec r else s.setDir sec { e with fifo := e.fifo ++ [r] }

/-- Whether what a request in B_H waited for is there: for a sector homed here the pod directory, for a far one PKGST. -/
def homeDone (s : State) (sec : Nat) (r : DReq) : Bool :=
  if s.far sec then s.pkgEnough sec r
  else
    match r, s.podFind sec with
    | .cflq _, some (_, e) => e.trans == .stable && e.st == .s
    | .cinvq _, some _ => false
    | _, none => true
    | r, some _ => !s.podBlocks sec r.owning

/-! ### Completions in a transaction -/

/-- The owner's data has reached the slice (R285, B_F, B_FI and B_E rows). -/
def ownerData (s : State) (core sec : Nat) (v : SecVal) (dirty : Bool) : State :=
  let e := s.dirE sec
  let e := { e with val := v, lv := true, ld := e.ld || dirty }
  match e.trans, e.req with
  | .bF, some (.gets _) =>
    (s.setDir sec { e with st := if dirty then .o else .s, owner := if dirty then core else 0 }).dirGo sec
  | .bF, some (.cflq _) => (s.setDir sec { e with st := if e.st = .o then .s else .x }).dirGo sec
  | .bF, some (.recall _) =>
    (s.setDir sec (if e.st = .o then { e with st := .s, owner := 0 } else { e with st := .i, owner := 0, clv := 0 })).dirGo sec
  | .bF, _ => (s.setDir sec { e with st := .i }).dirGo sec
  | .bFI, _ =>
    let s := s.setDir sec { e with st := .s, trans := .bI }
    if e.acks = 0 then s.dirGo sec else s
  | .bE, _ => s.setDir sec { e with st := if e.acks = 0 then .i else .s }
  | _, _ => s

end State

/-! ### Requests reach the slice -/

/-- Take the message of a request and let the slice act on it; with 64 queued it stays in the mesh (R284). -/
def requestEvent (k : MKind) (core sec : Nat) (r : DReq) (s : State) : Ans :=
  .next (match s.msg? k core sec with
    | some m => if s.dirTakes sec r then (s.take m).dirArrive sec r else s
    | none => s)

/-- GETS. A non-binding read that reaches a sector in the footprint of a transaction is dropped (08 R243 rule 6). -/
def execGets (core sec : Nat) (s : State) : Ans :=
  match s.msg? .gets core sec with
  | some m =>
    if s.nonBinding core sec && !(s.conflicts sec true none).isEmpty then .next ((s.take m).dropRead core sec)
    else requestEvent .gets core sec (.gets core) s
  | none => .next s

def execGetx (core sec : Nat) (s : State) : Ans := requestEvent .getx core sec (.getx core) s

def execGetz (core sec : Nat) (s : State) : Ans := requestEvent .getz core sec (.getz core) s

def execUpg (core sec : Nat) (s : State) : Ans := requestEvent .upg core sec (.upg core) s

def execCflq (core sec : Nat) (s : State) : Ans := requestEvent .cflq core sec (.cflq core) s

def execCinvq (core sec : Nat) (s : State) : Ans := requestEvent .cinvq core sec (.cinvq core) s

/-- SLICE_FIFO_HEAD: the head of a stable sector's FIFO is acted on (R284). -/
def execSliceFifoHead (sec : Nat) (s : State) : Ans :=
  let e := s.dirE sec
  .next (match e.trans, e.fifo with
    | .stable, r :: rest => (s.setDir sec { e with fifo := rest }).dirAct sec r
    | .stable, [] => s.dirHeld sec
    | _, _ => s)

/-! ### Forwards reach an L1 (R287, R261 rule 2) -/

namespace State

/-- The value that an L1 forwards: without a tag of its own core whose publish is done. -/
def fwdVal (s : State) (c : Nat) (v : SecVal) : SecVal :=
  match v.tag with
  | some t => if t.pkg == s.pkg.id && t.core.toNat == c && !seqAbove t.seq (s.core c).pw then { v with tag := none } else v
  | none => v

/-- An L1 answers a forward with its data and keeps the state given, or nothing. -/
def fwdAnswer (s : State) (core sec : Nat) (e : L1E) (dirty : Bool) (keep : Option L1St) : State :=
  let v := s.fwdVal core e.val
  let s := match keep with
    | some st => s.setL1 core sec { e with st := st, val := v }
    | none => s.delL1 core sec
  s.msg .fwdData core sec v (if dirty then 1 else 0)

/-- Take a forward for a core and let its L1 act. A transaction that wrote the sector, or for a forward that discards the
copy one that read it, aborts first (06 R204). -/
def onForward (s : State) (k : MKind) (core sec : Nat) (write : Bool) (f : State → L1E → State) : State :=
  match s.msg? k core sec with
  | none => s
  | some m =>
    let s := s.take m
    let s := s.abortAll (s.conflicts sec write none)
    match s.l1? core sec with
    | some e =>
      match e.st with
      | .eia => s.msg .fwdData core sec (s.fwdVal core e.val) 0
      | .mia | .oia => s.msg .fwdData core sec (s.fwdVal core e.val) 1
      | _ => f s e
    | none => s

end State

/-- The forward of a sector serves a non-binding read. -/
def State.forNonBinding (s : State) (sec : Nat) : Option Nat :=
  match (s.dirE sec).req with
  | some (.gets c) => if s.nonBinding c sec then some c else none
  | _ => none

/-- FWD_GETS: the owner keeps O or S; a transaction that wrote the sector aborts (06 R204), but a non-binding read that would
abort one is dropped (08 R243 rule 6, R247). -/
def execFwdGets (core sec : Nat) (s : State) : Ans :=
  .next (match s.msg? .fwdGets core sec, s.forNonBinding sec, s.conflicts sec false none with
  | some m, some c, _ :: _ => ((s.take m).dropRead c sec).dirSettle sec
  | _, _, _ => s.onForward .fwdGets core sec false fun s e =>
    match e.st with
    | .m => s.fwdAnswer core sec e true (some .o)
    | .e => s.fwdAnswer core sec e false (some .s)
    | .o => s.fwdAnswer core sec e true (some .o)
    | .oma => s.fwdAnswer core sec e true (some .oma)
    | _ => s)

/-- FWD_GETX: the owner keeps nothing; an upgrade in flight then fetches the data. -/
def execFwdGetx (core sec : Nat) (s : State) : Ans :=
  .next (s.onForward .fwdGetx core sec true fun s e =>
    match e.st with
    | .oma => s.fwdAnswer core sec e true (some .imd)
    | .e => s.fwdAnswer core sec e false none
    | .m | .o => s.fwdAnswer core sec e true none
    | _ => s)

/-- FWD_WB: the owner writes back and keeps a clean copy. -/
def execFwdWb (core sec : Nat) (s : State) : Ans :=
  .next (s.onForward .fwdWb core sec false fun s e =>
    match e.st with
    | .m => s.fwdAnswer core sec e true (some .e)
    | .e => s.fwdAnswer core sec e false (some .e)
    | .o => s.fwdAnswer core sec e true (some .s)
    | .oma => s.fwdAnswer core sec e true (some .sma)
    | _ => s)

/-- FWD_WBI: the owner writes back and keeps nothing. -/
def execFwdWbi (core sec : Nat) (s : State) : Ans :=
  .next (s.onForward .fwdWbi core sec true fun s e =>
    match e.st with
    | .oma => s.fwdAnswer core sec e true (some .imd)
    | .e => s.fwdAnswer core sec e false none
    | .m | .o => s.fwdAnswer core sec e true none
    | _ => s)

/-- INV: every copy of the cluster, but for a core left out, is discarded; one INV_ACK (R282, R287). -/
def execInv (cluster sec : Nat) (s : State) : Ans :=
  .next (match s.msg? .inv cluster sec with
    | none => s
    | some m =>
      let s := s.take m
      let cores := (List.range 4).map (4 * cluster + ·) |>.filter (· + 1 != m.flag)
      let held := cores.any fun c => match s.l1? c sec with
        | some e => e.st == .s || e.st == .e || e.st == .m || e.st == .o || e.st == .sma || e.st == .oma
        | none => false
      let s := if held then s.abortAll ((s.conflicts sec true none).filter fun (b, g, _) =>
        cores.contains (((s.grp? b g).map (·.core)).getD 0)) else s
      let s := cores.foldl (fun s c =>
        match s.l1? c sec with
        | some e =>
          match State.gone e.st with
          | some st => s.setL1 c sec { e with st := st }
          | none => s.delL1 c sec
        | none => s) s
      s.msg .invAck cluster sec SecVal.zero 0)

/-! ### Grants reach an L1 (R287) -/

namespace State

/-- DATA_x arrives: the L1 installs the sector in a way of its set and answers DONE; a pending store then merges (R181
rule 2). A fill that finds no way waits. -/
def dataArrives (s : State) (k : MKind) (core sec : Nat) (st : L1St) : State :=
  match s.msg? k core sec with
  | none => s
  | some m =>
    if !s.l1Room core (sec / 2) then
      -- a basting fill aborts no transaction: it installs nothing (08 R247)
      if s.nonBinding core sec && (s.l1Victim core (sec / 2)).isNone then ((s.take m).dropRead core sec).msg .done core sec
        SecVal.zero 0
      else s.l1Overflow core sec
    else
      let s := s.take m
      let s := match s.l1? core sec with
        | some e => if e.st = L1St.isd ∨ e.st = L1St.imd then
            (s.l1Place core sec e.hnt).setL1 core sec { e with st := st, val := m.val } else s
        | none => s
      let s := s.msg .done core sec SecVal.zero 0
      if st = .m then s.mergePend core sec else s

end State

def execDataS (core sec : Nat) (s : State) : Ans := .next (s.dataArrives .dataS core sec .s)

def execDataE (core sec : Nat) (s : State) : Ans := .next (s.dataArrives .dataE core sec .e)

def execDataM (core sec : Nat) (s : State) : Ans := .next (s.dataArrives .dataM core sec .m)

/-- NONBINDING_READ_FILL: the data of a basting prefetch fills the L1 as a clean copy (08 R243). -/
def execNonbindingReadFill (core sec : Nat) (s : State) : Ans :=
  .next (if ((s.l1? core sec).bind (·.baste)).isSome then
    (s.dataArrives .dataS core sec .s).dataArrives .dataE core sec .e
  else s)

/-- UPG_ACK: M without data, or UPG_MISS where the core holds no copy (R282, R287). -/
def execUpgAck (core sec : Nat) (s : State) : Ans :=
  .next (match s.msg? .upgAck core sec with
    | none => s
    | some m =>
      let s := s.take m
      match s.l1? core sec with
      | some e =>
        if e.st = .sma ∨ e.st = .oma then
          ((s.setL1 core sec { e with st := .m }).msg .done core sec SecVal.zero 0).mergePend core sec
        else s.msg .upgMiss core sec SecVal.zero 0
      | none => s.msg .upgMiss core sec SecVal.zero 0)

/-- WB_ACK: the writeback buffer is freed. A forward to the core that is still on its way is answered first (R286). -/
def execWbAck (core sec : Nat) (s : State) : Ans :=
  .next (match s.msg? .wbAck core sec with
    | none => s
    | some m =>
      if s.net.any fun q => q.core == core && q.sec == sec &&
          (q.kind == .fwdGets || q.kind == .fwdGetx || q.kind == .fwdWb || q.kind == .fwdWbi) then s
      else
        let s := s.take m
        match s.l1? core sec with
        | some e => if e.st.named then s else s.delL1 core sec
        | none => s)

/-- MNT_ACK: the step of a CFLUSH or CINV is complete (R294). -/
def execMntAck (core sec : Nat) (s : State) : Ans :=
  .next (match s.msg? .mntAck core sec with
    | none => s
    | some m => (s.take m).modMaint core sec fun q => { q with next := q.next + 64, sent := false })

/-! ### Answers reach the slice (R285) -/

def execFwdData (core sec : Nat) (s : State) : Ans :=
  .next (match s.msg? .fwdData core sec with
    | some m => (s.take m).ownerData core sec m.val (m.flag == 1)
    | none => s)

/-- PUTC: CLV is cleared by its flag; an entry left without L1 copies is I (R282, R285). -/
def execPutc (core sec : Nat) (s : State) : Ans :=
  .next (match s.msg? .putc core sec with
    | none => s
    | some m =>
      let s := s.take m
      let e := s.dirE sec
      let clv := if m.flag = 1 then e.clv &&& ~~~(clvBit (core / 4)) else e.clv
      let e' := { e with clv := clv }
      let e' := if e.trans = .stable ∧ (clv = 0 ∨ (e.st = .x ∧ e.owner = core)) then
        { e' with st := .i, owner := 0, clv := if e.st = .x then 0 else clv } else e'
      (s.setDir sec e').msg .wbAck core sec SecVal.zero 0)

/-- The core that owns the sector once the transaction of its entry ends. -/
def DirE.heir (e : DirE) : Option Nat :=
  match e.grant with
  | some g => if g.st = .s then none else some g.owner
  | none => if e.st = .x ∨ e.st = .o then some e.owner else none

/-- PUTM: held at a transient entry (R286). Of two that meet one transaction, the one whose core will not own the sector is
discarded, its WB_ACK sent, and the other held. -/
def execPutm (core sec : Nat) (s : State) : Ans :=
  .next (match s.msg? .putm core sec with
    | none => s
    | some m =>
      let s := s.take m
      let e := s.dirE sec
      if e.trans = .stable then s.putmRows core sec m.val (m.flag == 1)
      else
        let discard (s : State) (c : Nat) : State :=
          (s.modDir sec fun e => if s.lastHolder c sec then { e with clv := e.clv &&& ~~~(clvBit (c / 4)) } else e).msg
            .wbAck c sec SecVal.zero 0
        match e.held with
        | none => s.setDir sec { e with held := some (core, m.val) }
        | some (c, _) =>
          if e.heir = some c then discard s core
          else discard (s.setDir sec { e with held := some (core, m.val) }) c)

/-- UPG_MISS: DATA_M from the LLC (R285). -/
def execUpgMiss (core sec : Nat) (s : State) : Ans :=
  .next (match s.msg? .upgMiss core sec with
    | some m => (s.take m).msg .dataM core sec (s.dirE sec).val 0
    | none => s)

/-- INV_ACK: one fewer is awaited; at zero the transaction goes on (R285). -/
def execInvAck (cluster sec : Nat) (s : State) : Ans :=
  .next (match s.msg? .invAck cluster sec with
    | none => s
    | some m =>
      let s := s.take m
      let e := s.dirE sec
      let s := s.setDir sec { e with acks := e.acks - 1, clv := e.clv &&& ~~~(clvBit cluster) }
      match e.trans with
      | .bI => if e.acks ≤ 1 then s.dirGo sec else s
      | .bE => if e.acks ≤ 1 ∧ e.st = .s then s.modDir sec fun e => { e with st := .i } else s
      | _ => s)

/-- DONE: the grant is installed; OWNER, STATE and CLV are as it set them (R285). -/
def execDone (core sec : Nat) (s : State) : Ans :=
  .next (match s.msg? .done core sec with
    | none => s
    | some m =>
      let s := s.take m
      let e := s.dirE sec
      match e.grant with
      | some g => (s.setDir sec { e with st := g.st, owner := if g.st = .s then 0 else g.owner }).dirSettle sec
      | none => s)

/-! ### Memory steps (R285, R288, R291; 09 R261 rules 4 and 5) -/

/-- The tag of a sector that leaves for memory: not yet published, gone, lost, or its publish failed. -/
inductive TagOut where
  | wait
  | clean
  | lost
  | fail (code : BitVec 8)
  deriving DecidableEq, Repr

namespace State

/-- Publish the tag of a sector of the LLC before it leaves. -/
def tagOut (s : State) (sec : Nat) : State × TagOut :=
  match (if (s.dirE sec).lv then (s.dirE sec).val.tag else none) with
  | none => (s, .clean)
  | some t =>
    if t.lost then (s, .lost)
    else if t.pkg = s.pkg.id then (s.pubAsk (.slice sec) t.core.toNat t.seq, .wait)
    else
      match s.remote (.sector sec) t.pkg.toNat false (.pub t.core.toNat t.seq) with
      | (s, none) => (s, .wait)
      | (s, some (.ok, _)) => (s, .clean)
      | (s, some (.fault c, _)) => (s, .fail c)

/-- A sector whose tag may not leave with it: one that goes to memory or to the host (09 R261 rule 4). -/
def leavesBare (s : State) (sec : Nat) : Bool := !s.far sec || hostSec sec

/-- The LLC data of a sector goes to where the sector lives: to memory or the host without a tag, to another home with it
(09 R256); a package copy of a far sector is then given up. A poisoned sector is written to memory marked poisoned (R291). -/
def writeOut (s : State) (sec : Nat) (lost : Bool) : State :=
  let e := s.dirE sec
  let v : SecVal := { e.val with tag := none, psn := e.val.psn || lost }
  if s.far sec then
    let dirty := e.ld && (e.pkgst == .m || e.pkgst == .o || e.pkgst == .e)
    let s := s.setDir sec { e with lv := false, ld := false, pkgst := .i, val := SecVal.zero }
    if e.pkgst = .i then s
    else if hostSec sec then
      if dirty then (s.hostAsk .engine (.writeback sec v)).1 else s
    else if s.peerLost (secHome sec) then s
    else s.fabSend (secHome sec) false (if dirty then .wb sec e.val else .drop sec) .engine
  else
    let s := s.setDir sec { e with ld := false, val := { e.val with tag := none, psn := v.psn } }
    if e.ld || v.psn then
      { s with
        mem := s.mem.setSector (secOff sec / 64) (-1) v.bytes
        hom := { s.hom with poison := if v.psn then (if s.hom.poison.contains sec then s.hom.poison
          else s.hom.poison ++ [sec]) else s.hom.poison.filter (· != sec) } }
    else s

end State

/-- MEMORY_READ_COMPLETE: the fill of B_M, then the recorded request (R285). -/
def execMemoryReadComplete (sec : Nat) (s : State) : Ans :=
  let e := s.dirE sec
  .next (match e.trans, e.req with
    | .bM, some r =>
      let e := { e with val := s.memSec sec, lv := true, ld := false, trans := .stable, req := none }
      (s.setDir sec e).dirRow sec r true
    | _, _ => s)

/-- MEMORY_WRITE_COMPLETE: the memory step of a CFLQ or CINVQ is done: MNT_ACK. A tag is published first; a publish that
fails fails the step, the sector staying as it is (R285; 09 R261 rule 4). -/
def execMemoryWriteComplete (sec : Nat) (s : State) : Ans :=
  .next (match (s.dirE sec).trans, (s.dirE sec).req with
    | .bW, some r =>
      match r.core? with
      | none => s
      | some c =>
        let s0 := s
        match (if s.leavesBare sec then s.tagOut sec else (s, .clean)) with
        | (s, .wait) => s
        | (s, .fail code) => s.dirFail sec code
        | (s, o) =>
          let s := if (s0.dirE sec).lv && (!s.far sec || r.clears) then s.writeOut sec (o == .lost) else s
          let s := if r.clears then s.modDir sec fun e => { e with lv := false, st := .i, clv := 0 } else s
          (s.msg .mntAck c sec SecVal.zero 0).dirSettle sec
    | _, _ => s)

/-- A request for a far sector for which there was no room goes out now. -/
def State.farAsk (s : State) (sec : Nat) (r : DReq) : State :=
  if (s.hst.reqs.any fun q => q.owner == .sector sec) || s.fab.unacked.any fun q => q.owner == .sector sec then s
  else if !hostSec sec && !s.homeOpen then s.dirFail sec 0x1C
  else
    match (if hostSec sec then s.hostAsk (.sector sec) (hostGet sec r)
      else s.remote (.sector sec) (secHome sec) false (s.farOp sec r)) with
    | (s, some (.fault code, _)) => s.dirFail sec code
    | (s, _) => s

/-- HOME_COMPLETE: the home agent, the fabric engine or the host port has completed what B_H waited for, or it has
failed (R285, R288). -/
def execHomeComplete (sec : Nat) (s : State) : Ans :=
  let e := s.dirE sec
  .next (match e.trans, e.req with
    | .bH, some r =>
      let failed := (s.fab.unacked.find? fun q => q.owner == .sector sec && (match q.result with
        | some (.fault _, _) => true
        | _ => false)).bind (·.result)
      match failed with
      | some (.fault code, _) => (s.dropAnswers (.sector sec)).dirFail sec code
      | _ =>
        match r with
        | .podS p | .podX p | .podU p =>
          if (s.podFind sec).any fun (_, e) => e.trans != .stable then s else s.podServe sec ⟨.pkg p, State.podKind r⟩
        | _ =>
        if s.homeDone sec r then
          ((s.dropAnswers (.sector sec)).modDir sec fun e => { e with trans := .stable, req := none }).dirRow sec r true
        else if s.far sec then s.farAsk sec r
        else if (s.podFind sec).any fun (_, e) => e.trans == .stable then
          match r with
          | .cflq _ => s.podServe sec ⟨.home, .downgrade⟩
          | .cinvq _ => s.podServe sec ⟨.home, .recall⟩
          | _ => (s.podRecall sec r.owning).1
        else s
    | _, _ => s)

/-! ### Evictions (R287, R290, R291) -/

namespace State

/-- An L1 gives up a copy: PUTM with data and tag, or PUTC (R287; 09 R261 rule 3). -/
def l1Drop (s : State) (core sec : Nat) (e : L1E) : State :=
  let flag := if s.lastHolder core sec then 1 else 0
  match e.st with
  | .m => (s.setL1 core sec { e with st := .mia }).msg .putm core sec e.val flag
  | .o => (s.setL1 core sec { e with st := .oia }).msg .putm core sec e.val flag
  | .e => (s.setL1 core sec { e with st := .eia }).msg .putc core sec SecVal.zero flag
  | .s => (s.setL1 core sec { e with st := .sia }).msg .putc core sec SecVal.zero flag
  | _ => s

end State

/-- L1_EVICT: a stable copy outside every footprint leaves the L1: one of the line that a fill for which its set has no way
gives up, or of a line in a way that a growing carve-out takes (06 R174, R177; R287). -/
def execL1Evict (core sec : Nat) (s : State) : Ans :=
  .next (match s.l1? core sec with
    | some e =>
      if !s.footprintOn core sec && (s.l1Given core (sec / 2)
          || s.l1Wants core (sec / 2) && s.l1Victim core (sec / 2) == some (sec / 2)) then s.l1Drop core sec e
      else s
    | none => s)

/-- LLC_EVICT: the victim of a set in which a request finds no way is evicted with both its sectors (R290, R291). -/
def execLlcEvict (sec : Nat) (s : State) : Ans :=
  .next (if s.llcWants (sec / 2) && ((s.llcChoose (s.llcLines (sec / 2)) 4).map fun (x, _) => x.line) == some (sec / 2)
    then s.evictOne (sec / 2) else s)

/-- LLC_RECALL_COMPLETE: a sector in B_E whose copies are all back is written out and freed; the requests in its FIFO
fill it again (R285, R291). A publish that fails leaves it poisoned (09 R261 rule 4). -/
def execLlcRecallComplete (sec : Nat) (s : State) : Ans :=
  let e := s.dirE sec
  .next (if e.trans = .bE ∧ e.acks = 0 ∧ e.st ≠ .x ∧ e.st ≠ .o then
    match (if s.leavesBare sec then s.tagOut sec else (s, .clean)) with
    | (s, .wait) => s
    | (s, o) =>
      let lost := match o with
        | .lost | .fail _ => true
        | _ => false
      let s := if e.lv then s.writeOut sec lost else s
      let held := (s.dirE sec).held
      let s := s.setDir sec { DirE.reset with fifo := e.fifo }
      match held with
      | some (c, _) => s.msg .wbAck c sec SecVal.zero 0
      | none => s
    else s)

end Sys2Proof.Machine
end

