-- ==== Sys2Proof/Machine/Home.lean ====
section
/-! DEFINITION. The home agent: requests and writebacks of other packages, recalls of this package's copies, grants and
refusals, deadlines, the merge sweep, the cell table and the Seam Table (16 R407 to R427). -/

namespace Sys2Proof.Machine

namespace State

/-! ### Requests at the home (R419, R423) -/

/-- A cell bit that the Seam Table clears for an owner recorded in an entry while a command is in progress. -/
def seamOwes (s : State) (r sec : Nat) (e : PodE) : Bool :=
  secOff sec / 2 ^ 21 % 2 ^ 18 == r && (e.st == .x || e.st == .o) && !e.hown && !s.cellDown e.owner
    && !s.seamAllows sec e.owner

/-- A Seam Table command is in progress: some owner of a cleared cell is left in its region (R421). -/
def seamPending (s : State) : Bool :=
  match s.hom.seamBusy with
  | some r => s.hom.pod.any fun (b, e) => s.seamOwes r b e
  | none => false

/-- Start the downgrades of a Seam Table command that are still owed and can start, and end the command when none is. -/
def seamPush (s : State) : State :=
  match s.hom.seamBusy with
  | none => s
  | some r =>
    let s := s.hom.pod.foldl (fun s (b, e) =>
      if s.seamOwes r b e && e.trans == .stable then s.podServe b ⟨.home, .downgrade⟩ else s) s
    if s.seamPending then s else { s with hom := { s.hom with seamBusy := none } }

/-- A request of another package reaches its home: refused where the home is closed, where the requester is in no slot
or its cell is down, or by the Seam Table; else it goes to the slice of the sector. -/
def podRequest (s : State) (src sec : Nat) (k : PKind) : State :=
  if !s.homed sec || hostSec sec then s
  else if !s.homeOpen || (s.cellOf src).isNone || s.cellDown src then s.podRefuse src sec 0x1C
  else if k != .rdS && !s.seamAllows sec src then (s.bump 12 4 0 1).podRefuse src sec 0x1A
  else
    let r : DReq := match k with
      | .rdS => .podS src
      | .rdX => .podX src
      | _ => .podU src
    if s.dirTakes sec r then (s.bump 12 0 0 1).dirArrive sec r else s

end State

def execRdS (src sec : Nat) (s : State) : Ans := .next (s.podRequest src sec .rdS)

def execRdX (src sec : Nat) (s : State) : Ans := .next (s.podRequest src sec .rdX)

def execPodUpg (src sec : Nat) (s : State) : Ans := .next (s.podRequest src sec .upg)

/-- DROP: the sender's MV bit is cleared where SZ is 0, the entry staying in S; an entry that it owned is free (R423). -/
def execPodDrop (src sec : Nat) (s : State) : Ans :=
  .next (if !s.homeOpen || s.cellDown src then s
    else
      match s.podFind sec with
      | some (b, e) =>
        if e.trans != .stable then s
        else if e.st = .x ∧ !e.hown ∧ e.owner = src then s.podDel b
        else if e.st = .s ∧ e.sz = 0 ∧ s.cellOf src = s.cellOf s.self then
          s.podPut b { e with mv := e.mv &&& ~~~(1#16 <<< ((s.slotOf src).getD 0)) }
        else s
      | none => s)

/-- WB: held at a transient entry (R423, R424 rule 1). Its data takes a way of the home LLC; where the set has none it is not
taken, and comes again when its sender sends it again (15 R393; DESIGN CHOICE, assumption log 23). -/
def execWb (src sec : Nat) (v : SecVal) (s : State) : Ans :=
  .next (if !s.homed sec || State.hostSec sec then s
    else if !s.homeOpen || (s.cellOf src).isNone || s.cellDown src then s.podRefuse src sec 0x1C
    else if !s.llcRoom (sec / 2) then s.llcMake (sec / 2)
    else
      match s.podFind sec with
      | some (b, e) =>
        if e.trans = .stable then (s.podWb sec src v).seamPush
        else (s.podPut b { e with held := some (src, v) }).llcSeat sec
      | none => s.podWb sec src v)

/-! ### Recalls of this package's copies (R424) -/

/-- A recall of a far sector by its home enters the FIFO of the sector's slice (10 R288). -/
def recallEvent (home sec : Nat) (k : Recall) (s : State) : Ans :=
  .next (if !s.homed sec && secHome sec == home && s.dirTakes sec (.recall k) then s.dirArrive sec (.recall k) else s)

def execFwdS (home sec : Nat) (s : State) : Ans := recallEvent home sec .s s

def execFwdX (home sec : Nat) (s : State) : Ans := recallEvent home sec .x s

def execFwdDg (home sec : Nat) (s : State) : Ans := recallEvent home sec .dg s

def execPodInv (home sec : Nat) (s : State) : Ans := recallEvent home sec .inv s

/-! ### Grants and refusals at the requester (R423, R424 rule 5, R427) -/

namespace State

/-- The open request of this package for a far sector. -/
def sectorReq (s : State) (home sec : Nat) : Option FReq :=
  s.fab.unacked.find? fun r => r.dst == home && r.owner == .sector sec && r.result.isNone && (match r.op with
    | .rdS k | .rdX k | .upg k => k == sec
    | _ => false)

/-- A grant arrives: the sector is filled and PKGST updated, or the grant of a request already ended is returned. A grant of
ownership without data is returned with the copy that the package still holds, and the copy goes (R424 rule 5; assumption
log 22). -/
def grantArrives (s : State) (home sec : Nat) (v : Option SecVal) (p : PkgSt) : State :=
  match s.sectorReq home sec with
  | some r =>
    let e := (s.dropReq r).dirE sec
    let e := match v with
      | some v => { e with val := v, lv := true, ld := false }
      | none => e
    (s.dropReq r).setDir sec { e with pkgst := p }
  | none =>
    if s.peerLost home then s
    else
      let clean : Bool := p == .s || p == .e
      match v with
      | some v => s.fabSend home false (if clean then .drop sec else .wb sec v) .engine
      | none =>
        if (s.dirE sec).pkgst = .i then s.fabSend home false (.drop sec) .engine
        else
          let s := s.dropLocal sec
          let v := (s.dirE sec).val
          (s.modDir sec fun e => { e with lv := false, ld := false, pkgst := .i, val := SecVal.zero }).fabSend home false
            (.wb sec v) .engine

end State

def execGrantS (home sec : Nat) (v : SecVal) (s : State) : Ans := .next (s.grantArrives home sec (some v) .s)

def execGrantE (home sec : Nat) (v : SecVal) (s : State) : Ans := .next (s.grantArrives home sec (some v) .e)

def execGrantM (home sec : Nat) (v : SecVal) (s : State) : Ans := .next (s.grantArrives home sec (some v) .m)

def execGrantU (home sec : Nat) (s : State) : Ans := .next (s.grantArrives home sec none .m)

/-- REFUSE: the request ends with the fault it carries (10 R288). -/
def execRefuse (home sec : Nat) (code : BitVec 8) (s : State) : Ans :=
  .next (match s.sectorReq home sec with
    | some r => (s.dropReq r).dirFail sec code
    | none => s)

/-! ### Answers at the home (R423, R424, R427 rule 4) -/

/-- FWD_DATA: data from the recorded owner is written to the home LLC, in a way of its set, for which it waits as a WB does;
DATA_ACK in every case. -/
def execPodFwdData (src sec : Nat) (v : SecVal) (dirty : Bool) (s : State) : Ans :=
  .next (if !s.llcRoom (sec / 2) then s.llcMake (sec / 2) else
    let s := (s.podOver sec (· == src)).podSend src .dataAck sec SecVal.zero
    match s.podFind sec with
    | some (b, e) =>
      if (e.st = .x ∨ e.st = .o) ∧ !e.hown ∧ e.owner = src then
        let s := (s.llcSeat sec).llcPut sec v dirty
        if e.trans = .stable then s
        else ((s.podPut b { e with dirty := dirty }).podAnswer sec src false).seamPush
      else s
    | none => s)

/-- EMPTY: an answer from a package that holds no copy. -/
def execEmpty (src sec : Nat) (s : State) : Ans := .next (((s.podOver sec (· == src)).podAnswer sec src true).seamPush)

/-- INV_ACK from a package. -/
def execPodInvAck (src sec : Nat) (s : State) : Ans :=
  .next (((s.podOver sec (· == src)).podAnswer sec src true).seamPush)

/-- HOST_RESPONSE: the host answers a back-invalidate, with data where it owned the sector; HOST or HOWN is then clear
of it (R417 rule 3, R423). -/
def execHostResponse (sec : Nat) (v : Option SecVal) (s : State) : Ans :=
  .next (match s.podFind sec with
    | some (b, e) =>
      if !e.acks.contains 1024 then s
      else if v.isSome && e.hown && !s.llcRoom (sec / 2) then s.llcMake (sec / 2)
      else
        let s := match v with
          | some v => if e.hown then (s.llcSeat sec).llcPut sec v true else s
          | none => s
        let e := if e.hown then { e with dirty := v.isSome } else { e with host := false }
        ((s.podPut b e).podAnswer sec 1024 false).seamPush
    | none => s)

/-! ### Acknowledgements at a holder (R424, R425) -/

/-- POD_WB_ACK: the writeback is complete and no longer kept. -/
def execPodWbAck (home sec : Nat) (s : State) : Ans :=
  .next { s with fab := { s.fab with unacked := s.fab.unacked.filter fun r => !(r.dst == home && (match r.op with
    | .wb k _ => k == sec
    | _ => false)) } }

/-- DATA_ACK: data kept after answering a forward is released. -/
def execDataAck (home sec : Nat) (s : State) : Ans :=
  .next (if secHome sec = home then { s with fab := { s.fab with kept := del sec s.fab.kept } } else s)

/-- POISON_NOTICE: PSN on the package's copy, and INV_ACK. -/
def execPoisonNotice (home sec : Nat) (s : State) : Ans :=
  .next (if secHome sec = home then
    ((if (s.dirE sec).pkgst = .i then s else s.mapCopies sec fun v => { v with psn := true }).podSend home .invAck sec
      SecVal.zero)
    else s)

/-! ### Deadlines (R426, R427) -/

/-- HOME_DEADLINE_EXPIRY: REFUSE with FABRIC_TIMEOUT, or PEER_DOWN where a down cell is awaited; a Seam Table downgrade
starts again (R421, R427). -/
def execHomeDeadlineExpiry (sec : Nat) (s : State) : Ans :=
  .next (match s.podFind sec with
    | some (_, e) =>
      if e.trans = .stable ∨ s.now < e.started + e.dl then s
      else
        let code : BitVec 8 := if e.acks.any fun p => p != 1024 && s.cellDown p then 0x1C else 0x1B
        ((s.bump 12 5 0 1).podAbort sec code).seamPush
    | none => s)

/-! ### The merge sweep (R416) -/

/-- An entry that a sweep may merge. -/
def PodE.mergeable (e : PodE) : Bool := e.st == .s && e.trans == .stable && !e.touch && decide (e.sz < 10)

namespace State

/-- Merge one entry with its sibling region, if the sweep may; the bases that the sweep has made so far are left alone. -/
def mergeOne (sd : State × List Nat) (b : Nat) : State × List Nat :=
  let (s, made) := sd
  match find? b s.hom.pod with
  | none => (s, made)
  | some e =>
    if !e.mergeable || made.contains b then (s, made)
    else
      let up := regionBase (e.sz + 1) b
      let sib := if up = b then b + 2 ^ e.sz else b - 2 ^ e.sz
      let whole (s : State) (e : PodE) : State × List Nat := ((s.podPut up { e with sz := e.sz + 1 }).bump 12 2 0 1, up :: made)
      match find? sib s.hom.pod with
      | some f =>
        if f.sz = e.sz ∧ f.mergeable ∧ !made.contains sib then
          whole ((s.podDel b).podDel sib) { e with mv := e.mv ||| f.mv, cv := e.cv ||| f.cv, host := e.host || f.host }
        else (s, made)
      | none =>
        if s.hom.pod.any fun (c, f) => regionsMeet c f.sz sib e.sz then (s, made) else whole (s.podDel b) e

end State

/-- MERGE_SWEEP: every INTERVAL µs, one level per entry; TOUCH is then cleared in every entry. -/
def execMergeSweep (s : State) : Ans :=
  let iv := s.hom.merge.toNat % 65536
  .next (if iv = 0 ∨ s.now < s.hom.lastSweep + 1400 * iv then s
    else
      let (s, _) := (s.hom.pod.map (·.1)).foldl (fun sd b => State.mergeOne sd b) (s, [])
      { s with hom := { s.hom with
        pod := s.hom.pod.map fun (b, e) => (b, { e with touch := false })
        lastSweep := s.now } })

/-! ### The cell table and the Seam Table (R408, R409, R420, R421) -/

namespace State

def homErr (s : State) : State := { s with hom := { s.hom with err := true } }

/-- A write of HOM_CTL. -/
def homCtlWrite (s : State) (v : Word) : State :=
  if v.getLsbD 0 && !s.homeOpen && (s.cellOf s.self).isNone then s.homErr
  else { s with
    hom := { s.hom with ctl := v &&& 1, err := s.hom.err && !v.getLsbD 1 }
    mnd := { s.mnd with seen := if v.getLsbD 0 then s.mnd.seen else [] } }

/-- A write of HOM_CELL. -/
def homCellWrite (s : State) (v : Word) : State :=
  let k := 16 * (v.toNat % 64) + v.toNat / 64 % 16
  let pkg := v.toNat / 1024 % 1024
  let valid := v.getLsbD 20
  let sel (s : State) : State := { s with hom := { s.hom with cellSel := v &&& 0x3FF } }
  if !v.getLsbD 31 then sel s
  else if s.homeOpen || (valid && s.hom.cells.any fun (j, x) => j != k && x == pkg + 1024) then s.homErr
  else sel { s with hom := { s.hom with cells := putD 0 k (pkg + if valid then 1024 else 0) s.hom.cells } }

/-- A write of HOM_SEAM_IDX. -/
def homSeamWrite (s : State) (v : Word) : State :=
  let r := v.toNat % 2 ^ 18
  if v.getLsbD 31 && s.seamPending then s.homErr
  else
    let s := { s with hom := { s.hom with seamIdx := v &&& 0x4003FFFF } }
    if !v.getLsbD 31 then s
    else if v.getLsbD 30 then
      let m := getD 0 s.hom.seam r
      { s with hom := { s.hom with seamLo := m.extractLsb' 0 32, seamHi := m.extractLsb' 32 32 } }
    else
      let m : BitVec 64 := s.hom.seamHi ++ s.hom.seamLo
      ({ s with hom := { s.hom with seam := putD 0 r m s.hom.seam, seamBusy := some r } }).seamPush

end State

def execHomCtlWrite (v : Word) (s : State) : Ans := .next (s.homCtlWrite v)

def execHomCellSelect (v : Word) (s : State) : Ans := .next (if v.getLsbD 31 then s else s.homCellWrite v)

def execHomCellStore (v : Word) (s : State) : Ans := .next (if v.getLsbD 31 then s.homCellWrite v else s)

def execSeamRead (v : Word) (s : State) : Ans := .next (if v.getLsbD 31 && v.getLsbD 30 then s.homSeamWrite v else s)

def execSeamWrite (v : Word) (s : State) : Ans := .next (if v.getLsbD 31 && !v.getLsbD 30 then s.homSeamWrite v else s)

end Sys2Proof.Machine
end

