-- ==== Sys2Proof/Machine/Mending.lean ====
section
/-! DEFINITION. The Mending Engine: beacons, declarations, the fence, the walk, rejoining; and the machine check that stops
the package (17 R430 to R442; 22 R547). -/

namespace Sys2Proof.Machine

/-! ### The machine check (22 R545, R547) -/

/-- The CAUSE code of a machine check (R545). -/
def mchkCode : MchkCause → Nat
  | .control _ _ => 0
  | .ownCell => 1
  | .thermal => 2
  | .firmware => 3

namespace State

/-- The vector of DOWN flags with the own cell's bit. -/
def ownNotice (s : State) : DWord :=
  match s.cellOf s.self with
  | some c => s.hom.down ||| (1#64 <<< c)
  | none => s.hom.down

/-- A machine check arises from causes of one cclk: MGT_MCHK, the single DOWN_NOTICE, and the stop of the package. The
causes go out to the board controller, which removes power on a thermal trip. -/
def machineCheck (s : State) (causes : List MchkCause) : State :=
  let cs := (causes.map mchkCode).eraseDups
  match cs with
  | [] => s
  | k :: ks =>
    let first := !s.pkg.mchk.getLsbD 2
    let low := ks.foldl min k
    let reg : Word := if first then BitVec.ofNat 32 (low + 4 + if ks = [] then 0 else 8) else s.pkg.mchk ||| 8
    let s := cs.foldl (fun s k => s.emit (.mchk (BitVec.ofNat 8 k))) s
    let s := if first then s.emit (.notice s.ownNotice) else s
    { s with pkg := { s.pkg with mchk := reg, stopped := true } }

end State

/-- A soft error that ECC cannot correct is counted and located (22 R545). -/
def State.eccLost (s : State) (unit inst : Nat) : State :=
  { s with pkg := { s.pkg with
    eccUe := if s.pkg.eccUe = -1 then s.pkg.eccUe else s.pkg.eccUe + 1
    eccLoc := BitVec.ofNat 32 (unit + inst % 2 ^ 16 * 16) } }

/-- Count and locate the errors in control state among the causes of a machine check. -/
def State.eccCauses (s : State) (causes : List MchkCause) : State :=
  causes.foldl (fun s k => match k with
    | .control unit inst => s.eccLost unit.toNat inst.toNat
    | _ => s) s

/-- MACHINE_CHECK. -/
def execMachineCheck (causes : List MchkCause) (s : State) : Ans := .next ((s.eccCauses causes).machineCheck causes)

/-- LLC_SOFT_ERROR: an uncorrectable error in LLC data poisons the sector; one in control state is a machine check (10
R292; 22 R545). -/
def execLlcSoftError (sec : Nat) (inData : Bool) (s : State) : Ans :=
  let inst := 0x4000 + s.sliceOfSec sec
  if inData then
    .next ((s.eccLost 3 inst).modDir sec fun e => if e.lv then { e with val := { e.val with psn := true } } else e)
  else execMachineCheck [.control 4 (BitVec.ofNat 16 inst)] s

/-! ### The fence (R435) -/

namespace State

/-- Set LOST in a tag that names a package of a cell. -/
def loseTag (s : State) (c : Nat) (v : SecVal) : SecVal :=
  { v with tag := v.tag.map fun t => if s.cellOf t.pkg.toNat = some c then { t with lost := true } else t }

/-- LOST in every tag of the package that names a package of a cell (R265). -/
def loseTags (s : State) (c : Nat) : State :=
  let f := s.loseTag c
  { s with
    cores := s.cores.map fun (k, x) => (k, { x with l1 := x.l1.map fun (j, e) => (j, { e with val := f e.val }) })
    net := s.net.map fun m => { m with val := f m.val }
    dir := s.dir.map fun (k, e) => (k, { e with val := f e.val, held := e.held.map fun (j, v) => (j, f v) }) }

/-- Publish requests toward a cell end with PUBLISH_LOST, and its watermarks are dropped (R435 rule 4). -/
def losePubs (s : State) (c : Nat) : State :=
  let gone (r : FReq) : Bool := s.cellOf r.dst == some c && (match r.op with
    | .pub _ _ => true
    | _ => false)
  let asks := (s.fab.unacked ++ s.fab.waiting).filterMap fun r =>
    match r.op, r.owner with
    | .pub k n, .pub core => if s.cellOf r.dst = some c then some (core, (⟨r.dst, k, n⟩ : Asked)) else none
    | _, _ => none
  let cell := s.cellOf
  let s := { s with
    fab := { s.fab with
      unacked := s.fab.unacked.filter fun r => !gone r
      waiting := s.fab.waiting.filter fun r => !gone r }
    cores := s.cores.map fun (k, x) => (k, { x with known := x.known.filter fun w => cell w.pkg != some c }) }
  asks.foldl (fun s (core, q) => s.pubFailed core q 0x19) s

/-- Requests toward a cell end with PEER_DOWN, FREDs with a member there likewise (R435 rule 2; 15 R402 rule 3). -/
def loseReqs (s : State) (c : Nat) : State :=
  let dead (r : FReq) : Bool := s.cellOf r.dst == some c && decide (r.dst < 1024)
  let rs := s.fab.unacked.filter fun r => dead r && r.result.isNone
  let s := { s with fab := { s.fab with waiting := s.fab.waiting.filter fun r => !dead r } }
  let s := rs.foldl (fun s r => s.answer r (.fault 0x1C) SecVal.zero []) s
  let fs := s.fab.bulks.filter fun k => k.kind == 2 && ((s.collective? k.coll).map fun x =>
    x.members.any fun p => s.cellOf p == some c).getD false
  fs.foldl (fun s k => s.fredEnd k (some (0x1C, k.daddr))) s

/-- Requests from a cell that have not been performed are discarded, and its duplicate-filter entries freed (R435 rules
1, 3). -/
def loseSources (s : State) (c : Nat) : State :=
  let dead (p : Nat) : Bool := s.cellOf p == some c
  let keep : DReq → Bool
    | .podS p | .podX p | .podU p => !dead p
    | _ => true
  let one (e : DirE) : DirE := { e with fifo := e.fifo.filter keep }
  { s with
    fab := { s.fab with dups := s.fab.dups.filter fun d => !dead d.src }
    dir := s.dir.map fun (k, e) => (k, one e) }

/-- Pending-store and posted entries for sectors homed in a cell fault PEER_DOWN, deferred (R435 rule 5). -/
def loseStores (s : State) (c : Nat) : State :=
  (s.cores.map (·.1)).foldl (fun s k =>
    let x := s.core k
    let ps := x.posted.filter fun p => s.cellOf p.home == some c
    let es := x.pend.filter fun (sec, _) => s.cellOf (secHome sec) == some c
    let s := ps.foldl (fun s p => (s.postedFree k p.id).storeFault p.blk p.grp p.lane p.pc p.va 0x1C) s
    es.foldl (fun s (sec, _) => s.failPend k sec 0x1C) s) s

/-- The fence of a declaration. -/
def fence (s : State) (c : Nat) : State :=
  ((((((s.loseTags c).losePubs c).loseStores c).loseReqs c).loseSources c)).serveHeld

/-! ### Declarations (R432, R433, R441) -/

/-- A Mending record; dropped where its queue is full (R441). -/
def mendRecord (s : State) (w : Walk) (done : Bool) : State :=
  let x := w.cell + w.cause * 2 ^ 6 + (if done then 2 ^ 8 else 0) + w.epoch % 2 ^ 16 * 2 ^ 16 + w.pkg % 1024 * 2 ^ 32
    + (if done then w.poisoned % 2 ^ 32 * 2 ^ 96 else 0)
  match s.ioqPush (s.mnd.ctl.toNat / 4 % 1024) (toBytes 16 x) with
  | (s, true) => s
  | (s, false) => s.bump 13 4 0 1

/-- The packages that take a notice: valid, of a cell that is not down. -/
def noticed (s : State) : List Nat :=
  s.hom.cells.filterMap fun (k, v) =>
    if 1024 ≤ v ∧ v ≠ 1024 + s.self ∧ !s.hom.down.getLsbD (k / 16) then some (v - 1024) else none

/-- What the walk for a cell will visit: every entry of the pod directory, every line homed in the cell. -/
def walkFor (s : State) (c cause pkg : Nat) : Walk where
  cell := c
  entries := s.hom.pod.map (·.1)
  lines := s.dir.filterMap fun (k, e) => if e.pkgst ≠ .i ∧ s.cellOf (secHome k) = some c then some k else none
  cause := cause
  pkg := pkg
  epoch := s.mnd.epoch
  poisoned := 0

/-- The declaration that a cell is down. -/
def declareDown (s : State) (c cause pkg : Nat) : State :=
  if s.hom.down.getLsbD c || s.pkg.stopped then s
  else
    let s := { s with
      hom := { s.hom with down := s.hom.down ||| (1#64 <<< c) }
      mnd := { s.mnd with down := s.mnd.down ||| (1#64 <<< c), epoch := (s.mnd.epoch + 1) % 2 ^ 16 } }
    let s := s.bump 13 1 0 1
    let w := s.walkFor c cause pkg
    if s.cellOf s.self = some c then (s.mendRecord w false).machineCheck [.ownCell]
    else
      let s := s.noticed.foldl (fun s p => s.fabSend p false (.notice s.mnd.down) .engine) s
      let s := { s with mnd := { s.mnd with walks := (s.mnd.walks.filter fun (x : Walk) => x.cell != c) ++ [w], busy := true } }
      (s.fence c).mendRecord w false

/-- Every cell that a vector names and that is not down is declared, ascending. -/
def declareAll (s : State) (v : DWord) (pkg : Nat) : State :=
  (List.range 64).foldl (fun s c => if v.getLsbD c then s.declareDown c 1 pkg else s) s

/-! ### Beacons (R431, R432) -/

/-- The engine watches. -/
def watches (s : State) : Bool := s.mnd.ctl.getLsbD 0 && s.homeOpen && !s.pkg.stopped

/-- The beacon period in cclk, and the silence that declares a peer's cell down. -/
def beaconPeriod (s : State) : Nat := usCclk (s.mnd.beacon.toNat % 65536)

def beaconLimit (s : State) : Nat := s.beaconPeriod * max 1 (s.mnd.beacon.toNat / 65536 % 16)

end State

namespace State

/-- Send a BEACON to a package, by the station after the last one's in rotation among those that reach it; none leaves
where no station does (R431). -/
def beaconTo (s : State) (p : Nat) : State :=
  let n := getD 0 s.mnd.rot p
  match (getD [] s.fab.reach p)[n % (getD [] s.fab.reach p).length]? with
  | some k => ({ s with mnd := { s.mnd with rot := put p (n + 1) s.mnd.rot } }.emit (.beacon p k s.mnd.down)).bump 13 0 0 1
  | none => s

/-- The valid packages of the cell table but this one. -/
def peers (s : State) : List Nat :=
  s.hom.cells.filterMap fun (_, v) => if 1024 ≤ v ∧ v ≠ 1024 + s.self then some (v - 1024) else none

end State

/-- BEACON_SEND. -/
def execBeaconSend (s : State) : Ans :=
  .next (if s.watches && decide (s.mnd.lastSent + s.beaconPeriod ≤ s.now) then
    s.peers.foldl State.beaconTo { s with mnd := { s.mnd with lastSent := s.now } }
  else s)

/-- BEACON. -/
def execBeacon (pkg : Nat) (down : DWord) (s : State) : Ans :=
  .next (if s.pkg.stopped || s.cellDown pkg then s
    else
      let s := if s.watches then { s with mnd := { s.mnd with seen := put pkg s.now s.mnd.seen } } else s
      s.declareAll down pkg)

/-- BEACON_SILENCE: MISS × PERIOD µs since the last BEACON of a peer that is timed (R432 rule 1). -/
def execBeaconSilence (pkg : Nat) (s : State) : Ans :=
  .next (match find? pkg s.mnd.seen, s.cellOf pkg with
    | some t, some c => if s.watches && decide (t + s.beaconLimit ≤ s.now) then s.declareDown c 0 pkg else s
    | _, _ => s)

/-- DOWN_NOTICE: acknowledged, and its cells declared. -/
def execDownNotice (pkg : Nat) (down : DWord) (s : State) : Ans :=
  .next (if s.pkg.stopped || s.cellDown pkg then s else (s.emit (.noticeAck pkg)).declareAll down pkg)

/-! ### MND_CTL (R430, R432, R440) -/

namespace State

def mndErr (s : State) : State := { s with mnd := { s.mnd with ctl := s.mnd.ctl ||| 2 } }

/-- DECLARE: refused for the own cell and for a cell already down. -/
def mndDeclare (s : State) (c : Nat) : State :=
  if s.hom.down.getLsbD c || s.cellOf s.self = some c then s.mndErr else s.declareDown c 2 s.self

/-- REJOIN: refused for a cell that is not down and during a walk. -/
def mndRejoin (s : State) (c : Nat) : State :=
  if !s.hom.down.getLsbD c || s.mnd.busy then s.mndErr
  else
    let ms := s.membersOf c
    { s with
      hom := { s.hom with down := s.hom.down &&& ~~~(1#64 <<< c) }
      mnd := { s.mnd with down := s.mnd.down &&& ~~~(1#64 <<< c), seen := s.mnd.seen.filter fun (p, _) => !ms.contains p } }

/-- A write of MND_CTL. -/
def mndCtlWrite (s : State) (v : Word) : State :=
  let err : Word := if v.getLsbD 1 then 0 else s.mnd.ctl &&& 2
  let s := { s with mnd := { s.mnd with
    ctl := (v &&& 0x3FFFD) ||| err
    seen := if v.getLsbD 0 then s.mnd.seen else [] } }
  let c := v.toNat / 2 ^ 12 % 64
  let s := if v.getLsbD 30 then s.mndDeclare c else s
  if v.getLsbD 31 then s.mndRejoin c else s

end State

/-- MND_DECLARE. -/
def execMndDeclare (v : Word) (s : State) : Ans := .next (if v.getLsbD 30 then s.mndCtlWrite v else s)

/-- MND_REJOIN. -/
def execMndRejoin (v : Word) (s : State) : Ans := .next (if v.getLsbD 31 then s.mndCtlWrite v else s)

/-! ### The walk (R436, R441) -/

namespace State

/-- The walk in progress for a cell. -/
def walkOf (s : State) (c : Nat) : Option Walk := s.mnd.walks.find? fun (x : Walk) => x.cell == c

end State

/-- WALK_ENTRY_VISIT. -/
def execWalkEntryVisit (cell idx : Nat) (s : State) : Ans :=
  .next (match s.walkOf cell with
    | some w => if w.entries.contains idx then (s.walkEntry w idx).seamPush else s
    | none => s)

/-- WALK_LINE_VISIT: a transient line is waited for. -/
def execWalkLineVisit (cell sec : Nat) (s : State) : Ans :=
  .next (match s.walkOf cell with
    | some w => if w.lines.contains sec then s.walkLine sec else s
    | none => s)

/-- WALK_END: both parts of every walk have ended; WALK is 0 and the records are written. -/
def execWalkEnd (s : State) : Ans :=
  .next (if s.mnd.busy && s.mnd.walks.all fun w => w.entries.isEmpty && w.lines.isEmpty then
    let ws := s.mnd.walks
    let s := { s with mnd := { s.mnd with busy := false, walks := [] } }
    ws.foldl (fun s w => s.mendRecord w true) s
  else s)

end Sys2Proof.Machine
end

