-- ==== Sys2Proof/Machine/Shoot.lean ====
section
/-! DEFINITION. Walks that set A and D for a leased page, shootdowns, XLT_SHOOT and the TLBI forms (18 R449, R452, R457,
R458; 20 R515). -/

namespace Sys2Proof.Machine

namespace State

/-! ### Walks (R448, R449) -/

/-- A walk of a cluster's engine for a pinned page: the leaf, in which A is set, and D where it grants writes and the page
meets an rw range; none where the walk faults. -/
def walkPinned (s : State) (cl asid va : Nat) (rs : List Range) : State × Option Tlb :=
  match s.walkBy cl asid va with
  | (none, s) => (s, none)
  | (some (ea, lvl, p), s) =>
    let e := tlbOf asid va lvl p
    if s.leafBad e then (s, none)
    else
      let d := e.w && rs.any fun r => r.rw && decide (r.base < e.vpage + e.size) && decide (e.vpage < r.base + r.len)
      let p' := p ||| 2 ^ 10 ||| (if d then 2 ^ 11 else 0)
      (if p' = p then s else s.homeSetNum ea 8 p', some { e with dirty := e.dirty || d })

/-! ### What a shootdown names -/

/-- A page of an address space is named. A line is taken by the largest page that could hold it. -/
def Shoot_names (k : ShKind) (asid va : Nat) (a vpage size : Nat) : Bool :=
  match k with
  | .page => a == asid && decide (vpage ≤ va) && decide (va < vpage + size)
  | .asid => a == asid
  | .all => true

def Shoot_line (k : ShKind) (asid va : Nat) (a addr : Nat) : Bool :=
  Shoot_names k asid va a (addr / 2 ^ 32 * 2 ^ 32) (2 ^ 32)

/-- Rules 1 and 2 on one TLB: an unpinned entry goes; a pinned one is walked again, or is broken. -/
def shootTlb (s : State) (cl : Nat) (k : ShKind) (asid va : Nat) : List Tlb → State × List Tlb
  | [] => (s, [])
  | e :: es =>
    if !Shoot_names k asid va e.asid e.vpage e.size then
      let (s, t) := s.shootTlb cl k asid va es
      (s, e :: t)
    else if e.pins = 0 then s.shootTlb cl k asid va es
    else
      let rs := s.blocks.flatMap fun (_, x) => if x.cluster = cl ∧ x.asid = e.asid then leaseOf x.fr x.nblk else []
      let (s, r) := s.walkPinned cl e.asid e.vpage rs
      let s := s.bump 14 2 cl 1
      let e' : Tlb := match r with
        | some x => { x with pins := e.pins }
        | none => { e with broken := true }
      let (s, t) := s.shootTlb cl k asid va es
      (s, e' :: t)

/-- Rule 1 on every walk cache: the entries of the ASID, or of every ASID, go. -/
def shootNodes (s : State) (k : ShKind) (asid : Nat) : State :=
  let left (p : Nat × List WalkNode) : Nat × List WalkNode := (p.1, p.2.filter (·.asid != asid))
  let nodes : Tab (List WalkNode) := if k = ShKind.all then [] else s.xlt.nodes.map left
  { s with xlt := { s.xlt with nodes := nodes } }

/-- Rules 1 and 2 on every TLB, after rule 1 on every walk cache. -/
def shootTlbs (s : State) (k : ShKind) (asid va : Nat) : State :=
  let s := s.shootNodes k asid
  (s.xlt.tlb.map (·.1)).foldl (fun s cl =>
    let (s, t) := s.shootTlb cl k asid va (getD [] s.xlt.tlb cl)
    { s with xlt := { s.xlt with tlb := put cl t s.xlt.tlb } }) s

/-- Rule 4: matching stable L1 copies leave with their dirty data and tags, and instruction-cache lines go. -/
def shootLines (s : State) (k : ShKind) (asid va : Nat) : State :=
  (s.cores.map (·.1)).foldl (fun s c =>
    let s := s.modCore c fun x => { x with icache := x.icache.filter fun i => !Shoot_line k asid va i.asid i.line }
    ((s.core c).l1.filter fun (_, e) => Shoot_line k asid va e.asid (64 * e.vsec)).foldl
      (fun s (sec, e) => s.l1Drop c sec e) s) s

/-- Matching L1 copies are left. -/
def shootLeft (s : State) (k : ShKind) (asid va : Nat) : Bool :=
  s.cores.any fun (_, x) => x.l1.any fun (_, e) => Shoot_line k asid va e.asid (64 * e.vsec)

/-! ### The accesses of rule 5 -/

/-- The block for which a request left the package. -/
def ownerBlk (s : State) (o : FOwner) : Option Nat :=
  match o with
  | .lane a _ => (s.acc? a).map (·.blk)
  | .posted c i => ((s.core c).posted.find? (·.id == i)).map (·.blk)
  | .slice b _ _ | .tile b _ | .spill b _ _ => some b
  | .bulk i _ | .source i => (s.bulk? i).map (·.blk)
  | _ => none

/-- A block's address space is one that a shootdown names. -/
def shootBlk (s : State) (k : ShKind) (asid b : Nat) : Bool :=
  match k with
  | .all => true
  | _ => ((s.blk? b).map (·.asid)) == some asid

/-- A shootdown starts: rules 1, 2 and 4, and the record of what rule 5 waits for. -/
def shootStart (s : State) (k : ShKind) (asid va : Nat) (asker : Option (Nat × Nat × Nat)) : State :=
  let on (o : FOwner) : Bool := ((s.ownerBlk o).map fun b => s.shootBlk k asid b).getD false
  let sh : Shoot := {
    kind := k, asid := asid, va := va, asker := asker
    accs := (s.accs.filter fun a => s.shootBlk k asid a.blk && a.lanes.any fun z => match z.st with
      | .waitPub _ _ _ _ => true
      | _ => false).map (·.id)
    posts := s.cores.flatMap fun (c, x) => (x.posted.filter fun p => s.shootBlk k asid p.blk).map fun p => (c, p.id)
    pends := s.cores.flatMap fun (c, x) => (x.pend.filter fun (_, p) =>
      p.owners.any fun (b, _) => s.shootBlk k asid b).map fun (sec, _) => (c, sec)
    reqs := (s.fab.unacked.filter fun r => on r.owner && r.result.isNone).map fun r => (r.dst, r.seq)
    hreqs := (s.hst.reqs.filter fun r => on r.owner && r.result.isNone).map (·.id) }
  let s := { s with xlt := { s.xlt with busy := true, shoot := some sh } }
  (s.shootTlbs k asid va).shootLines k asid va

/-- Everything that a shootdown waits for is done. -/
def shootDone (s : State) (h : Shoot) : Bool :=
  !s.shootLeft h.kind h.asid h.va
    && h.accs.all (fun i => ((s.acc? i).map fun a => !a.lanes.any fun z => match z.st with
      | .waitPub _ _ _ _ => true
      | _ => false).getD true)
    && h.posts.all (fun (c, i) => !(s.core c).posted.any (·.id == i))
    && h.pends.all (fun (c, sec) => (find? sec (s.core c).pend).isNone)
    && h.reqs.all (fun (d, q) => !s.fab.unacked.any fun r => r.dst == d && r.seq == q && r.result.isNone)
    && h.hreqs.all fun i => !s.hst.reqs.any fun r => r.id == i && r.result.isNone

/-- The clusters of the part. -/
def clusters (s : State) : List Nat := (List.range 64).filter fun c => s.pkg.caps.cores.any fun k => k / 4 == c

end State

/-- SHOOTDOWN_COMPLETE: copies that have become stable leave; where nothing is left to wait for, DONE. -/
def execShootdownComplete (s : State) : Ans :=
  .next (match s.xlt.shoot with
    | none => s
    | some h =>
      let s := s.shootLines h.kind h.asid h.va
      if s.shootDone h then
        let s := { s with xlt := { s.xlt with busy := false, done := true, shoot := none } }
        let s := s.clusters.foldl (fun s c => s.bump 14 4 c 1) s
        match h.asker with
        | some (b, g, l) => s.modThr b g l fun t => { t with shot := true }
        | none => s
      else s)

/-- TABLE_WALK: the walk of a load or a store of an address space completes, or waits for what it is to read (R449). -/
def execTableWalk (cluster asid vpage : Nat) (write : Bool) (s : State) : Ans :=
  let w := if write then Want.store (asid == 0) else Want.load (asid == 0)
  .next (match s.walkReady cluster asid vpage w with
    | (s, false) => s
    | (s, true) => (s.walkFill cluster asid vpage w).1)

/-! ### XLT_SHOOT (R458) -/

namespace State

/-- A write of XLT_SHOOT: refused with GO while BUSY, or with KIND 3. -/
def xltShootWrite (s : State) (v : Word) : State :=
  let k := v.toNat / 2 ^ 11 % 4
  if (v.getLsbD 31 && s.xlt.busy) || k == 3 then { s with xlt := { s.xlt with err := true } }
  else
    let s := { s with xlt := { s.xlt with shootReg := v &&& 0x1FFF } }
    if v.getLsbD 31 then
      s.shootStart (if k = 0 then .page else if k = 1 then .asid else .all) (v.toNat % 2 ^ 11)
        (s.xlt.shootVa.toNat % 2 ^ 56) none
    else s

end State

/-- A write of XLT_SHOOT that starts a shootdown of one kind. -/
def shootEvent (k : Nat) (v : Word) (s : State) : Ans :=
  .next (if v.getLsbD 31 && !s.xlt.busy && v.toNat / 2 ^ 11 % 4 == k then s.xltShootWrite v else s)

def execXltShootPage (v : Word) (s : State) : Ans := shootEvent 0 v s

def execXltShootAsid (v : Word) (s : State) : Ans := shootEvent 1 v s

def execXltShootAll (v : Word) (s : State) : Ans := shootEvent 2 v s

/-- XLT_SHOOT_REFUSED. -/
def execXltShootRefused (v : Word) (s : State) : Ans :=
  .next (if (v.getLsbD 31 && s.xlt.busy) || v.toNat / 2 ^ 11 % 4 == 3 then s.xltShootWrite v else s)

/-! ### TLBI (20 R515) -/

/-- The check of a TLBI in one lane: FENCE.rel.sys, the address, the shootdown. -/
def State.tlbiChk (s : State) (c : Cur) (l : Nat) (k : ShKind) (x : Ext) (a b : Opnd) : State × Chk :=
  match s.loadsChk c l with
  | .pass =>
    match s.fenceRel c l with
    | (s, .pass) =>
      let (va, asid) := match s.grp? c.blk c.grp with
        | some y =>
          match y.threads[l]? with
          | some t => (src64 .l64 y t l a, src32 x y t l b % 2 ^ 11)
          | none => (0, 0)
        | none => (0, 0)
      if k = .page ∧ 2 ^ 56 ≤ va then (s, .fault 0x10 va false)
      else if ((s.thr? c.blk c.grp l).map (·.shot)).getD true then (s, .pass)
      else if s.xlt.busy then (s, .wait)
      else (s.shootStart k asid va (some (c.blk, c.grp, l)), .wait)
    | r => r
  | k => (s, k)

/-- A TLBI form. -/
def tlbiForm (i : Instr) (h : Hd) (s : State) (k : ShKind) (a b : Opnd) : Ans :=
  issue i h.g s (fun s c l => s.tlbiChk c l k h.ext a b) fun s _ _ => s

def execTlbiPage (h : Hd) (a b : Opnd) (s : State) : Ans := tlbiForm (.tlbiPage h a b) h s .page a b

def execTlbiAsid (h : Hd) (b : Opnd) (s : State) : Ans := tlbiForm (.tlbiAsid h b) h s .asid (.k 0) b

def execTlbiAll (h : Hd) (s : State) : Ans := tlbiForm (.tlbiAll h) h s .all (.k 0) (.k 0)

end Sys2Proof.Machine
end

