-- ==== Sys2Proof/Machine/Dispatcher.lean ====
section
/-! DEFINITION. The dispatcher: descriptors, records and launch frames, admission and leases, budgets, placement, joins,
commands, and what the dispatcher forms wait for (19 R461 to R488; 18 R452). -/

namespace Sys2Proof.Machine

/-! ### Descriptors (R461, R462) -/

namespace State

/-- A little-endian number of n bytes at a global physical address of own HBM. -/
def ownNum (s : State) (base : DWord) (off n : Nat) : Nat := s.homeNum (gpaOff base.toNat + off) n

/-- The descriptor of a stream as memory holds it. -/
def readStream (s : State) (st : Nat) : Stream :=
  let x := s.ownNum s.dsp.stbase (64 * st) 32
  { asid := bitsOf x 10 0
    en := bitOf x 11
    policy := BitVec.ofNat 12 (bitsOf x 27 16)
    deadline := bitsOf x 47 32
    corelim := bitsOf x 72 64
    bwlim := bitsOf x 95 80
    pwrlim := bitsOf x 111 96
    savebase := bitsOf x 189 128
    saven := bitsOf x 223 192
    stopped := false
    killed := false }

/-- The descriptor of a queue as memory holds it. -/
def readQueue (s : State) (q : Nat) : Queue :=
  let x := s.ownNum s.dsp.qtbase (32 * q) 32
  { ring := bitsOf x 61 0
    log2n := bitsOf x 68 64
    cls := bitsOf x 70 69
    en := bitOf x 71
    spn := bitOf x 72
    stream := bitsOf x 82 73
    head := bitsOf x 117 96
    tail := bitsOf x 149 128
    parked := ((find? q s.dsp.queues).map (·.parked)).getD false }

def setQueue (s : State) (q : Nat) (d : Queue) : State := { s with dsp := { s.dsp with queues := put q d s.dsp.queues } }

def setStream (s : State) (st : Nat) (d : Stream) : State :=
  { s with dsp := { s.dsp with streams := put st d s.dsp.streams } }

/-- The stream as loaded, or loaded now. -/
def streamOf (s : State) (st : Nat) : Stream := (find? st s.dsp.streams).getD (s.readStream st)

/-- The queue as loaded, or loaded now. -/
def queueOf (s : State) (q : Nat) : Queue := (find? q s.dsp.queues).getD (s.readQueue q)

end State

/-- An enabled queue whose ring size is in range. -/
def Queue.usable (d : Queue) : Bool := d.en && decide (4 ≤ d.log2n) && decide (d.log2n ≤ 20)

/-- Records in a ring. -/
def Queue.fill (d : Queue) : Nat := (d.tail + 2 ^ 22 - d.head) % 2 ^ 22

/-- A ring has room for a record. -/
def Queue.room (d : Queue) : Bool := d.fill != 2 ^ d.log2n

/-- The address of record i of a ring. -/
def Queue.recAt (d : Queue) (i : Nat) : Nat := d.ring + 32 * (i % 2 ^ d.log2n)

namespace State

/-- The dispatcher writes HEAD and TAIL of a queue. -/
def putHead (s : State) (q : Nat) (d : Queue) : State :=
  let s := s.setQueue q d
  let s := s.homeSetNum (gpaOff s.dsp.qtbase.toNat + 32 * q + 12) 4 d.head
  s.homeSetNum (gpaOff s.dsp.qtbase.toNat + 32 * q + 16) 4 d.tail

/-- A write of DSP_QDB (R462, R463). -/
def queueDoorbell (s : State) (v : Word) : State :=
  let q := v.toNat % 1024
  let t := v.toNat / 1024
  let d := s.readQueue q
  let s := s.setQueue q d
  let up := (t + 2 ^ 22 - d.tail) % 2 ^ 22
  if d.spn || !d.usable || up == 0 || decide (2 ^ 21 ≤ up) then s
  else if 2 ^ d.log2n < (t + 2 ^ 22 - d.head) % 2 ^ 22 then { s with dsp := { s.dsp with err := true } }
  else s.putHead q { d with tail := t }

end State

/-- QUEUE_DOORBELL. -/
def execQueueDoorbell (v : Word) (s : State) : Ans := .next (s.queueDoorbell v)

/-! ### Dispatch-error records (R470) -/

namespace State

/-- A dispatch-error record. -/
def dispError (s : State) (kind va code stream queue asid : Nat) : State :=
  let x := va % 2 ^ 56 + code % 256 * 2 ^ 56 + stream % 1024 * 2 ^ 64 + queue % 1024 * 2 ^ 74 + asid % 2 ^ 11 * 2 ^ 84
    + kind * 2 ^ 96
  match (s.bump 15 5 0 1).ioqPush (s.dsp.ctl.toNat / 2 % 1024) (toBytes 16 x) with
  | (s, true) => s
  | (s, false) => { s with dsp := { s.dsp with drop := true } }

end State

/-! ### Records and launch frames (R465, R467 to R469, R472) -/

/-- A record from its 32 bytes; none where KIND is reserved or a zero field is not zero. -/
def parseRecord (x : Nat) : Option Record :=
  if 2 ≤ bitsOf x 193 192 ∨ bitsOf x 63 56 ≠ 0 ∨ bitsOf x 127 120 ≠ 0 ∨ bitsOf x 191 184 ≠ 0 ∨ bitsOf x 223 194 ≠ 0 then none
  else some ⟨bitsOf x 55 0, bitsOf x 119 64, bitsOf x 183 128, bitOf x 192, BitVec.ofNat 32 (bitsOf x 255 224)⟩

/-- A range entry of a frame. -/
def rangeAt (x i : Nat) : Range :=
  let e := x / 2 ^ (512 + 128 * i)
  ⟨bitsOf e 55 0, bitsOf e 111 64, bitOf e 127⟩

/-- The fields of a frame from its header and range entries. -/
def parseFrame (x : Nat) : LFrame where
  entry := bitsOf x 55 0
  nblk := bitsOf x 95 64
  bthreads := bitsOf x 108 96
  regs := bitsOf x 124 112
  scratch := bitsOf x 146 128
  span := bitsOf x 149 147
  ordered := bitOf x 150
  progress := bitOf x 151
  ws := bitOf x 152
  mcx := bitsOf x 154 153
  mcy := bitsOf x 156 155
  yield := bitsOf x 191 160
  policy := BitVec.ofNat 10 (bitsOf x 201 192)
  polset := BitVec.ofNat 5 (bitsOf x 206 202)
  bwt := bitsOf x 239 224
  pwt := bitsOf x 255 240
  spillbase := bitsOf x 311 256
  spillsz := bitsOf x 351 320
  tsaddr := bitsOf x 439 384
  tslines := bitsOf x 446 440
  ranges := (List.range (bitsOf x 210 207)).map (rangeAt x)

/-- The fields of a frame that the layout leaves zero are zero. -/
def frameZeros (x : Nat) : Bool :=
  [(63, 56), (111, 109), (127, 125), (159, 157), (223, 211), (319, 312), (383, 352), (447, 440 + 7), (511, 448)].all
      (fun (hi, lo) => bitsOf x hi lo == 0)
    && (List.range (bitsOf x 210 207)).all fun i =>
      let e := x / 2 ^ (512 + 128 * i)
      bitsOf e 63 56 == 0 && bitsOf e 126 112 == 0

/-- Groups of a block. -/
def LFrame.groups (f : LFrame) : Nat := f.bthreads / 32

/-- The groups of a share when a block spans c cores. -/
def LFrame.share (f : LFrame) (c : Nat) : Nat := (f.groups + c - 1) / c

/-- An empty core can hold a share of a block on c cores (R472). -/
def LFrame.shareFits (f : LFrame) (c : Nat) : Bool :=
  decide (f.share c ≤ 64) && decide (f.share c * (32 * f.regs) ≤ 131072) && decide (portion f.scratch c ≤ 458752)

/-- C (R472). -/
def LFrame.span? (f : LFrame) : Option Nat :=
  if f.span ≠ 0 then (if f.shareFits f.span then some f.span else none) else [1, 2, 3, 4].find? f.shareFits

def LFrame.cspan (f : LFrame) : Nat := f.span?.getD 1

namespace State

/-- The cores of the part in a cluster. -/
def coresOf (s : State) (cl : Nat) : List Nat := (List.range 4).map (4 * cl + ·) |>.filter s.pkg.caps.cores.contains

/-- A frame's fields are in their ranges and some cluster of the part could hold a block (R469). -/
def frameOk (s : State) (f : LFrame) (task : Bool) : Bool :=
  (task || f.nblk != 0) && decide (32 ≤ f.bthreads) && decide (f.bthreads ≤ 4096) && f.bthreads % 32 == 0
    && decide (8 ≤ f.regs) && decide (f.regs ≤ 4096) && f.regs % 8 == 0 && decide (f.scratch ≤ 458752)
    && decide (f.span ≤ 4) && f.spillsz % 16 == 0 && decide (f.tslines ≤ 64) && !(f.progress && f.yield == 0)
    && (match f.span? with
      | some c => (List.range 64).any fun cl => decide (c ≤ (s.coresOf cl).length)
      | none => false)

/-- The dispatcher as an agent of memory, under an address space: no lease stands between it and memory. -/
def dispAgent (s : State) (asid : Nat) : Agent :=
  { blk := 0, grp := 0, lane := 0, core := s.pkg.caps.cores.headD 0, asid := asid, priv := true }

/-- A record's ring slot, read coherently. -/
def ringRead (s : State) (pa : Nat) : State × BGot :=
  match s.homeReady (pa / 64) false with
  | (s, none) => (s, .wait)
  | (s, some (some code)) => (s, .fault code pa false)
  | (s, some none) =>
    let v := s.cohRead (pa / 64)
    (s.readBy (pa / 64), if v.psn then .fault 0x18 pa false else .bytes (toBytes 32 (takeSec v.bytes (pa % 64) 32)))

/-- The key of a grid that is not yet admitted. -/
def pendKey (q : Nat) : Nat := 2 ^ 32 + q

/-- The grid of a queue that still has blocks to place, or waits to be admitted. -/
def openGrid (s : State) (q : Nat) : Option Grid :=
  s.dsp.grids.findSome? fun (_, g) => if g.queue = q ∧ (!g.admitted ∨ g.nextBlk < g.nblk) then some g else none

def delGrid (s : State) (k : Nat) : State := { s with dsp := { s.dsp with grids := del k s.dsp.grids } }

def park (s : State) (q : Nat) (on : Bool) : State :=
  match find? q s.dsp.queues with
  | some d => s.setQueue q { d with parked := on }
  | none => s

/-- A malformed record is discarded (R469). -/
def badRecord (s : State) (q addr stream asid : Nat) : State :=
  { (s.dispError 1 addr 0 stream q asid) with dsp := { (s.dispError 1 addr 0 stream q asid).dsp with bad := true } }

/-- The frame of a taken record has been read, or its reading faulted: validated, discarded, or parked. -/
def frameTaken (s : State) (q : Nat) (g : Grid) (r : BGot) : State :=
  match r with
  | .wait => s
  | .fault code va _ =>
    ((s.setGrid { g with read := false }).dispError 0 va code.toNat g.stream q g.asid).park q true
  | .bytes bs =>
    let s := s.dropAnswers (.disp q)
    let x := ofBytes bs
    let f := parseFrame x
    if frameZeros x && s.frameOk f g.record.task then
      let f := if g.record.task then { f with nblk := 1, mcx := 0, mcy := 0 } else f
      s.setGrid { g with read := true, fr := f, nblk := f.nblk }
    else (s.delGrid g.id).badRecord q g.recAddr g.stream g.asid

/-- The dispatcher runs: enabled, in a booted package that no machine check has stopped. -/
def dispatching (s : State) : Bool := s.dsp.ctl.getLsbD 0 && s.pkg.booted && !s.pkg.stopped

/-- The next record of a queue is taken (R462, R464, R469). -/
def recordTake (s : State) (q : Nat) : State :=
  match find? q s.dsp.queues with
  | none => s
  | some d =>
    let st := s.streamOf d.stream
    let s := s.setStream d.stream st
    if !s.dispatching || !d.usable || d.fill == 0 || d.parked || (s.openGrid q).isSome || !st.en || st.stopped || st.killed then s
    else
      let addr := d.recAt d.head
      match s.ringRead addr with
      | (s, .wait) => s
      | (s, .fault code va _) => (s.dispError 0 va code.toNat d.stream q st.asid).park q true
      | (s, .bytes bs) =>
        let taken (s : State) : State := (s.putHead q { d with head := (d.head + 1) % 2 ^ 22 }).bump 15 0 0 1
        match parseRecord (ofBytes bs) with
        | none => (taken s).badRecord q addr d.stream st.asid
        | some r =>
          if r.frame % 64 ≠ 0 ∨ r.join % 64 ≠ 0 then (taken s).badRecord q addr d.stream st.asid
          else
            let g : Grid := {
              id := pendKey q, queue := q, stream := d.stream, asid := st.asid, record := r, recAddr := addr, read := false
              fr := LFrame.zero, opened := 0, nblk := 1, nextBlk := 0, saved := [], ended := 0, admitted := false
              admitAt := 0, killed := false, cores := [] }
            match s.readRange (s.dispAgent st.asid) (.disp q) r.frame 304 with
            | (s, .wait) => s
            | (s, x) => (taken s).frameTaken q g x

end State

/-- RECORD_TAKE. -/
def execRecordTake (queue : Nat) (s : State) : Ans := .next (s.recordTake queue)

/-! ### Admission and leases (R452, R470) -/

namespace State

/-- Walk the pages of a range: the address at which a walk faults, or the pages. -/
def rangePages (s : State) (asid : Nat) (fin : Nat) : Nat → Nat → Except Nat (List (Nat × Nat))
  | 0, _ => .ok []
  | k + 1, va =>
    if fin ≤ va then .ok []
    else if 2 ^ 56 ≤ va then .error va
    else
      match s.walk asid va with
      | none => .error va
      | some (_, lvl, p) =>
        let e := tlbOf asid va lvl p
        if s.leafBad e then .error va
        else
          match s.rangePages asid fin k (e.vpage + e.size) with
          | .ok l => .ok ((e.vpage, e.size) :: l)
          | r => r

/-- The pages of a lease, each once. -/
def leasePages (s : State) (asid : Nat) : List Range → Except Nat (List (Nat × Nat))
  | [] => .ok []
  | r :: rs =>
    match s.rangePages asid (r.base + r.len) (r.len / 65536 + 2) r.base with
    | .error va => .error va
    | .ok l =>
      match s.leasePages asid rs with
      | .ok l' => .ok (l ++ l'.filter fun p => !l.contains p)
      | r => r

/-- The set of the TLB in which the entry of a page lies. -/
def pageSet (asid : Nat) (p : Nat × Nat) : Nat := Config.tlbSet asid p.1 p.2 % 512

/-- The first page of a lease in a set of the TLB in which the lease alone has more than 12 pages (R452 rule 3, R470). -/
def leaseOver (asid : Nat) (ps : List (Nat × Nat)) : Option Nat :=
  if ps.length ≤ 12 then none
  else (ps.find? fun p => decide (12 < ps.countP fun q => pageSet asid q == pageSet asid p)).map (·.1)

/-- Pin the pages of a lease on a cluster (R452). -/
def pinPages (s : State) (cl asid : Nat) (rs : List Range) : List (Nat × Nat) → State
  | [] => s
  | (vp, _) :: ps =>
    match s.walkPinned cl asid vp rs with
    | (s, none) => s.pinPages cl asid rs ps
    | (s, some e) =>
      let s := (s.bump 14 2 cl 1).tlbFill cl e
      let raise (x : Tlb) : Tlb := if x.asid == e.asid && x.vpage == e.vpage && x.size == e.size
        then { x with pins := x.pins + 1 } else x
      ({ s with xlt := { s.xlt with tlb := put cl ((getD [] s.xlt.tlb cl).map raise) s.xlt.tlb } }).pinPages cl asid rs ps

/-- The walks of a grid's lease can read what the home holds: copies that another package or the host holds are recalled
(16 R413), and with pin those of the leaves to be written (R452). -/
def leaseReady (s : State) (g : Grid) (pin : Bool) : State × Bool :=
  if s.hom.pod.isEmpty then (s, true)
  else
    let vas := match s.leasePages g.asid (leaseOf g.fr g.nblk) with
      | .error va => [va]
      | .ok ps => ps.map fun (p : Nat × Nat) => p.1
    match s.secsReady false (vas.flatMap fun va => s.walkSecs [] g.asid va) with
    | (s, false) => (s, false)
    | (s, true) => if pin then s.secsReady true (vas.flatMap fun va => s.leafSec g.asid va true) else (s, true)

/-- Admit the grid of a queue (R470). -/
def gridAdmit (s : State) (q : Nat) : State :=
  match find? (pendKey q) s.dsp.grids, find? q s.dsp.queues with
  | some g, some d =>
    if d.parked || !s.dispatching then s
    else if !g.read then
      match s.readRange (s.dispAgent g.asid) (.disp q) g.record.frame 304 with
      | (s, r) => s.frameTaken q g r
    else
      match s.leaseReady g false with
      | (s, false) => s
      | (s, true) =>
      match s.leasePages g.asid (leaseOf g.fr g.nblk) with
      | .error va => (s.dispError 0 va 0x10 g.stream q g.asid).park q true
      | .ok ps =>
        match State.leaseOver g.asid ps with
        | some va => (s.dispError 0 va 0 g.stream q g.asid).park q true
        | none =>
        if g.fr.ws && !s.wsWrite.isEmpty then s
        else
          let id := s.dsp.nextGrid
          let s := (s.delGrid (pendKey q)).setGrid { g with id := id, admitted := true, admitAt := s.now }
          let s := { s with dsp := { s.dsp with nextGrid := (id + 1) % 2 ^ 32 } }
          (if g.fr.ws then { s with wsReaders := s.wsReaders + 1 } else s).bump 15 1 0 1
  | _, _ => s

end State

/-- GRID_ADMIT. -/
def execGridAdmit (queue : Nat) (s : State) : Ans := .next (s.gridAdmit queue)

/-! ### Budgets and room (R471, R472) -/

namespace State

/-- What the resident blocks of a stream, or of every stream, hold: cores, bandwidth and power tokens. -/
def costOf (s : State) (st : Option Nat) : Nat × Nat × Nat :=
  s.blocks.foldl (fun (c, b, p) (_, x) => if st.all (· == x.stream)
    then (c + x.cores.length, b + x.fr.bwt, p + x.fr.pwt) else (c, b, p)) (0, 0, 0)

/-- The budgets allow n more blocks of a frame of a stream. -/
def budgetOk (s : State) (st n : Nat) (f : LFrame) : Bool :=
  let d := s.streamOf st
  let (c, b, p) := s.costOf (some st)
  let (_, pb, pp) := s.costOf none
  let fits (lim used cost : Nat) : Bool := cost == 0 || decide (used + n * cost ≤ lim)
  (d.corelim == 0 || fits d.corelim c f.cspan)
    && (d.bwlim == 0 || fits d.bwlim b f.bwt) && fits (s.dsp.pkgbud.toNat % 65536) pb f.bwt
    && (d.pwrlim == 0 || fits d.pwrlim p f.pwt) && fits (s.dsp.pkgbud.toNat / 65536) pp f.pwt

/-- The carve-out offsets that portions on a core take. -/
def portionsOn (s : State) (core : Nat) : List (Nat × Nat) :=
  s.blocks.filterMap fun (_, x) => if x.cores.contains core ∧ x.fr.scratch ≠ 0
    then some (x.scrOff.getD (x.cores.idxOf core) 0, portion x.fr.scratch x.cores.length) else none

/-- The lowest carve-out offset at which n bytes are free on a core (R175, R176). -/
def carveRoom (s : State) (core n : Nat) : Option Nat :=
  let k := (s.core core).carve
  let top := 65536 * (if k.busy then min k.cur.toNat k.tgt.toNat else k.cur.toNat)
  let ps := s.portionsOn core
  let free (o : Nat) : Bool := decide (o + n ≤ top) && ps.all fun (a, m) => decide (a + m ≤ o) || decide (o + n ≤ a)
  if n = 0 then some 0
  else ((0 :: ps.map fun (a, m) => a + m).filter free).foldl (fun b o => some (match b with
    | some x => min x o
    | none => o)) none

/-- The groups resident on a core, as (quadrant, slot, registers); an ended group has released them (R119). -/
def groupsAt (s : State) (core : Nat) : List (Nat × Nat × Nat) :=
  s.blocks.flatMap fun (_, x) => x.groups.filterMap fun y => if y.core = core ∧ !y.ended then some (y.quad, y.slot, 32 * x.fr.regs)
    else none

/-- A core has room for k groups of a block on c cores (R472). -/
def coreRoom (s : State) (core k : Nat) (f : LFrame) : Bool :=
  let gs := s.groupsAt core
  s.pkg.caps.cores.contains core && decide (gs.length + k ≤ 64)
    && decide ((gs.map (·.2.2)).sum + k * (32 * f.regs) ≤ 131072)
    && (s.carveRoom core (portion f.scratch f.cspan)).isSome
    && (f.tslines == 0 || !s.blocks.any fun (_, x) => x.tiles.any fun t => t.core == core)

/-- Groups of the share with CIDX i. -/
def shareOf (f : LFrame) (i : Nat) : Nat := min (f.share f.cspan) (f.groups - i * f.share f.cspan)

/-- A block fits on cores of a cluster, with a quadrant for each of its groups. -/
def blockFits (s : State) (f : LFrame) (cl : Nat) (cores quads : List Nat) : Bool :=
  let c := f.cspan
  let sh := f.share c
  cores.length == c && cores.Pairwise (· < ·) && cores.all (fun k => k / 4 == cl)
    && (List.range c).all (fun i => s.coreRoom (cores.getD i 0) (shareOf f i) f)
    && quads.length == f.groups && quads.all (· < 4)
    && (List.range c).all fun i => (List.range 4).all fun q =>
      decide (((s.groupsAt (cores.getD i 0)).filter (·.1 == q)).length
        + (((quads.drop (i * sh)).take sh).filter (· == q)).length ≤ 16)

/-- The lease of a grid is pinned on a cluster, or fits there beside what other leases pin: at most 12 entries of a set
(R452 rule 3). -/
def leaseFits (s : State) (g : Grid) (cl : Nat) : Bool :=
  (s.blocks.any fun (_, x) => x.gridid == g.id && x.cluster == cl)
    || (match s.leasePages g.asid (leaseOf g.fr g.nblk) with
      | .error _ => true
      | .ok ps =>
        let mine (e : Tlb) : Bool := e.asid == g.asid && ps.contains (e.vpage, e.size)
        let pinned := (getD [] s.xlt.tlb cl).filter fun e => e.pins != 0 && !mine e
        decide (ps.length + pinned.length ≤ 12) || ps.all fun p =>
          decide ((ps.countP fun q => pageSet g.asid q == pageSet g.asid p)
            + (pinned.countP fun e => pageSet e.asid (e.vpage, e.size) == pageSet g.asid p) ≤ 12))

/-- Some cores of a cluster, in ascending order, have room for the shares of a block (R472). -/
def roomIn (s : State) (f : LFrame) (cl : Nat) : Bool :=
  (List.range 16).any fun m =>
    let cs := (s.coresOf cl).filter fun k => m.testBit (k % 4)
    cs.length == f.cspan && (List.range f.cspan).all fun i => s.coreRoom (cs.getD i 0) (shareOf f i) f

/-- Some cluster could take a block of a grid now. -/
def couldPlace (s : State) (g : Grid) : Bool :=
  s.budgetOk g.stream 1 g.fr && (List.range 64).any fun cl => s.roomIn g.fr cl && s.leaseFits g cl

/-! ### A block is made (R467, R472, R475) -/

/-- The group slot that a placed group takes: the lowest free one of its quadrant. The spec does not say which (R104); it
decides which of two groups of one age counts as the older (DESIGN CHOICE, assumption log 57). -/
def freeSlot (used : List (Nat × Nat)) (quad : Nat) : Nat :=
  ((List.range 16).find? fun k => !used.contains (quad, k)).getD 0

/-- The quadrants and slots of a share's groups, after those taken. -/
def slotsFor (used : List (Nat × Nat)) : List Nat → List (Nat × Nat)
  | [] => []
  | q :: qs => let k := freeSlot used q; (q, k) :: slotsFor ((q, k) :: used) qs

/-- The words of a pair. -/
def pairWords (x : Nat) : List Word := [BitVec.ofNat 32 x, BitVec.ofNat 32 (x / 2 ^ 32)]

/-- A copy of a stream at its start (13 R341); its buffer is filled by the fetch. -/
def tileStart (core cidx base lines : Nat) : Tile where
  core := core
  cidx := cidx
  buf := []
  lines := lines
  base := base / 128 * 128
  tiles := List.replicate 16 []
  bad := []
  ctl := []
  stok := List.replicate 16 0
  deferred := none
  spc := 1
  ended := false
  fault := none
  wait := .none
  partials := []
  rowp := none
  rowBusy := false
  issued := false
  scale := []
  retries := 0
  retryPc := 0

/-- The groups of a block on their cores, quadrants and slots. -/
def placedGroups (s : State) (f : LFrame) (cores quads : List Nat) : List Group :=
  let sh := f.share f.cspan
  (List.range f.cspan).flatMap fun i =>
    let core := cores.getD i 0
    let used := (s.groupsAt core).map fun (q, k, _) => (q, k)
    (slotsFor used ((quads.drop (i * sh)).take (shareOf f i))).map fun (q, k) =>
      { Group.start with core := core, quad := q, slot := k, cidx := i, age := s.now }

/-- A block on its cores, before its groups hold their start values. -/
def blockOn (s : State) (g : Grid) (blkid cl : Nat) (cores quads : List Nat) : Block where
  gridid := g.id
  stream := g.stream
  asid := g.asid
  blkid := blkid
  nblk := g.nblk
  fr := g.fr
  record := g.record
  cluster := cl
  cores := cores
  scratch := []
  scrOff := cores.map fun k => (s.carveRoom k (portion g.fr.scratch g.fr.cspan)).getD 0
  nb := List.replicate 16 Barrier.reset
  cwp := List.replicate 8 0
  colls := []
  abandoned := false
  fixups := []
  replaying := false
  tiles := if g.fr.tslines = 0 then [] else cores.zipIdx.map fun (k, i) => tileStart k i g.fr.tsaddr g.fr.tslines
  timer := s.now
  heldMark := false
  halting := []
  slot := none
  roomFor := none
  killed := false
  groups := s.placedGroups g.fr cores quads

/-- The start values of a thread and of a group (R475). -/
def startBlock (x : Block) : Block :=
  let fp := pairWords x.record.frame
  let pc := skipHeader (if x.record.code = 0 then x.fr.entry else x.record.code)
  let bid : Word := BitVec.ofNat 32 x.blkid
  let thr (g l : Nat) : Thread := { Thread.start with
    pc := pc
    v := fp ++ [x.record.arg, bid] ++ List.replicate 4 0
    spill := spillBase x g l
    priv := x.asid == 0 }
  { x with groups := x.groups.zipIdx.map fun (y, g) => { y with
    s := fp ++ [x.record.arg, bid, BitVec.ofNat 32 x.nblk] ++ List.replicate 59 0
    active := false
    pendAt := y.age
    threads := (List.range 32).map (thr g) } }

/-- Pin a grid's lease on a cluster where no block of the grid is resident. -/
def pinLease (s : State) (g : Grid) (cl : Nat) : State × Option Nat :=
  if s.blocks.any fun (_, x) => x.gridid == g.id && x.cluster == cl then (s, none)
  else
    let rs := leaseOf g.fr g.nblk
    match s.leasePages g.asid rs with
    | .error va => (s, some va)
    | .ok ps => (s.pinPages cl g.asid rs ps, none)

/-- Enter a block. -/
def enterBlock (s : State) (x : Block) : State :=
  let s := { s with blocks := put s.nextId x s.blocks, nextId := s.nextId + 1 }
  (s.startBlocks).bump 15 2 0 1

/-! ### Placement (R464, R471 to R474) -/

/-- The size of a grid's partition in blocks, and that of its next placement. -/
def partSize (g : Grid) : Nat := min (2 ^ (g.fr.mcx + g.fr.mcy)) (g.nblk - g.nextBlk)

/-- The cluster of block k of a partition at a base cluster. -/
def partCluster (g : Grid) (base k : Nat) : Nat := base + k % 2 ^ g.fr.mcx + 8 * (k / 2 ^ g.fr.mcx)

/-- A base cluster is the corner of an aligned rectangle. -/
def partAligned (g : Grid) (base : Nat) : Bool := base % 8 % 2 ^ g.fr.mcx == 0 && base / 8 % 2 ^ g.fr.mcy == 0 && decide (base < 64)

/-- Some aligned rectangle of clusters could take the next block, or the next partition, of a grid now (R473). -/
def couldTake (s : State) (g : Grid) : Bool :=
  s.budgetOk g.stream (partSize g) g.fr && (List.range 64).any fun base => partAligned g base
    && (List.range (partSize g)).all fun k => s.roomIn g.fr (partCluster g base k) && s.leaseFits g (partCluster g base k)

/-- A saved block of a grid that awaits its resumption, of a stream that lets it (R477). -/
def awaitsResume (s : State) (g : Grid) : Bool :=
  let st := s.streamOf g.stream
  g.saved.any (·.behind.isNone) && st.en && !st.stopped && !st.killed

/-- A block of a grid has been placed: those whose room it took no longer stand behind it (R478). -/
def roomTaken (k : Nat) (g : Grid) : Grid :=
  { g with saved := g.saved.map fun e => if e.behind = some k then { e with behind := none } else e }

/-- Something is placed before a queue of a class: a saved block that some cluster could take, or what some clusters could
take of a grid of a class served first, or of the same class and next in rotation (R464 rules 3, 4). -/
def placedFirst (s : State) (q cls : Nat) : Bool :=
  (s.dsp.grids.any fun (_, g) => s.awaitsResume g && s.couldPlace g)
    || s.dsp.grids.any fun (_, g) =>
      let d := s.queueOf g.queue
      let last := getD 0 s.dsp.last cls
      g.queue != q && g.admitted && !d.parked && decide (g.nextBlk < g.nblk)
        && (decide (d.cls < cls) || (d.cls == cls && decide ((g.queue + 2047 - last) % 1024 < (q + 2047 - last) % 1024)))
        && s.couldTake g

/-- Place n blocks of a partition; none where a walk of the lease faults. -/
def placeBlocks (s : State) (g : Grid) (base : Nat) (cores quads : List Nat) : Nat → Nat → Except Nat State
  | _, 0 => .ok s
  | k, n + 1 =>
    let cl := partCluster g base k
    let cs := (cores.drop (k * g.fr.cspan)).take g.fr.cspan
    let qs := (quads.drop (k * g.fr.groups)).take g.fr.groups
    match s.pinLease g cl with
    | (_, some va) => .error va
    | (s, none) => (s.enterBlock (startBlock (s.blockOn g (g.nextBlk + k) cl cs qs))).placeBlocks g base cores quads (k + 1) n

/-- Place the next block, or the next partition, of a queue's grid. -/
def blockPlace (s : State) (q base : Nat) (cores quads : List Nat) : State :=
  match s.openGrid q, find? q s.dsp.queues with
  | some g, some d =>
    let n := partSize g
    let fits := (List.range n).all fun k => s.leaseFits g (partCluster g base k) && s.blockFits g.fr (partCluster g base k)
      ((cores.drop (k * g.fr.cspan)).take g.fr.cspan) ((quads.drop (k * g.fr.groups)).take g.fr.groups)
    if !g.admitted || d.parked || !s.dispatching || g.nextBlk % 2 ^ (g.fr.mcx + g.fr.mcy) != 0 || !partAligned g base
        || !fits || !s.budgetOk g.stream n g.fr || s.placedFirst q d.cls then s
    else
      match s.leaseReady g true with
      | (s, false) => s
      | (s, true) =>
      match s.placeBlocks g base cores quads 0 n with
      | .error va => (s.dispError 0 va 0x10 g.stream q g.asid).park q true
      | .ok s =>
        let s := s.setGrid ((List.range n).foldl (fun h k => roomTaken (g.nextBlk + k) h)
          { (s.grid? g.id).getD g with nextBlk := g.nextBlk + n })
        { s with dsp := { s.dsp with last := put d.cls q s.dsp.last } }
  | _, _ => s

end State

/-- BLOCK_PLACE. cores and quads list the cores and the quadrants of the groups of each block of the placement in
turn. -/
def execBlockPlace (queue cluster : Nat) (cores quads : List Nat) (s : State) : Ans :=
  .next (s.blockPlace queue cluster cores quads)

/-! ### Joins (R466) -/

namespace State

/-- Write a record into a ring at TAIL. -/
def pushRecord (s : State) (q : Nat) (d : Queue) (bs : List Byte) : State :=
  (s.homeSetBytes (gpaOff (d.recAt d.tail)) bs).putHead q { d with tail := (d.tail + 1) % 2 ^ 22 }

/-- Make the pushes to a queue that have room, in order. -/
def pushAll (s : State) (q : Nat) : List Push → State
  | [] => s
  | p :: ps =>
    if p.queue = q ∧ (s.queueOf q).room then
      ({ s with dsp := { s.dsp with pushes := s.dsp.pushes.erase p } }.pushRecord q (s.queueOf q) p.bytes).pushAll q ps
    else s.pushAll q ps

/-- A queue takes pushes from an address space: enabled, fed by SPAWN, and of a stream of that space. -/
def takesPush (s : State) (q asid : Nat) : Bool :=
  let d := s.queueOf q
  d.usable && d.spn && (s.streamOf d.stream).asid == asid

/-- The marker of a grid among the threads that demand a publish. -/
def gridMark (gid : Nat) : Nat × Nat × Nat := (2 ^ 40 + gid, 0, 0)

/-- One attempt at the atomic step on COUNT at its home: the old value (R466, R385). -/
def joinStep (s : State) (w : Agent) (own : FOwner) (va : Nat) : State × Option (Except (BitVec 8) Nat) :=
  if 2 ^ 56 ≤ va then (s, some (.error 0x10))
  else
    match s.translate (w.core / 4) w.asid va (.atomic w.priv) with
    | (s, .fault code _) => (s, some (.error code))
    | (s, .drop) => (s, none)
    | (s, .ok e) =>
      let pa := e.phys va
      let home := gpaHome pa
      match s.place e with
      | .barred | .host | .doorbell => (s, some (.error 0x11))
      | _ =>
        if home = s.self then
          match s.homeReady (pa / 64) true with
          | (s, none) => (s, none)
          | (s, some (some code)) => (s, some (.error code))
          | (s, some none) =>
            let v := s.cohRead (pa / 64)
            if v.psn then (s, some (.error 0x18))
            else
              let old := takeSec v.bytes (pa % 64) 4
              let s := if old = 0 then s.readBy (pa / 64) else s.cohWrite (pa / 64) (maskOf (pa % 64) 4) (placeSec (pa % 64) (old - 1))
              (s.untag (pa / 64), some (.ok old))
        else
          -- at a peer: the word is read, then exchanged by a CAS that starts again where it changed
          match s.peekRemote own home (.home (.read (pa / 64 * 64))) with
          | (s, none) => (s, none)
          | (s, some (.fault code, _)) => (s.dropAnswers own, some (.error code))
          | (s, some (.ok, v)) =>
            let old := takeSec v.bytes (pa % 64) 4
            if old = 0 then (s.dropAnswers own, some (.ok 0))
            else
              match s.peekRemote own home (.home (.cas pa 4 (BitVec.ofNat 128 old) (BitVec.ofNat 128 (old - 1)))) with
              | (s, none) => (s, none)
              | (s, some (.fault code, _)) => (s.dropAnswers own, some (.error code))
              | (s, some (.ok, w)) =>
                let s := s.dropAnswers own
                if w.bytes.toNat % 2 ^ 32 = old then (s, some (.ok old)) else (s, none)

/-- A join whose counter reached zero pushes its continuation. -/
def joinPush (s : State) (g : Grid) (obj : List Byte) : State :=
  let q := ofBytes ((obj.drop 4).take 4) % 1024
  let s := s.setQueue q (s.queueOf q)
  if s.takesPush q g.asid then
    let p : Push := ⟨q, obj.drop 32⟩
    let s := { s with dsp := { s.dsp with pushes := s.dsp.pushes ++ [p] } }
    s.pushAll q s.dsp.pushes
  else s.badRecord q (g.record.join + 32) g.stream g.asid

/-- The join decrement of a completed grid, after its cores have published (R466). -/
def joinDecrement (s : State) (gid : Nat) : State :=
  match s.grid? gid with
  | none => s
  | some g =>
    if !g.admitted || decide (g.ended < g.nblk) then s
    else if g.record.join = 0 then s.delGrid gid
    else
      let s := g.cores.eraseDups.foldl (fun s c => s.demandPublish c (gridMark gid)) s
      let g := { g with cores := [] }
      let s := s.setGrid g
      if s.cores.any fun (_, c) => c.drain.any fun d => d.demands.contains (gridMark gid) then s
      else
        let w := s.dispAgent g.asid
        let own := FOwner.disp (2 ^ 10 + gid)
        -- the object is read first, so that a decrement to zero has the continuation at hand
        match s.readRange w own g.record.join 64 with
        | (s, .wait) => s
        | (s, .fault code va _) => (((s.dropAnswers own).dispError 2 va code.toNat g.stream g.queue g.asid).delGrid gid)
        | (s, .bytes obj) =>
          match s.joinStep w own g.record.join with
          | (s, none) => s
          | (s, some (.error code)) =>
            ((s.dropAnswers own).dispError 2 g.record.join code.toNat g.stream g.queue g.asid).delGrid gid
          | (s, some (.ok old)) =>
            let s := s.dropAnswers own
            let s := if old = 0 then s.dispError 3 g.record.join 0 g.stream g.queue g.asid
              else if old = 1 then s.joinPush g obj else s
            s.delGrid gid

end State

/-- JOIN_DECREMENT. -/
def execJoinDecrement (grid : Nat) (s : State) : Ans := .next (s.joinDecrement grid)

/-- JOIN_PUSH. -/
def execJoinPush (queue : Nat) (s : State) : Ans := .next (s.pushAll queue s.dsp.pushes)

/-! ### SPAWN, YIELD, WAITMEM, SLEEP (R480 to R484) -/

namespace State

/-- A lane of SPAWN: FENCE.rel.sys, the address and the queue, the record, and the push where the ring has room. A
lane that has pushed is in PMASK. -/
def spawnLane (s : State) (c : Cur) (l : Nat) (x : Ext) (a b : Opnd) : State × Chk :=
  if (s.doneMask c).getLsbD l then (s, .pass)
  else
    match s.loadsChk c l with
    | .pass =>
      match s.fenceRel c l with
      | (s, .pass) =>
        match s.grp? c.blk c.grp with
        | none => (s, .pass)
        | some y =>
          match y.threads[l]? with
          | none => (s, .pass)
          | some t =>
            let va := src64 x y t l a
            let q := src32 x y t l b
            let w := s.agent c.blk c.grp l
            let own := FOwner.spill c.blk c.grp l
            if va % 32 ≠ 0 then (s, .fault 0x08 va false)
            else if 1023 < q || !s.takesPush q w.asid then (s, .fault 0x11 va false)
            else
              match s.readRange w own va 32 with
              | (s, .wait) => (s, .wait)
              | (s, .fault code va br) => (s.dropAnswers own, .fault code va br)
              | (s, .bytes bs) =>
                let d := s.queueOf q
                if !d.room then (s.setQueue q d, .wait)
                else
                  let s := (s.dropAnswers own).pushRecord q d bs
                  (s.modGrp c.blk c.grp fun y => { y with
                    pmask := (if y.pmaskPc = c.pc then y.pmask else 0) ||| (1#32 <<< l)
                    pmaskPc := c.pc }, .pass)
      | r => r
    | k => (s, k)

end State

def execSpawn (h : Hd) (a b : Opnd) (s : State) : Ans :=
  issue (.spawn h a b) h.g s (fun s c l => s.spawnLane c l h.ext a b) fun s c gt =>
    if gt = [] then s else (s.modGrp c.blk c.grp fun y => { y with pmask := 0 }).progress c.blk

/-- SPAWN_PUSH: a waiting SPAWN lane pushes once its ring has room. -/
def execSpawnPush (b g l : Nat) (s : State) : Ans :=
  .next (match s.insAt b g l with
    | some (.spawn h a bq, npc) =>
      match s.thr? b g l with
      | some t => if t.exited || t.halted then s
        else (s.spawnLane ⟨b, g, 1#32 <<< l, t.pc, npc⟩ l h.ext a bq).1
      | none => s
    | _ => s)

def execYield (h : Hd) (s : State) : Ans :=
  issue (.yield h) h.g s noOwn fun s c gt =>
    let s := s.modGrp c.blk c.grp fun y => y.modLanes gt fun _ t => { t with hold := some (.yield (s.now + 64)) }
    if gt = [] then s else s.modBlk c.blk fun x => { x with heldMark := true }

/-- YIELD_TIMEOUT. -/
def execYieldTimeout (b g l : Nat) (s : State) : Ans :=
  .next (match (s.thr? b g l).bind (·.hold) with
    | some (.yield t) => if t ≤ s.now then s.modThr b g l fun t => { t with hold := none } else s
    | _ => s)

def execWaitmem (h : Hd) (cc : WCond) (a b : Opnd) (s : State) : Ans :=
  issue (.waitmem h cc a b) h.g s
    (fun s c l => s.addrChk c l .g (fun y t l => src64 h.ext y t l a) 4 4 true false) fun s c gt =>
    s.enterAcc c (.waitmem h cc a b) .waitmem (s.laneMap c gt fun y t l =>
      ⟨l, src64 h.ext y t l a, BitVec.ofNat 128 (src32 h.ext y t l b), 0, .todo, t.priv⟩)

/-- WAITMEM_RECHECK: the core's copy was invalidated or written, or 2,048 cclk have passed: the word is read again. -/
def execWaitmemRecheck (b g l : Nat) (s : State) : Ans :=
  .next (match (s.thr? b g l).bind (·.hold) with
    | some (.waitmem _ _) =>
      let s := s.modThr b g l fun t => { t with hold := none }
      match s.accs.find? fun a => a.blk == b && a.grp == g && a.kind == .waitmem && a.lanes.any (·.lane == l) with
      | some a => s.pursue a.id
      | none => s
    | _ => s)

def execSleep (h : Hd) (a : Opnd) (s : State) : Ans :=
  issue (.sleep h a) h.g s noOwn fun s c gt =>
    let now := s.now
    s.modGrp c.blk c.grp fun y => y.modLanes gt fun l t =>
      let n := src32 h.ext y t l a
      if n = 0 then t else { t with hold := some (.sleep (now + n)) }

/-- SLEEP_END. -/
def execSleepEnd (b g l : Nat) (s : State) : Ans :=
  .next (match (s.thr? b g l).bind (·.hold) with
    | some (.sleep t) => if t ≤ s.now then s.modThr b g l fun t => { t with hold := none } else s
    | _ => s)

/-! ### Pre-emption, the watchdog and commands (R477 to R479, R488) -/

namespace State

/-- A free save slot of a stream. -/
def freeSave (s : State) (st : Nat) : Option Nat :=
  let used := (s.blocks.filterMap fun (_, x) => if x.stream = st then x.slot else none)
    ++ s.dsp.grids.flatMap fun (_, g) => if g.stream = st then g.saved.map (·.slot) else []
  (List.range (used.length + 1)).find? fun i => decide (i < (s.streamOf st).saven) && !used.contains i

/-- Ask the trap units of a block's cores to halt it for a save, its room going to a waiting block where one is given;
without a free slot it runs on. -/
def preempt (s : State) (b : Nat) (room : Option Nat) : State :=
  match s.blk? b with
  | none => s
  | some x =>
    if x.slot.isSome then s
    else
      match s.freeSave x.stream with
      | none => s
      | some i =>
        let s := s.modBlk b fun x => { x with slot := some i, roomFor := room }
        x.cores.foldl (fun s k => s.modCore k fun c => { c with haltReq := some b }) s

/-- A progress-grid block that is eligible, with its timer (R478). -/
def yieldTimer (s : State) (b : Nat) : Option Nat :=
  (s.blk? b).bind fun x =>
    if x.fr.progress && x.heldMark && x.slot.isNone && decide (x.fr.yield ≤ s.now - x.timer) then some (s.now - x.timer) else none

/-- The next block of a grid to be placed, saved or not yet placed, where it cannot be placed for lack of cores or
budget and no pre-emption makes room for it already. -/
def waitsRoom (s : State) (gid : Nat) : Option Nat :=
  match s.grid? gid with
  | some g =>
    if s.blocks.any fun (_, x) => x.gridid == gid && x.roomFor.isSome then none
    else match g.saved.find? (·.behind.isNone) with
      | some e => if s.couldPlace g then none else some e.blkid
      | none => if g.nextBlk < g.nblk && !s.couldTake g then some g.nextBlk else none
  | none => none

/-- A write of DSP_SCMD (R488). -/
def dspScmdWrite (s : State) (v : Word) : State :=
  let st := v.toNat % 1024
  let qs := s.dsp.queues.filterMap fun (q, d) => if d.stream = st then some q else none
  if !v.getLsbD 31 then s
  else
    match v.toNat / 1024 % 4 with
    | 0 =>
      let s := s.setStream st { s.streamOf st with stopped := true }
      (s.blocks.filterMap fun (b, x) => if x.stream = st then some b else none).foldl (fun s b => s.preempt b none) s
    | 1 => qs.foldl (fun s q => s.park q false) s
    | 2 =>
      let s := s.setStream st (s.readStream st)
      qs.foldl (fun s q => s.setQueue q (s.readQueue q)) s
    | _ => { s with dsp := { s.dsp with err := true } }

/-- The cores that hold blocks of a grid, each once; the first core where none is resident (assumption log 42). -/
def coresHolding (s : State) (gid : Nat) : List Nat :=
  let cs := (s.blocks.flatMap fun (_, x) => if x.gridid = gid then x.cores else []).foldl
    (fun l k => if l.contains k then l else l ++ [k]) []
  if cs.isEmpty then [0] else cs

/-- A WATCHDOG record of a core, delivered or dropped. -/
def watchRecord (s : State) (g : Grid) (f : Flt) (act lvl core : Nat) : State :=
  let s := s.bump 16 0 core 1
  match s.ioqPush (s.trp.ctl.toNat % 1024) (toBytes 64 (f.word act lvl g.asid g.id 0 0 0 core)) with
  | (s, true) => s
  | (s, false) =>
    let s := s.bump 16 5 core 1
    { s with trp := { s.trp with drop := true } }

/-- WATCHDOG at the grid level, on every core that holds a block of the grid, by the containment walk (R479, 20 R497). -/
def watchdog (s : State) (g : Grid) : State :=
  let f : Flt := ⟨0x38, 4, 5, 0, 0, 0, 0, 0, false, false⟩
  let pol (lvl : Nat) : Nat :=
    if lvl < 5 && g.fr.polset.getLsbD lvl then g.fr.policy.toNat / 4 ^ lvl % 4
    else (s.streamOf g.stream).policy.toNat / 4 ^ lvl % 4
  let (act, lvl) := containWalk pol f 0 4 3
  let s := (s.coresHolding g.id).foldl (fun s core => s.watchRecord g f act lvl core) (s.bump 15 4 0 1)
  if act = 2 then (if lvl = 4 then s.killGrid g.id false else s.killStream g.stream)
  else s.setGrid { g with admitAt := s.now }

end State

/-- PROGRESS_PREEMPT: the eligible block with the greatest timer. -/
def execProgressPreempt (blk : Nat) (s : State) : Ans :=
  .next (match s.blk? blk, s.yieldTimer blk with
    | some x, some t =>
      match s.waitsRoom x.gridid with
      | some w => if s.blocks.all fun (b, y) => y.gridid != x.gridid || (match s.yieldTimer b with
        | some u => decide (u ≤ t)
        | none => true) then s.preempt blk (some w) else s
      | none => s
    | _, _ => s)

/-- WATCHDOG_EXPIRY. -/
def execWatchdogExpiry (grid : Nat) (s : State) : Ans :=
  .next (match s.grid? grid with
    | some g =>
      let d := (s.streamOf g.stream).deadline
      if g.admitted && decide (g.ended < g.nblk) && d != 0 && decide (g.admitAt + 1400000 * d ≤ s.now) then s.watchdog g else s
    | none => s)

/-- A write of DSP_SCMD with one command. -/
def scmdEvent (k : Nat) (v : Word) (s : State) : Ans :=
  .next (if v.getLsbD 31 && v.toNat / 1024 % 4 == k then s.dspScmdWrite v else s)

def execDspScmdStop (v : Word) (s : State) : Ans := scmdEvent 0 v s

def execDspScmdRetry (v : Word) (s : State) : Ans := scmdEvent 1 v s

def execDspScmdReload (v : Word) (s : State) : Ans := scmdEvent 2 v s

def execDspScmdRefused (v : Word) (s : State) : Ans := scmdEvent 3 v s

end Sys2Proof.Machine
end

