-- ==== Sys2Proof/Machine/Integer.lean ====
section
/-! DEFINITION. The integer pipe (05 R147 to R170). -/

namespace Sys2Proof.Machine

/-! ### Elements (R147 to R150) -/

/-- elem(x, i, IT): the exact value of an element (R148). -/
def elemOf (it : ITy) (x i : Nat) : Int := intOf it.width it.signed (x / 2 ^ (it.width * i))

/-- sat_int or wrap of an exact result at the element type, as its low w bits (R150). -/
def fitElem (it : ITy) (sat : Bool) (v : Int) : Nat :=
  wrapInt it.width (if sat then satInt v it.width it.signed else v)

/-- A number from its elements of w bits, element 0 least significant. -/
def packElems (w : Nat) : List Nat → Nat
  | [] => 0
  | x :: l => x % 2 ^ w + 2 ^ w * packElems w l

/-- An operation on each element. -/
def onElems (it : ITy) (sat : Bool) (f : Nat → Int) : Nat :=
  packElems it.width ((List.range it.count).map fun i => fitElem it sat (f i))

/-- Each guard-true issue group that the pipe accepts is counted (R170). -/
def State.countInt (s : State) (c : Cur) (gt : List Nat) : State :=
  if gt = [] then s
  else s.bump 1 0 (((s.grp? c.blk c.grp).map fun y => 4 * y.core + y.quad).getD 0) 1

/-- An integer instruction with one destination. -/
def intForm (i : Instr) (g : Guard) (d : Opnd) (n : Nat) (s : State) (f : Group → Thread → Nat → Nat) : Ans :=
  issue i g s noOwn fun s c gt =>
    (s.countInt c gt).modGrp c.blk c.grp fun y => y.writeDst d n (laneVals y gt f)

/-! ### Results of two and three sources -/

/-- IADD (R155). -/
def iaddVal (it : ITy) (sub sat : Bool) (a b : Nat) : Nat :=
  onElems it sat fun i => if sub then elemOf it a i - elemOf it b i else elemOf it a i + elemOf it b i

/-- IADD3 (R155). -/
def iadd3Val (it : ITy) (a b c : Nat) : Nat := fitElem it false (elemOf it a 0 + elemOf it b 0 + elemOf it c 0)

/-- IMUL (R156). -/
def imulVal (it : ITy) (sat : Bool) (a b : Nat) : Nat := onElems it sat fun i => elemOf it a i * elemOf it b i

/-- IMULH (R156): the floor of the product over 2^w. -/
def imulhVal (it : ITy) (a b : Nat) : Nat := wrapInt it.width ((elemOf it a 0 * elemOf it b 0).fdiv (2 ^ it.width))

/-- IMAD (R156). -/
def imadVal (it : ITy) (sat : Bool) (a b c : Nat) : Nat := fitElem it sat (elemOf it a 0 * elemOf it b 0 + elemOf it c 0)

/-- IMAD.W (R156): a 64-bit sum. -/
def imadWVal (it : ITy) (a b c : Nat) : Nat :=
  wrapInt 64 (elemOf it a 0 * elemOf it b 0 + intOf 64 it.signed c)

/-- IMIN and IMAX (R157). -/
def iminVal (it : ITy) (mx : Bool) (a b : Nat) : Nat :=
  onElems it false fun i => if mx then max (elemOf it a i) (elemOf it b i) else min (elemOf it a i) (elemOf it b i)

/-- IABS (R157). -/
def iabsVal (it : ITy) (sat : Bool) (a : Nat) : Nat := onElems it sat fun i => ((elemOf it a i).natAbs : Int)

/-- ISAD (R155). -/
def isadVal (it : ITy) (a b c : Nat) : Nat :=
  wrapInt 32 ((List.range it.count).foldl (fun v i => v + ((elemOf it a i - elemOf it b i).natAbs : Int)) ((c % 2 ^ 32 : Nat) : Int))

/-- A bit of a number. -/
def bitAt (x k : Nat) : Nat := x / 2 ^ k % 2

/-- LOG3 (R158). -/
def log3Val (table : BitVec 8) (a b c : Nat) : Nat :=
  (List.range 32).foldl (fun r k =>
    if table.getLsbD (4 * bitAt a k + 2 * bitAt b k + bitAt c k) then r + 2 ^ k else r) 0

/-- The kinds of shift. -/
inductive ShKind3 where
  | left | right | arith
  deriving DecidableEq, Repr

/-- One element of w bits shifted (R159). -/
def shiftElem (k : ShKind3) (clamp : Bool) (w x n : Nat) : Nat :=
  let n := if clamp then min n w else n % w
  match k with
  | .left => x % 2 ^ w * 2 ^ n % 2 ^ w
  | .right => x % 2 ^ w / 2 ^ n
  | .arith => wrapInt w ((intOf w true x).fdiv (2 ^ n))

/-- SHL, SHR and SAR (R159): the whole SB gives the amount, or its elements do for a packed type. -/
def shiftVal (k : ShKind3) (it : ITy) (clamp : Bool) (a b : Nat) : Nat :=
  packElems it.width ((List.range it.count).map fun i =>
    shiftElem k clamp it.width (a / 2 ^ (it.width * i))
      (if it.count = 1 then b % 2 ^ 32 else b / 2 ^ (it.width * i) % 2 ^ it.width))

/-- How the amount of a shift is read: one 32-bit operand, whose elements a packed type takes (R147, R149, R159). -/
def amountKind (it : ITy) : Kind := if it.count = 1 then .int 32 else .pint it.width

/-- ROT (R160). -/
def rotVal (it : ITy) (right : Bool) (a b : Nat) : Nat :=
  let w := it.width
  let n := b % 2 ^ 32 % w
  let n := if right then (w - n) % w else n
  let x := a % 2 ^ w
  x * 2 ^ n % 2 ^ w + x / 2 ^ (w - n)

/-- FSH (R161). -/
def fshVal (right clamp : Bool) (a b c : Nat) : Nat :=
  let v := b % 2 ^ 32 * 2 ^ 32 + a % 2 ^ 32
  let n := if clamp then min (c % 2 ^ 32) 32 else c % 32
  if right then v / 2 ^ n % 2 ^ 32 else v * 2 ^ n / 2 ^ 32 % 2 ^ 32

/-- clamp_bits of a descriptor (R148, R162). -/
def clampBits (d size : Nat) : Nat × Nat :=
  let p := min (d % 256) size
  (p, min (d / 256 % 256) (size - p))

/-- BFX (R162). -/
def bfxVal (it : ITy) (a d : Nat) : Nat :=
  let (p, q) := clampBits d it.width
  let f := a / 2 ^ p % 2 ^ q
  if it.signed && q != 0 then wrapInt it.width (intOf q true f) else f

/-- BFI (R162). -/
def bfiVal (it : ITy) (a b d : Nat) : Nat :=
  let (p, q) := clampBits d it.width
  b % 2 ^ p + 2 ^ p * (a % 2 ^ q) + 2 ^ (p + q) * (b % 2 ^ it.width / 2 ^ (p + q))

/-- PRMT (R163). -/
def prmtVal (a b c : Nat) : Nat :=
  let v := b % 2 ^ 32 * 2 ^ 32 + a % 2 ^ 32
  packElems 8 ((List.range 4).map fun k =>
    let n := c / 2 ^ (4 * k) % 16
    let x := v / 2 ^ (8 * (n % 8)) % 256
    if 8 ≤ n then (if 128 ≤ x then 255 else 0) else x)

/-- The number of 1 bits among the low w (R164). -/
def popcVal (w x : Nat) : Nat := (List.range w).countP fun k => bitAt x k == 1

/-- The number of 0 bits above the most significant 1 among the low w; w for zero (R164). -/
def clzVal (w x : Nat) : Nat := if x % 2 ^ w = 0 then w else w - 1 - Nat.log2 (x % 2 ^ w)

/-- The number of 0 bits below the least significant 1 among the low w; w for zero (R164). -/
def ctzVal (w x : Nat) : Nat := ((List.range w).find? fun k => bitAt x k == 1).getD w

/-- Bits reversed (R164). -/
def brevVal (w x : Nat) : Nat := (List.range w).foldl (fun r k => 2 * r + bitAt x k) 0

/-- LEA (R165). -/
def leaVal (shift : Nat) (sgn : Bool) (a b : Nat) : Nat := wrapInt 64 ((a : Int) + intOf 32 sgn b * 2 ^ shift)

/-- IDP4 and IDP2 (R166): element widths of A and B, the first element of B, the number of products. -/
def idpVal (wa n h : Nat) (sa sb sat : Bool) (a b c : Nat) : Nat :=
  let rs := sa || sb
  let v := (List.range n).foldl (fun v i =>
    v + intOf wa sa (a / 2 ^ (wa * i)) * intOf 8 sb (b / 2 ^ (8 * (i + h)))) (intOf 32 rs c)
  wrapInt 32 (if sat then satInt v 32 rs else v)

/-- The condition of ICMP (R54, R167). -/
def iccOk (cc : Icc) (a b : Int) : Bool :=
  match cc with
  | .eq => a = b
  | .ne => a ≠ b
  | .lt => a < b
  | .le => a ≤ b
  | .gt => b < a
  | .ge => b ≤ a

/-! ### The instructions -/

def execIadd (h : Hd) (it : ITy) (sub sat : Bool) (d a b : Opnd) (s : State) : Ans :=
  intForm (.iadd h it sub sat d a b) h.g d it.regs s fun y t l =>
    iaddVal it sub sat (srcVal (itKind it) h.ext y t l a) (srcVal (itKind it) h.ext y t l b)

def execIadd3 (h : Hd) (it : ITy) (d a b c : Opnd) (s : State) : Ans :=
  intForm (.iadd3 h it d a b c) h.g d it.regs s fun y t l =>
    iadd3Val it (srcVal (itKind it) h.ext y t l a) (srcVal (itKind it) h.ext y t l b) (srcVal (itKind it) h.ext y t l c)

def execImul (h : Hd) (it : ITy) (sat : Bool) (d a b : Opnd) (s : State) : Ans :=
  intForm (.imul h it sat d a b) h.g d it.regs s fun y t l =>
    imulVal it sat (srcVal (itKind it) h.ext y t l a) (srcVal (itKind it) h.ext y t l b)

def execImulh (h : Hd) (it : ITy) (d a b : Opnd) (s : State) : Ans :=
  intForm (.imulh h it d a b) h.g d it.regs s fun y t l =>
    imulhVal it (srcVal (itKind it) h.ext y t l a) (srcVal (itKind it) h.ext y t l b)

def execImad (h : Hd) (it : ITy) (sat : Bool) (d a b c : Opnd) (s : State) : Ans :=
  intForm (.imad h it sat d a b c) h.g d 1 s fun y t l =>
    imadVal it sat (src32 h.ext y t l a) (src32 h.ext y t l b) (src32 h.ext y t l c)

def execImadW (h : Hd) (it : ITy) (d a b c : Opnd) (s : State) : Ans :=
  intForm (.imadW h it d a b c) h.g d 2 s fun y t l =>
    imadWVal it (src32 h.ext y t l a) (src32 h.ext y t l b) (src64 h.ext y t l c)

def execImin (h : Hd) (it : ITy) (d a b : Opnd) (s : State) : Ans :=
  intForm (.imin h it d a b) h.g d it.regs s fun y t l =>
    iminVal it false (srcVal (itKind it) h.ext y t l a) (srcVal (itKind it) h.ext y t l b)

def execImax (h : Hd) (it : ITy) (d a b : Opnd) (s : State) : Ans :=
  intForm (.imax h it d a b) h.g d it.regs s fun y t l =>
    iminVal it true (srcVal (itKind it) h.ext y t l a) (srcVal (itKind it) h.ext y t l b)

def execIabs (h : Hd) (it : ITy) (sat : Bool) (d a : Opnd) (s : State) : Ans :=
  intForm (.iabs h it sat d a) h.g d it.regs s fun y t l => iabsVal it sat (srcVal (itKind it) h.ext y t l a)

def execIsad (h : Hd) (it : ITy) (d a b c : Opnd) (s : State) : Ans :=
  intForm (.isad h it d a b c) h.g d 1 s fun y t l =>
    isadVal it (srcVal (itKind it) h.ext y t l a) (srcVal (itKind it) h.ext y t l b) (src32 h.ext y t l c)

def execLog3 (h : Hd) (table : BitVec 8) (d a b c : Opnd) (s : State) : Ans :=
  intForm (.log3 h table d a b c) h.g d 1 s fun y t l =>
    log3Val table (src32 h.ext y t l a) (src32 h.ext y t l b) (src32 h.ext y t l c)

def execShl (h : Hd) (it : ITy) (clamp : Bool) (d a b : Opnd) (s : State) : Ans :=
  intForm (.shl h it clamp d a b) h.g d it.regs s fun y t l =>
    shiftVal .left it clamp (srcVal (itKind it) h.ext y t l a) (srcVal (amountKind it) h.ext y t l b)

def execShr (h : Hd) (it : ITy) (clamp : Bool) (d a b : Opnd) (s : State) : Ans :=
  intForm (.shr h it clamp d a b) h.g d it.regs s fun y t l =>
    shiftVal .right it clamp (srcVal (itKind it) h.ext y t l a) (srcVal (amountKind it) h.ext y t l b)

def execSar (h : Hd) (it : ITy) (clamp : Bool) (d a b : Opnd) (s : State) : Ans :=
  intForm (.sar h it clamp d a b) h.g d it.regs s fun y t l =>
    shiftVal .arith it clamp (srcVal (itKind it) h.ext y t l a) (srcVal (amountKind it) h.ext y t l b)

def execRot (h : Hd) (it : ITy) (right : Bool) (d a b : Opnd) (s : State) : Ans :=
  intForm (.rot h it right d a b) h.g d it.regs s fun y t l =>
    rotVal it right (srcVal (itKind it) h.ext y t l a) (src32 h.ext y t l b)

def execFsh (h : Hd) (right clamp : Bool) (d a b c : Opnd) (s : State) : Ans :=
  intForm (.fsh h right clamp d a b c) h.g d 1 s fun y t l =>
    fshVal right clamp (src32 h.ext y t l a) (src32 h.ext y t l b) (src32 h.ext y t l c)

def execBfx (h : Hd) (it : ITy) (d a b : Opnd) (s : State) : Ans :=
  intForm (.bfx h it d a b) h.g d it.regs s fun y t l =>
    bfxVal it (srcVal (itKind it) h.ext y t l a) (src32 h.ext y t l b)

def execBfi (h : Hd) (it : ITy) (d a b c : Opnd) (s : State) : Ans :=
  intForm (.bfi h it d a b c) h.g d it.regs s fun y t l =>
    bfiVal it (srcVal (itKind it) h.ext y t l a) (srcVal (itKind it) h.ext y t l b) (src32 h.ext y t l c)

def execPrmt (h : Hd) (d a b c : Opnd) (s : State) : Ans :=
  intForm (.prmt h d a b c) h.g d 1 s fun y t l =>
    prmtVal (src32 h.ext y t l a) (src32 h.ext y t l b) (src32 h.ext y t l c)

def execPopc (h : Hd) (w64 : Bool) (d a : Opnd) (s : State) : Ans :=
  intForm (.popc h w64 d a) h.g d 1 s fun y t l => popcVal (wKind w64).bits (srcVal (wKind w64) h.ext y t l a)

def execClz (h : Hd) (w64 : Bool) (d a : Opnd) (s : State) : Ans :=
  intForm (.clz h w64 d a) h.g d 1 s fun y t l => clzVal (wKind w64).bits (srcVal (wKind w64) h.ext y t l a)

def execCtz (h : Hd) (w64 : Bool) (d a : Opnd) (s : State) : Ans :=
  intForm (.ctz h w64 d a) h.g d 1 s fun y t l => ctzVal (wKind w64).bits (srcVal (wKind w64) h.ext y t l a)

def execBrev (h : Hd) (w64 : Bool) (d a : Opnd) (s : State) : Ans :=
  intForm (.brev h w64 d a) h.g d (if w64 then 2 else 1) s fun y t l =>
    brevVal (wKind w64).bits (srcVal (wKind w64) h.ext y t l a)

def execLea (h : Hd) (shift : BitVec 3) (sgn : Bool) (d a b : Opnd) (s : State) : Ans :=
  intForm (.lea h shift sgn d a b) h.g d 2 s fun y t l =>
    leaVal shift.toNat sgn (src64 h.ext y t l a) (src32 h.ext y t l b)

def execIdp4 (h : Hd) (sa sb sat : Bool) (d a b c : Opnd) (s : State) : Ans :=
  intForm (.idp4 h sa sb sat d a b c) h.g d 1 s fun y t l =>
    idpVal 8 4 0 sa sb sat (srcVal (.pint 8) h.ext y t l a) (srcVal (.pint 8) h.ext y t l b) (src32 h.ext y t l c)

def execIdp2 (h : Hd) (sa sb hi sat : Bool) (d a b c : Opnd) (s : State) : Ans :=
  intForm (.idp2 h sa sb hi sat d a b c) h.g d 1 s fun y t l =>
    idpVal 16 2 (if hi then 2 else 0) sa sb sat (srcVal (.pint 16) h.ext y t l a) (srcVal (.pint 8) h.ext y t l b) (src32 h.ext y t l c)

/-- The result of a compare in every thread of an issue group (R49, R50): its pair, guard-true or not. -/
def comparePairs (y : Group) (c : Cur) (gt : List Nat) (pp : PPair) (f : Thread → Nat → Bool) : Group :=
  y.modLanes (lanesOf c.lanes) fun l t => t.comparePair pp (gt.contains l) (f t l)

def execIcmp (h : Hd) (it : ITy) (cc : Icc) (pp : PPair) (a b : Opnd) (s : State) : Ans :=
  issue (.icmp h it cc pp a b) h.g s noOwn fun s c gt =>
    (s.countInt c gt).modGrp c.blk c.grp fun y => comparePairs y c gt pp fun t l =>
      iccOk cc (elemOf it (srcVal (itKind it) h.ext y t l a) 0) (elemOf it (srcVal (itKind it) h.ext y t l b) 0)

/-- I2P in one thread (R168). -/
def Thread.fromBits (t : Thread) (a b : Nat) : Thread :=
  let m : BitVec 8 := BitVec.ofNat 8 b
  { t with p := (t.p &&& ~~~m) ||| (BitVec.ofNat 8 a &&& m) }

def execI2p (h : Hd) (a b : Opnd) (s : State) : Ans :=
  issue (.i2p h a b) h.g s noOwn fun s c gt =>
    (s.countInt c gt).modGrp c.blk c.grp fun y => y.modLanes gt fun l t =>
      t.fromBits (src32 h.ext y t l a) (src32 h.ext y t l b)

def execP2i (h : Hd) (d : Opnd) (s : State) : Ans :=
  intForm (.p2i h d) h.g d 1 s fun _ t _ => t.p.toNat

end Sys2Proof.Machine
end

