-- ==== Sys2Proof/Machine/Special.lean ====
section
/-! DEFINITION. The special functions of one FP32 operand, rounded correctly: exact quotients and roots, and bounds of
the transcendental functions in integers (07 R229, R230). -/

namespace Sys2Proof.Machine

/-! ### Roots -/

/-- The greatest r with r² ≤ n below 2^k more than r, bit by bit. -/
def rootBits (n : Nat) : Nat → Nat → Nat
  | 0, r => r
  | k + 1, r => if (r + 2 ^ k) * (r + 2 ^ k) ≤ n then rootBits n k (r + 2 ^ k) else rootBits n k r

/-- The integer square root. -/
def isqrt (n : Nat) : Nat := rootBits n (Nat.log2 n / 2 + 1) 0

/-- 1 / (m · 2^e) to 96 bits or more, with what lies below. -/
def recipVal (sg : Bool) (m : Nat) (e : Int) : Val :=
  let k := 96 + Nat.log2 m
  .num sg (2 ^ k / m) (-(k : Int) - e) (2 ^ k % m != 0)

/-- The square root of m · 2^e. -/
def sqrtVal (m : Nat) (e : Int) : Val :=
  let m' := if e % 2 = 0 then m else 2 * m
  let e' := if e % 2 = 0 then e else e - 1
  let r := isqrt (m' * 2 ^ 192)
  .num false r (e' / 2 - 96) (r * r != m' * 2 ^ 192)

/-- The reciprocal square root of m · 2^e. -/
def rsqrtVal (m : Nat) (e : Int) : Val :=
  let m' := if e % 2 = 0 then m else 2 * m
  let e' := if e % 2 = 0 then e else e - 1
  let r := isqrt (2 ^ 256 / m')
  .num false r (-(e' / 2) - 128) (r * r * m' != 2 ^ 256)

/-! ### Bounds in fixed point with p fraction bits -/

/-- A sum of terms t, t·z/k, t·z²/(k(k+1)), …, each cut below: the exponential series from its term k. -/
def expTerms (p z : Nat) : Nat → Nat → Nat → Nat
  | 0, _, _ => 0
  | n + 1, k, t => t + expTerms p z n (k + 1) (t * z / 2 ^ p / k)

/-- Bounds of exp z for 0 ≤ z < 1. -/
def expBounds (p zlo zhi : Nat) : Nat × Nat :=
  let n := p / 4 + 8
  (expTerms p zlo n 1 (2 ^ p), expTerms p zhi n 1 (2 ^ p) + 2 * n + 4)

/-- The series Σ u^(2k+1) / (2k+1), each term cut below. -/
def atanhTerms (p u2 : Nat) : Nat → Nat → Nat → Nat
  | 0, _, _ => 0
  | n + 1, k, t => t / (2 * k + 1) + atanhTerms p u2 n (k + 1) (t * u2 / 2 ^ p)

/-- Bounds of 2·artanh(a / b) for 0 ≤ 3a ≤ b: the natural logarithm of (b + a) / (b − a). -/
def lnBounds (p a b : Nat) : Nat × Nat :=
  let n := p / 3 + 8
  let u := a * 2 ^ p / b
  let x := 2 * atanhTerms p (u * u / 2 ^ p) n 0 u
  (x, x + 8 * n + 8)

/-- Bounds of ln 2. -/
def ln2Bounds (p : Nat) : Nat × Nat := lnBounds p 1 3

/-- The alternating series of artan(1 / x), as a signed number. -/
def atanTerms (p x : Nat) : Nat → Nat → Nat → Int
  | 0, _, _ => 0
  | n + 1, k, t =>
    (if k % 2 = 0 then ((t / (2 * k + 1) : Nat) : Int) else -((t / (2 * k + 1) : Nat) : Int)) + atanTerms p x n (k + 1) (t / (x * x))

/-- π, by Machin's formula, to within 2^16 units of 2^−p for p up to 2,000. -/
def piFix (p : Nat) : Int := 16 * atanTerms p 5 (p / 4 + 8) 0 (2 ^ p / 5) - 4 * atanTerms p 239 (p / 8 + 8) 0 (2 ^ p / 239)

/-- The alternating series of sine or cosine of r, from the term t at power k. -/
def trigTerms (p : Nat) (r : Int) : Nat → Nat → Int → Int
  | 0, _, _ => 0
  | n + 1, k, t => t + trigTerms p r n (k + 2) (-(t * r / 2 ^ p * r / 2 ^ p) / ((k + 1) * (k + 2) : Nat))

/-! ### The functions: a sign, and bounds of the magnitude in units of 2^−q -/

/-- Bounds of a magnitude: its sign, and low and high in units of 2^q. -/
structure Bounds where
  sg : Bool
  lo : Nat
  hi : Nat
  q : Int
  deriving DecidableEq, Repr

/-- 2^x for x = m · 2^e with a sign, not an integer, of magnitude below 256. -/
def ex2Bounds (p : Nat) (sg : Bool) (m : Nat) (e : Int) : Bounds :=
  let x := scaled sg m e (min e 0)
  let u : Int := 2 ^ (-(min e 0)).toNat
  let n := x.fdiv u
  let f := (x - n * u).toNat
  let (l2, h2) := ln2Bounds p
  let (lo, hi) := expBounds p (f * l2 / u.toNat) (f * h2 / u.toNat + 1)
  ⟨false, lo, hi, n - p⟩

/-- log2 of m · 2^e, m not a power of two. -/
def lg2Bounds (p : Nat) (m : Nat) (e : Int) : Bounds :=
  let k := Nat.log2 m
  let n : Int := (k : Int) + e
  -- the mantissa m / 2^k lies in (1, 2): (m − 2^k) / (m + 2^k) is at most 1/3
  let (a, b) := lnBounds p (m - 2 ^ k) (m + 2 ^ k)
  let (l2, h2) := ln2Bounds p
  let lo : Int := n * 2 ^ p + (a * 2 ^ p / h2 : Nat)
  let hi : Int := n * 2 ^ p + (b * 2 ^ p / l2 + 1 : Nat)
  if 0 ≤ lo then ⟨false, lo.toNat, hi.toNat, -(p : Int)⟩ else ⟨true, (-hi).toNat, (-lo).toNat, -(p : Int)⟩

/-- The sine of x = m · 2^e (with a quarter turn added for the cosine), of a sign. -/
def trigBounds (cos : Bool) (p : Nat) (sg : Bool) (m : Nat) (e : Int) : Bounds :=
  let pp := p + 160
  let pi := piFix pp
  let x := scaled sg m (e + pp) (min (e + pp) 0)
  let x := x.fdiv (2 ^ (-(min (e + pp) 0)).toNat)
  -- the nearest multiple k of a quarter turn, and the rest
  let k := (2 * x * 2 + pi).fdiv (2 * pi)
  let r := (2 * x - k * pi).fdiv (2 ^ 161)
  let n := p / 8 + 16
  let q := (k + (if cos then 1 else 0)).emod 4
  let c := if q % 2 = 0 then trigTerms p r n 1 r else trigTerms p r n 0 (2 ^ p)
  let c := if q ≥ 2 then -c else c
  let err : Int := 8 * n + 64
  if 0 ≤ c then ⟨false, (c - err).toNat, (c + err).toNat, -(p : Int)⟩
  else ⟨true, (-c - err).toNat, (-c + err).toNat, -(p : Int)⟩

/-- Square n times, below or above. -/
def squares (p : Nat) (up : Bool) : Nat → Nat → Nat
  | 0, x => x
  | n + 1, x => squares p up n (x * x / 2 ^ p + (if up then 1 else 0))

/-- tanh of a magnitude m · 2^e below 64: (1 − t) / (1 + t) with t = exp(−2x). -/
def tanhBounds (p : Nat) (sg : Bool) (m : Nat) (e : Int) : Bounds :=
  -- z = 2x / 256 lies below 1/2; exp(z) bounds exp(−z) by its reciprocal
  let z := if 0 ≤ e + p - 7 then m * 2 ^ (e + p - 7).toNat else m / 2 ^ (-(e + p - 7)).toNat
  let (lo, hi) := expBounds p z (z + 1)
  let tlo := squares p false 8 (2 ^ (2 * p) / hi)
  let thi := squares p true 8 (2 ^ (2 * p) / lo + 1)
  ⟨sg, (2 ^ p - thi) * 2 ^ p / (2 ^ p + thi), (2 ^ p - tlo) * 2 ^ p / (2 ^ p + tlo) + 1, -(p : Int)⟩

/-! ### Rounding -/

/-- Round a value known by bounds at rising precision, until both bounds round alike. -/
def roundBounds (f : Nat → Bounds) (fzo : Bool) : List Nat → Nat × Flags
  | [] => (0, 0)
  | p :: ps =>
    let b := f p
    let lo := fp32S.round (.num b.sg b.lo b.q true) 1 false fzo 0
    let hi := fp32S.round (.num b.sg (b.hi - 1) b.q true) 1 false fzo 0
    if lo = hi ∨ ps = [] then lo else roundBounds f fzo ps

/-- The precisions tried. -/
def precisions : List Nat := [192, 384, 768]

/-- A value strictly below m · 2^e in magnitude, by less than one part in 2^64. -/
def justBelow (sg : Bool) (m : Nat) (e : Int) : Val := .num sg (m * 2 ^ 64 - 1) (e - 64) true

/-- The functions of R229. -/
inductive SFun where
  | rcp | rsq | sqrt | ex2 | lg2 | sin | cos | tanh
  deriving DecidableEq, Repr

/-- The special function of a prepared FP32 operand (R229, R230): the encoding and the flags. mode and draw matter to
RCP and SQRT only. -/
def specialVal (fn : SFun) (x mode : Nat) (fzo : Bool) (draw : Nat) : Nat × Flags :=
  let one := 0x3F800000
  let bad : Nat × Flags := (fp32S.nanMag, flNV)
  let inf (sg : Bool) : Nat := fp32S.enc sg fp32S.infMag
  match fp32S.decode x with
  | .nan sg => (fp32S.enc sg fp32S.nanMag, if fp32S.isSnan x then flNV else 0)
  | .inf sg =>
    match fn with
    | .rcp => (fp32S.enc sg 0, 0)
    | .rsq => if sg then bad else (0, 0)
    | .sqrt | .lg2 => if sg then bad else (inf false, 0)
    | .ex2 => if sg then (0, 0) else (inf false, 0)
    | .sin | .cos => bad
    | .tanh => (fp32S.enc sg 0x3F800000, 0)
  | .num sg m e _ =>
    if m = 0 then
      match fn with
      | .rcp | .rsq => (inf sg, flDZ)
      | .sqrt | .sin | .tanh => (fp32S.enc sg 0, 0)
      | .ex2 | .cos => (one, 0)
      | .lg2 => (inf true, flDZ)
    else
      let top := (Nat.log2 m : Int) + e
      let near (v : Val) : Nat × Flags := fp32S.round v 1 false fzo 0
      match fn with
      | .rcp => fp32S.round (recipVal sg m e) mode false fzo draw
      | .sqrt => if sg then bad else fp32S.round (sqrtVal m e) mode false fzo draw
      | .rsq => if sg then bad else near (rsqrtVal m e)
      | .ex2 =>
        if 8 ≤ top then near (if sg then .num false 1 (-300) true else .num false 1 300 true)
        else
          -- an integer is exact
          let i := scaled sg m e (min e 0)
          let u : Int := 2 ^ (-(min e 0)).toNat
          if i % u = 0 then near (.num false 1 (i / u) false)
          else roundBounds (fun p => ex2Bounds p sg m e) fzo precisions
      | .lg2 =>
        if sg then bad
        else if m = 2 ^ Nat.log2 m then near (Val.ofInt top)
        else roundBounds (fun p => lg2Bounds p m e) fzo precisions
      | .sin => if top < -50 then near (justBelow sg m e) else roundBounds (fun p => trigBounds false p sg m e) fzo precisions
      | .cos => roundBounds (fun p => trigBounds true p sg m e) fzo precisions
      | .tanh =>
        if top < -50 then near (justBelow sg m e)
        else if 6 ≤ top then near (.num sg (2 ^ 64 - 1) (-64) true)
        else roundBounds (fun p => tanhBounds p sg m e) fzo precisions

end Sys2Proof.Machine
end

