-- ==== Sys2Proof/Machine/Float.lean ====
section
/-! DEFINITION. The floating pipe: prepared operands, arithmetic, minimum and maximum, compares, FSETMODE, packed
forms, conversions, the MX helper, special functions, hashed random numbers (07 R211 to R234). -/

namespace Sys2Proof.Machine

/-! ### What an instruction rounds with (R78, R82, R83, R211) -/

/-- The environment of one lane: the effective mode, the flushes in force, the draw of element j. -/
structure FEnv where
  mode : Nat
  fzi : Bool
  fzo : Bool
  draw : Nat → Nat

/-- eff_mode() of a group (R211). -/
def effMode (y : Group) (m : FMod) : Nat := if m.rnd = 0 then y.fpmode.toNat % 8 else m.rnd.toNat

/-- The environment of a lane of a group numbered grpid in a block. -/
def fenv (y : Group) (t : Thread) (m : FMod) (blkid grpid lane : Nat) : FEnv where
  mode := effMode y m
  fzi := m.fzi || y.fpmode.getLsbD 3
  fzo := m.fzo || y.fpmode.getLsbD 4
  draw j := srDraw y.fpmode (BitVec.ofNat 32 blkid) t.sdcnt grpid lane j

/-- fp_operand (R212): the prepared encoding and its flags, DI for a flush and NV for a signalling NaN. -/
def fpOperand (f : FSpec) (fzi na ab : Bool) (x : Nat) : Nat × Flags :=
  let (v, fl) := f.flushIn (x % 2 ^ f.bits) fzi
  let v := if ab then v % 2 ^ (f.bits - 1) else v
  let v := if na then (if f.sign v then v - 2 ^ (f.bits - 1) else v + 2 ^ (f.bits - 1)) else v
  (v, fl ||| (if f.isSnan v then flNV else 0))

/-- The canonical NaN whose sign is that of the first NaN operand (R72). -/
def nanOf (f : FSpec) (ops : List Nat) : Nat :=
  f.enc (match ops.find? fun x => (f.decode x).isNan with
    | some x => f.sign x
    | none => false) f.nanMag

/-- Arithmetic operations. -/
inductive FArith where
  | add | mul | fma
  deriving DecidableEq, Repr

/-- One element of FADD, FMUL or FFMA from prepared operands (R217). -/
def arithElem (f : FSpec) (op : FArith) (en : FEnv) (sat : Bool) (j a b c : Nat) : Nat × Flags :=
  let down := en.mode == 4
  let x := f.decode a
  let y := f.decode b
  let (r, bad) := match op with
    | .add => x.add down y
    | .mul => x.mul y
    | .fma =>
      let (p, b1) := x.mul y
      let (q, b2) := p.add down (f.decode c)
      (q, b1 || b2)
  if r.isNan then (nanOf f (if op = .fma then [a, b, c] else [a, b]), if bad then flNV else 0)
  else f.round r en.mode sat en.fzo (en.draw j)

/-- Pack the elements of a result and OR their flags (R86). -/
def packFlags (w : Nat) (l : List (Nat × Flags)) : Nat × Flags :=
  (packElems w (l.map (·.1)), l.foldl (fun fl x => fl ||| x.2) 0)

/-- The arithmetic of n elements with the FF flags of the instruction (R212, R217). -/
def arithVal (f : FSpec) (n : Nat) (op : FArith) (ff : FF) (en : FEnv) (sat : Bool) (a b c : Nat) : Nat × Flags :=
  packFlags f.bits ((List.range n).map fun j =>
    let e (x : Nat) : Nat := x / 2 ^ (f.bits * j)
    let (x, f1) := fpOperand f en.fzi ff.na ff.aa (e a)
    let (y, f2) := fpOperand f en.fzi ff.nb ff.ab (e b)
    let (z, f3) := if op = .fma then fpOperand f en.fzi ff.nc ff.ac (e c) else (0, 0)
    let (r, fl) := arithElem f op en sat j x y z
    (r, fl ||| f1 ||| f2 ||| f3))

/-- One element of FMIN or FMAX (R218). -/
def minMaxElem (f : FSpec) (mx fzo : Bool) (a b : Nat) : Nat × Flags :=
  let x := f.decode a
  let y := f.decode b
  let r :=
    if x.isNan && y.isNan then f.enc (f.sign a) f.nanMag
    else if x.isNan then b
    else if y.isNan then a
    else if mx then (if x.lt0 y then b else a) else (if y.lt0 x then b else a)
  if fzo && f.isSub r then (f.enc (f.sign r) 0, flDO ||| flUF ||| flNX) else (r, 0)

/-- Minimum or maximum of n elements. -/
def minMaxVal (f : FSpec) (n : Nat) (mx : Bool) (ff : FF) (en : FEnv) (a b : Nat) : Nat × Flags :=
  packFlags f.bits ((List.range n).map fun j =>
    let e (x : Nat) : Nat := x / 2 ^ (f.bits * j)
    let (x, f1) := fpOperand f en.fzi ff.na ff.aa (e a)
    let (y, f2) := fpOperand f en.fzi ff.nb ff.ab (e b)
    let (r, fl) := minMaxElem f mx en.fzo x y
    (r, fl ||| f1 ||| f2))

/-- FRND of a prepared operand (R219). -/
def frndVal (en : FEnv) (x : Nat) : Nat × Flags :=
  match fp32S.decode x with
  | .nan sg => (fp32S.enc sg fp32S.nanMag, 0)
  | .inf _ => (x, 0)
  | .num sg m e st =>
    if m = 0 ∨ 150 ≤ x / 2 ^ 23 % 256 then (x, 0)
    else
      let (i, ix) := roundInt sg m e st en.mode (en.draw 0)
      ((fp32S.round (if i = 0 then Val.zero sg else Val.ofInt i) 1 false false 0).1, if ix then flNX else 0)

/-- FCLASS (R220). -/
def fclassVal (x : Nat) : Nat :=
  let sg := fp32S.sign x
  match fp32S.decode x with
  | .nan _ => if fp32S.isSnan x then 2 ^ 8 else 2 ^ 9
  | .inf _ => if sg then 1 else 2 ^ 7
  | .num _ m _ _ =>
    if m = 0 then (if sg then 2 ^ 3 else 2 ^ 4)
    else if fp32S.isSub x then (if sg then 2 ^ 2 else 2 ^ 5)
    else if sg then 2 else 2 ^ 6

/-- The condition of FCMP and DCMP (R54, R221): unordered, and the order of the operands. -/
def fccOk (cc : Fcc) (un : Bool) (o : Ordering) : Bool :=
  match cc with
  | .eq => !un && o == .eq
  | .ne => !un && o != .eq
  | .lt => !un && o == .lt
  | .le => !un && o != .gt
  | .gt => !un && o == .gt
  | .ge => !un && o != .lt
  | .num => !un
  | .nan => un
  | .equ => un || o == .eq
  | .neu => un || o != .eq
  | .ltu => un || o == .lt
  | .leu => un || o != .gt
  | .gtu => un || o == .gt
  | .geu => un || o != .lt

/-- Conditions under which any NaN sets NV. -/
def Fcc_signals : Fcc → Bool
  | .lt | .le | .gt | .ge | .ltu | .leu | .gtu | .geu => true
  | _ => false

/-- The result of a compare and its flags (R221). -/
def fcmpVal (f : FSpec) (cc : Fcc) (fzi : Bool) (a b : Nat) : Bool × Flags :=
  let (x, f1) := fpOperand f fzi false false a
  let (y, f2) := fpOperand f fzi false false b
  let un := (f.decode x).isNan || (f.decode y).isNan
  (fccOk cc un ((f.decode x).cmp (f.decode y)), f1 ||| f2 ||| (if un && Fcc_signals cc then flNV else 0))

/-- CVT of n elements (R224). -/
def cvtVal (fd fs : Fmt) (n : Nat) (sat : Bool) (en : FEnv) (a : Nat) : Nat × Flags :=
  packFlags fd.bits ((List.range n).map fun j =>
    cvtElem fd fs (a / 2 ^ (fs.bits * j) % 2 ^ fs.bits) en.mode sat en.fzi en.fzo (en.draw j))

/-! ### The MX helper (R94 to R97, R226 to R228) -/

/-- emax_elem (R94). -/
def mxEmax : MxElem → Int
  | .e4m3 => 8 | .e5m2 => 15 | .e3m2 => 4 | .e2m3 => 2 | .e2m1 => 2 | .s8 => 0

/-- The layout of an element format; none for SINT8. -/
def mxSpec : MxElem → Option FSpec
  | .e4m3 => fmtSpec .e4m3
  | .e5m2 => fmtSpec .e5m2
  | .e3m2 => fmtSpec .e3m2
  | .e2m3 => fmtSpec .e2m3
  | .e2m1 => fmtSpec .e2m1
  | .s8 => none

/-- mx_scale of flushed FP32 values (R96). -/
def mxScale (l : List Nat) (e : MxElem) : Nat :=
  if l.any fun x => (fp32S.decode x).isNan || (fp32S.decode x).isInf then 0xFF
  else
    let amax := l.foldl (fun m x => max m (x % 2 ^ 31)) 0
    if amax = 0 then 0
    else
      match fp32S.decode amax with
      | .num _ m ex _ => (max (min ((Nat.log2 m : Int) + ex - mxEmax e) 127) (-127) + 127).toNat
      | _ => 0xFF

/-- Element i of R97 from a flushed value, and the flags. -/
def mxQuant (e : MxElem) (v x : Nat) (sat : Bool) (en : FEnv) (i : Nat) : Nat × Flags :=
  let val := match fp32S.decode v with
    | .num sg m ex st => Val.num sg m (ex - ((x : Int) - 127)) st
    | w => w
  match mxSpec e with
  | some f => f.round val en.mode sat en.fzo (en.draw i)
  | none =>
    match val with
    | .nan _ => (0, flNV)
    | .inf sg => (if sg then 0x80 else 0x7F, flNV)
    | .num sg m ex st =>
      let (k, ix) := roundInt sg m (ex + 6) st en.mode (en.draw i)
      if satInt k 8 true = k then (wrapInt 8 k, if ix then flNX else 0) else (wrapInt 8 (satInt k 8 true), flSF ||| flNX)

/-- CVTMX.Q of one value with a scale (R228). Under the scale 0xFF the only flag is NV of a signalling NaN: the flush that
stands before it raises none (assumption log 29). -/
def cvtmxQVal (e : MxElem) (a x : Nat) (sat : Bool) (en : FEnv) (lane : Nat) : Nat × Flags :=
  let (v, fl) := fp32S.flushIn a en.fzi
  let nv : Flags := if fp32S.isSnan a then flNV else 0
  if x % 256 = 0xFF then
    (match e with
      | .e4m3 | .e5m2 =>
        match mxSpec e with
        | some f => f.enc (fp32S.sign v) f.nanMag
        | none => 0
      | _ => 0, nv)
  else
    let (r, f2) := mxQuant e v (x % 256) sat en lane
    (r, fl ||| nv ||| f2)

/-! ### The shape of a floating instruction -/

/-- Count an issue group that the floating pipe accepts (R234). -/
def State.countFlt (s : State) (c : Cur) (gt : List Nat) : State :=
  if gt = [] then s
  else s.bump 3 0 (((s.grp? c.blk c.grp).map fun y => 4 * y.core + y.quad).getD 0) 1

/-- OR the flags of the guard-true lanes, and advance SDCNT where the instruction rounded stochastically (R78, R89). -/
def Group.afterFloat (y : Group) (gt : List Nat) (fl : Flags) (adv : Bool) : Group :=
  let y := y.raise fl
  if adv then y.modLanes gt fun _ t => { t with sdcnt := t.sdcnt + 1 } else y

/-- A floating instruction with one destination of n registers: f gives each lane's value and flags, and adv says that
it rounds with eff_mode(). -/
def fltForm (i : Instr) (g : Guard) (m : FMod) (adv : Bool) (d : Opnd) (n : Nat) (s : State)
    (f : Group → Thread → Nat → FEnv → Nat × Flags) : Ans :=
  issue i g s noOwn fun s c gt =>
    let blkid := ((s.blk? c.blk).map (·.blkid)).getD 0
    (s.countFlt c gt).modGrp c.blk c.grp fun y =>
      let res := gt.filterMap fun l => (y.threads[l]?).map fun t => (l, f y t l (fenv y t m blkid c.grp l))
      (y.writeDst d n (res.map fun (l, r) => (l, r.1))).afterFloat gt
        (res.foldl (fun fl (_, r) => fl ||| r.2) 0) (adv && effMode y m == 6)

/-- A floating compare (R221). -/
def fcmpForm (i : Instr) (h : Hd) (m : FMod) (f : FSpec) (k : Fmt) (cc : Fcc) (pp : PPair) (a b : Opnd) (s : State) : Ans :=
  issue i h.g s noOwn fun s c gt =>
    (s.countFlt c gt).modGrp c.blk c.grp fun y =>
      let one (t : Thread) (l : Nat) : Bool × Flags :=
        fcmpVal f cc (m.fzi || y.fpmode.getLsbD 3) (srcVal (.flt k) h.ext y t l a) (srcVal (.flt k) h.ext y t l b)
      let fl := gt.foldl (fun fl l => match y.threads[l]? with
        | some t => fl ||| (one t l).2
        | none => fl) (0 : Flags)
      (comparePairs y c gt pp fun t l => (one t l).1).raise fl

/-- The modifier of the forms whose MOD is zero. -/
def noFMod : FMod := ⟨false, false, 0⟩

/-- The layouts of the scalar and packed formats. -/
def fp64S : FSpec := ⟨64, 11, 52, 1023, true, true⟩
def qSpec (e5m2 : Bool) : FSpec := if e5m2 then ⟨8, 5, 2, 15, true, true⟩ else ⟨8, 4, 3, 7, false, true⟩
def qFmt (e5m2 : Bool) : Fmt := if e5m2 then .e5m2 else .e4m3

/-- A two-source arithmetic form. -/
def arith2 (i : Instr) (h : Hd) (m : FMod) (f : FSpec) (k : Kind) (n regs : Nat) (op : FArith) (ff : FF) (sat : Bool)
    (d a b : Opnd) (s : State) : Ans :=
  fltForm i h.g m true d regs s fun y t l en =>
    arithVal f n op ff en sat (srcVal k h.ext y t l a) (srcVal k h.ext y t l b) 0

/-- A fused multiply-add form. -/
def arith3 (i : Instr) (h : Hd) (m : FMod) (f : FSpec) (k : Kind) (n regs : Nat) (ff : FF) (sat : Bool)
    (d a b c : Opnd) (s : State) : Ans :=
  fltForm i h.g m true d regs s fun y t l en =>
    arithVal f n .fma ff en sat (srcVal k h.ext y t l a) (srcVal k h.ext y t l b) (srcVal k h.ext y t l c)

/-- A minimum or maximum form. -/
def minMax2 (i : Instr) (h : Hd) (m : FMod) (f : FSpec) (k : Kind) (n regs : Nat) (mx : Bool) (ff : FF)
    (d a b : Opnd) (s : State) : Ans :=
  fltForm i h.g m false d regs s fun y t l en =>
    minMaxVal f n mx ff en (srcVal k h.ext y t l a) (srcVal k h.ext y t l b)

/-- A special function. -/
def special1 (i : Instr) (h : Hd) (m : FMod) (ff : FF) (fn : SFun) (d a : Opnd) (s : State) : Ans :=
  fltForm i h.g m (fn == .rcp || fn == .sqrt) d 1 s fun y t l en =>
    let (x, fl) := fpOperand fp32S en.fzi ff.na ff.aa (srcVal (.flt .fp32) h.ext y t l a)
    let (r, f2) := specialVal fn x en.mode en.fzo (en.draw 0)
    (r, fl ||| f2)

/-! ### The instructions -/

def execFadd (h : Hd) (m : FMod) (f : FF) (d a b : Opnd) (s : State) : Ans :=
  arith2 (.fadd h m f d a b) h m fp32S (.flt .fp32) 1 1 .add f false d a b s

def execFmul (h : Hd) (m : FMod) (f : FF) (d a b : Opnd) (s : State) : Ans :=
  arith2 (.fmul h m f d a b) h m fp32S (.flt .fp32) 1 1 .mul f false d a b s

def execFfma (h : Hd) (m : FMod) (f : FF) (d a b c : Opnd) (s : State) : Ans :=
  arith3 (.ffma h m f d a b c) h m fp32S (.flt .fp32) 1 1 f false d a b c s

def execFmin (h : Hd) (m : FMod) (f : FF) (d a b : Opnd) (s : State) : Ans :=
  minMax2 (.fmin h m f d a b) h m fp32S (.flt .fp32) 1 1 false f d a b s

def execFmax (h : Hd) (m : FMod) (f : FF) (d a b : Opnd) (s : State) : Ans :=
  minMax2 (.fmax h m f d a b) h m fp32S (.flt .fp32) 1 1 true f d a b s

def execFrnd (h : Hd) (m : FMod) (f : FF) (d a : Opnd) (s : State) : Ans :=
  fltForm (.frnd h m f d a) h.g m true d 1 s fun y t l en =>
    let (x, fl) := fpOperand fp32S en.fzi f.na f.aa (srcVal (.flt .fp32) h.ext y t l a)
    let (r, f2) := frndVal en x
    (r, fl ||| f2)

def execFclass (h : Hd) (d a : Opnd) (s : State) : Ans :=
  fltForm (.fclass h d a) h.g noFMod false d 1 s fun y t l _ => (fclassVal (srcVal (.flt .fp32) h.ext y t l a), 0)

def execFcmp (h : Hd) (m : FMod) (cc : Fcc) (pp : PPair) (a b : Opnd) (s : State) : Ans :=
  fcmpForm (.fcmp h m cc pp a b) h m fp32S .fp32 cc pp a b s

/-- A floating instruction that changes its group as a whole (R220, R234). -/
def modeForm (i : Instr) (g : Guard) (s : State) (f : Group → Thread → Nat → Group) : Ans :=
  issue i g s wholeChk fun s c gt => (s.countFlt c gt).modGrp c.blk c.grp (byLowest gt f)

/-- A floating instruction that reads a register of its group (R220, R234). -/
def readForm (i : Instr) (g : Guard) (d : Opnd) (s : State) (f : Group → Word) : Ans :=
  issue i g s noOwn fun s c gt =>
    (s.countFlt c gt).modGrp c.blk c.grp fun y => y.writeDst d 1 (laneVals y gt fun y _ _ => (f y).toNat)

def execFsetmodeWmode (h : Hd) (a : Opnd) (s : State) : Ans :=
  modeForm (.fsetmodeWmode h a) h.g s fun y t l => { y with fpmode := fpmodeOf (src32 h.ext y t l a) }

def execFsetmodeRmode (h : Hd) (d : Opnd) (s : State) : Ans :=
  readForm (.fsetmodeRmode h d) h.g d s fun y => y.fpmode

def execFsetmodeRstat (h : Hd) (d : Opnd) (s : State) : Ans :=
  readForm (.fsetmodeRstat h d) h.g d s fun y => y.fpstat

def execFsetmodeCstat (h : Hd) (a : Opnd) (s : State) : Ans :=
  modeForm (.fsetmodeCstat h a) h.g s fun y t l =>
    { y with fpstat := y.fpstat &&& ~~~(BitVec.ofNat 32 (src32 h.ext y t l a % 256)) }

def execDadd (h : Hd) (m : FMod) (f : FF) (d a b : Opnd) (s : State) : Ans :=
  arith2 (.dadd h m f d a b) h m fp64S (.flt .fp64) 1 2 .add f false d a b s

def execDmul (h : Hd) (m : FMod) (f : FF) (d a b : Opnd) (s : State) : Ans :=
  arith2 (.dmul h m f d a b) h m fp64S (.flt .fp64) 1 2 .mul f false d a b s

def execDfma (h : Hd) (m : FMod) (f : FF) (d a b c : Opnd) (s : State) : Ans :=
  arith3 (.dfma h m f d a b c) h m fp64S (.flt .fp64) 1 2 f false d a b c s

def execDmin (h : Hd) (m : FMod) (f : FF) (d a b : Opnd) (s : State) : Ans :=
  minMax2 (.dmin h m f d a b) h m fp64S (.flt .fp64) 1 2 false f d a b s

def execDmax (h : Hd) (m : FMod) (f : FF) (d a b : Opnd) (s : State) : Ans :=
  minMax2 (.dmax h m f d a b) h m fp64S (.flt .fp64) 1 2 true f d a b s

def execDcmp (h : Hd) (m : FMod) (cc : Fcc) (pp : PPair) (a b : Opnd) (s : State) : Ans :=
  fcmpForm (.dcmp h m cc pp a b) h m fp64S .fp64 cc pp a b s

def execHadd2 (h : Hd) (m : FMod) (f : FF) (d a b : Opnd) (s : State) : Ans :=
  arith2 (.hadd2 h m f d a b) h m fp16S (.pflt .fp16) 2 1 .add f false d a b s

def execHmul2 (h : Hd) (m : FMod) (f : FF) (d a b : Opnd) (s : State) : Ans :=
  arith2 (.hmul2 h m f d a b) h m fp16S (.pflt .fp16) 2 1 .mul f false d a b s

def execHfma2 (h : Hd) (m : FMod) (f : FF) (d a b c : Opnd) (s : State) : Ans :=
  arith3 (.hfma2 h m f d a b c) h m fp16S (.pflt .fp16) 2 1 f false d a b c s

def execHmnmx2 (h : Hd) (m : FMod) (f : FF) (max : Bool) (d a b : Opnd) (s : State) : Ans :=
  minMax2 (.hmnmx2 h m f max d a b) h m fp16S (.pflt .fp16) 2 1 max f d a b s

def execBadd2 (h : Hd) (m : FMod) (f : FF) (d a b : Opnd) (s : State) : Ans :=
  arith2 (.badd2 h m f d a b) h m bf16S (.pflt .bf16) 2 1 .add f false d a b s

def execBmul2 (h : Hd) (m : FMod) (f : FF) (d a b : Opnd) (s : State) : Ans :=
  arith2 (.bmul2 h m f d a b) h m bf16S (.pflt .bf16) 2 1 .mul f false d a b s

def execBfma2 (h : Hd) (m : FMod) (f : FF) (d a b c : Opnd) (s : State) : Ans :=
  arith3 (.bfma2 h m f d a b c) h m bf16S (.pflt .bf16) 2 1 f false d a b c s

def execQadd4 (h : Hd) (m : FMod) (f : FF) (e5m2 sat : Bool) (d a b : Opnd) (s : State) : Ans :=
  arith2 (.qadd4 h m f e5m2 sat d a b) h m (qSpec e5m2) (.pflt (qFmt e5m2)) 4 1 .add f sat d a b s

def execQmul4 (h : Hd) (m : FMod) (f : FF) (e5m2 sat : Bool) (d a b : Opnd) (s : State) : Ans :=
  arith2 (.qmul4 h m f e5m2 sat d a b) h m (qSpec e5m2) (.pflt (qFmt e5m2)) 4 1 .mul f sat d a b s

def execQfma4 (h : Hd) (m : FMod) (f : FF) (e5m2 sat : Bool) (d a b c : Opnd) (s : State) : Ans :=
  arith3 (.qfma4 h m f e5m2 sat d a b c) h m (qSpec e5m2) (.pflt (qFmt e5m2)) 4 1 f sat d a b c s

def execCvt (h : Hd) (m : FMod) (fd fs : Fmt) (pack : BitVec 2) (sat : Bool) (d a : Opnd) (s : State) : Ans :=
  fltForm (.cvt h m fd fs pack sat d a) h.g m true d (regsOfBits (fd.bits * 2 ^ pack.toNat)) s fun y t l en =>
    cvtVal fd fs (2 ^ pack.toNat) sat en
      (srcVal (.int (32 * regsOfBits (fs.bits * 2 ^ pack.toNat))) h.ext y t l a)

/-- The derive form of CVTMX: the shared scale of the values of all 32 lanes, and DI where one was flushed (R227). -/
def cvtmxVal (h : Hd) (e : MxElem) (y : Group) (fzi : Bool) (a : Opnd) : Nat × Flags :=
  let l := (List.range 32).map fun j => fp32S.flushIn (match y.threads[j]? with
    | some t => srcVal (.flt .fp32) h.ext y t j a
    | none => 0) fzi
  (mxScale (l.map (·.1)) e, l.foldl (fun fl x => fl ||| x.2) 0)

def execCvtmx (h : Hd) (m : FMod) (e : MxElem) (sat : Bool) (d a : Opnd) (s : State) : Ans :=
  fltForm (.cvtmx h m e sat d a) h.g m false d 1 s fun y _ _ en => cvtmxVal h e y en.fzi a

def execCvtmxQ (h : Hd) (m : FMod) (e : MxElem) (sat : Bool) (d a b : Opnd) (s : State) : Ans :=
  fltForm (.cvtmxQ h m e sat d a b) h.g m true d 1 s fun y t l en =>
    cvtmxQVal e (srcVal (.flt .fp32) h.ext y t l a) (src32 h.ext y t l b) sat en l

def execRcp (h : Hd) (m : FMod) (f : FF) (d a : Opnd) (s : State) : Ans := special1 (.rcp h m f d a) h m f .rcp d a s

def execRsq (h : Hd) (m : FMod) (f : FF) (d a : Opnd) (s : State) : Ans := special1 (.rsq h m f d a) h m f .rsq d a s

def execSqrt (h : Hd) (m : FMod) (f : FF) (d a : Opnd) (s : State) : Ans :=
  special1 (.sqrt h m f d a) h m f .sqrt d a s

def execEx2 (h : Hd) (m : FMod) (f : FF) (d a : Opnd) (s : State) : Ans := special1 (.ex2 h m f d a) h m f .ex2 d a s

def execLg2 (h : Hd) (m : FMod) (f : FF) (d a : Opnd) (s : State) : Ans := special1 (.lg2 h m f d a) h m f .lg2 d a s

def execSin (h : Hd) (m : FMod) (f : FF) (d a : Opnd) (s : State) : Ans := special1 (.sin h m f d a) h m f .sin d a s

def execCos (h : Hd) (m : FMod) (f : FF) (d a : Opnd) (s : State) : Ans := special1 (.cos h m f d a) h m f .cos d a s

def execTanh (h : Hd) (m : FMod) (f : FF) (d a : Opnd) (s : State) : Ans :=
  special1 (.tanh h m f d a) h m f .tanh d a s

def execHrand (h : Hd) (d a b c : Opnd) (s : State) : Ans :=
  fltForm (.hrand h d a b c) h.g noFMod false d 1 s fun y t l _ =>
    ((hrandMix (BitVec.ofNat 64 (src64 h.ext y t l c)) (BitVec.ofNat 64 (src64 h.ext y t l a))
      (BitVec.ofNat 32 (src32 h.ext y t l b))).toNat, 0)

/-- DROP (R232). -/
def dropVal (t : DropTy) (a b c : Nat) : Nat :=
  match t with
  | .fp32 => if b % 2 ^ 32 < c % 2 ^ 32 then a else 0
  | _ => packElems 16 ((List.range 2).map fun i =>
      if b / 2 ^ (16 * i) % 65536 < c % 65536 then a / 2 ^ (16 * i) % 65536 else 0)

/-- How the values of DROP are read (R47, R53, R213). -/
def dropKind : DropTy → Kind
  | .fp32 => .flt .fp32
  | .fp16x2 => .pflt .fp16
  | .bf16x2 => .pflt .bf16

def execDrop (h : Hd) (t : DropTy) (d a b c : Opnd) (s : State) : Ans :=
  fltForm (.drop h t d a b c) h.g noFMod false d 1 s fun y th l _ =>
    (dropVal t (srcVal (dropKind t) h.ext y th l a) (src32 h.ext y th l b) (src32 h.ext y th l c), 0)

end Sys2Proof.Machine
end

