-- ==== Sys2Proof/Machine/HostPort.lean ====
section
/-! DEFINITION. The host port: the link, heartbeats, the declaration that the host is down, requests of the device toward
the host and of the host toward device memory, and atomics on host windows (21 R520 to R529). -/

namespace Sys2Proof.Machine

/-! ### Answers to requests of the device (R521, R525) -/

/-- A posted memory write, which needs no completion. -/
def HostOp.posted : HostOp → Bool
  | .write _ _ _ => true
  | _ => false

namespace State

/-- The outstanding request with an identity. -/
def hostReq? (s : State) (id : Nat) : Option HostReq := s.hst.reqs.find? fun r => r.id == id && r.result.isNone

def hostDrop (s : State) (id : Nat) : State := { s with hst := { s.hst with reqs := s.hst.reqs.filter (·.id != id) } }

def modHostReq (s : State) (id : Nat) (f : HostReq → HostReq) : State :=
  { s with hst := { s.hst with reqs := s.hst.reqs.map fun r => if r.id = id then f r else r } }

/-- A request ends: its owner goes on with the result. A slice's request that fails is completed with the fault (10
R288). -/
def hostAnswer (s : State) (r : HostReq) (st : FabStatus) (v : SecVal) : State :=
  match r.owner, st with
  | .engine, _ => s.hostDrop r.id
  | .sector sec, .fault code =>
    let s := s.hostDrop r.id
    if (s.dirE sec).trans = .bH then s.dirFail sec code else s
  | .sector _, .ok => s.hostDrop r.id
  | o, _ => (s.modHostReq r.id fun q => { q with result := some (st, v) }).afterAnswer o

/-- A request ends with HOST_LINK_DOWN. -/
def hostFail (s : State) (r : HostReq) : State := s.hostAnswer r (.fault 0x21) SecVal.zero

/-- The deadline of FAB_TMO has passed since a request was made (R521). -/
def hostLate (s : State) (r : HostReq) : Bool := decide (r.madeAt + usCclk (s.fab.tmo.toNat % 65536) ≤ s.now)

end State

/-! ### The declaration that the host is down (R529) -/

namespace State

/-- A message that belongs to a transaction of a line, and not a request or a writeback that starts one. -/
def midway : MKind → Bool
  | .gets | .getx | .getz | .upg | .cflq | .cinvq | .putc | .putm | .wbAck | .pubReq | .pubAck => false
  | _ => true

/-- A line of host memory: a transaction on it ends with HOST_LINK_DOWN, and its copies are discarded. -/
def hostLine (s : State) (sec : Nat) : State :=
  let s := if (s.dirE sec).trans = .stable then s
    else
      let s := { s with net := s.net.filter fun m => !(m.sec == sec && midway m.kind) }
      (s.dirFail sec 0x21).modDir sec fun e => { e with acks := 0 }
  s.lineVisit sec

/-- Every request of the device to the host ends; posted entries fault deferred. -/
def loseHostReqs (s : State) : State :=
  (s.hst.reqs.filter fun r => r.result.isNone).foldl (fun s r =>
    match r.owner with
    | .posted c id =>
      (match (s.core c).posted.find? (·.id == id) with
      | some p => (s.postedFree c id).storeFault p.blk p.grp p.lane p.pc p.va 0x21
      | none => s.hostDrop r.id)
    | _ => if (s.hostReq? r.id).isSome then s.hostFail r else s) s

/-- Pending-store entries for host memory fault deferred. -/
def loseHostStores (s : State) : State :=
  (s.cores.map (·.1)).foldl (fun s k =>
    ((s.core k).pend.filter fun (sec, _) => hostSec sec).foldl (fun s (sec, _) => s.failPend k sec 0x21) s) s

/-- The walk of the pod directory with the host as what died; the sectors poisoned are counted. -/
def hostWalk (s : State) : State × Nat :=
  (s.hom.pod.map (·.1)).foldl (fun (r : State × Nat) k =>
    let (s, psn) := r.1.entryVisit .host k
    (s, r.2 + if psn then 1 else 0)) (s, 0)

/-- The host is down; cause 0 for silence, 1 for link loss. One cclk, in the order of R529. -/
def declareHostDown (s : State) (cause : Nat) : State :=
  let s := { s with hst := { s.hst with down := true } }
  let s := s.loseHostReqs.loseHostStores
  let s := (s.dir.map (·.1)).foldl (fun s sec => if hostSec sec then s.hostLine sec else s) s
  let (s, n) := s.hostWalk
  let bytes : Nat := cause * 2 ^ 6 + 2 ^ 8 + s.mnd.epoch % 2 ^ 16 * 2 ^ 16 + s.self * 2 ^ 32 + n % 2 ^ 32 * 2 ^ 96
  match s.ioqPush (s.hst.ctl.toNat / 8 % 1024) (toBytes 16 bytes) with
  | (s, true) => s
  | (s, false) => { s with hst := { s.hst with drop := true } }

/-! ### The link (R520, R528) -/

/-- The link leaves the up state: the host is declared down at once (R528 rule 4). -/
def linkLost (s : State) : State :=
  if s.hst.up then
    let s := { s with hst := { s.hst with up := false, cxl := false } }
    if s.hst.down then s else s.declareHostDown 1
  else s

/-- A write of HST_CTL: LINKEN 1 after 0 clears HOSTDOWN, LINKEN 0 takes the link down (R529, R535). -/
def hstCtlWrite (s : State) (v : Word) : State :=
  let was := s.hst.ctl
  let s := { s with hst := { s.hst with
    ctl := v &&& 0x1FFF
    down := s.hst.down && !(v.getLsbD 0 && !was.getLsbD 0)
    lastBeat := if v.getLsbD 2 && !was.getLsbD 2 then s.now else s.hst.lastBeat } }
  if v.getLsbD 0 then s else s.linkLost

end State

/-- LINK_ENABLE: system software writes LINKEN 1. -/
def execLinkEnable (s : State) : Ans := .next (s.hstCtlWrite (s.hst.ctl ||| 1))

/-- LINK_DISABLE: system software writes LINKEN 0. -/
def execLinkDisable (s : State) : Ans := .next (s.hstCtlWrite (s.hst.ctl &&& ~~~1))

/-- LINK_UP: a link that may train comes up, and the requests that waited in the port are sent (R520, R525 rule 2). A
package whose image was refused does not train it (22 R542). -/
def execLinkUp (cxl : Bool) (s : State) : Ans :=
  .next (if s.hst.ctl.getLsbD 0 && !s.hst.up && s.pkg.booted then
    let waiting := s.hst.reqs.filter fun r => !r.sent && !r.op.posted && r.result.isNone
    let send (r : HostReq) : HostReq := if r.op.posted then r else { r with sent := true }
    let s := { s with hst := { s.hst with up := true, cxl := cxl, lastBeat := s.now, reqs := s.hst.reqs.map send } }
    waiting.foldl (fun s r => s.emit (.host (send r))) s
  else s)

/-- LINK_DOWN: the link fails. -/
def execLinkDown (s : State) : Ans := .next s.linkLost

/-! ### Heartbeats (R528) -/

/-- HEARTBEAT_SEND: every PERIOD µs a posted write of the count, advanced by one, to HST_HBADDR. -/
def execHeartbeatSend (s : State) : Ans :=
  .next (if s.hst.ctl.getLsbD 2 && s.hst.up && !s.pkg.stopped
      && decide (s.hst.lastSent + usCclk (s.hst.hb.toNat % 65536) ≤ s.now) then
    let n := (s.hst.beat + 1) % 2 ^ 32
    { s.emit (.beat s.hst.hbaddr.toNat n) with hst := { s.hst with beat := n, lastSent := s.now } }
  else s)

/-- HST_HBIN: any write is a beat of the host. -/
def State.hostBeat (s : State) : State := { s with hst := { s.hst with lastBeat := s.now } }

def execHstHbin (_ : Word) (s : State) : Ans := .next s.hostBeat

/-- HOST_SILENCE: no write of HST_HBIN for MISS × PERIOD µs (R528 rule 3). -/
def execHostSilence (s : State) : Ans :=
  let limit := usCclk (s.hst.hb.toNat % 65536) * max 1 (s.hst.hb.toNat / 65536 % 16)
  .next (if s.hst.ctl.getLsbD 2 && s.hst.up && !s.hst.down && decide (s.hst.lastBeat + limit ≤ s.now) then
    s.declareHostDown 0
  else s)

/-! ### The host reaches device memory (R524) -/

namespace State

/-- An offset lies in the HBM that HST_HDM exposes. -/
def inHdm (s : State) (off : Nat) : Bool :=
  decide (s.hst.hdm.toNat % 65536 * 2 ^ 30 ≤ off)
    && decide (off < (s.hst.hdm.toNat % 65536 + s.hst.hdm.toNat / 65536) * 2 ^ 30) && decide (off < s.pkg.caps.mem * 2 ^ 30)

def hostDbErr (s : State) : State := { s with hst := { s.hst with dberr := true } }

/-- The host's entry of a sector, once it records what a read asked for. -/
def hostHolds (s : State) (sec : Nat) (own : Bool) : Bool :=
  match s.podFind sec with
  | some (_, e) => e.trans == .stable && (if own then e.st != .s && e.hown else (e.st != .s && e.hown) || e.host)
  | none => false

/-- Answer a host read whose sector the host holds; a live tag is published first, and a publish that failed poisons
the data (09 R261 rule 4). -/
def hostReadReply (s : State) (sec : Nat) (own : Bool) : State :=
  let s := if own then s else s.pullLocal sec
  match s.tagOut sec with
  | (s, .wait) => s
  | (s, t) =>
    let v := s.cohRead sec
    let bad := match t with
      | .lost | .fail _ => true
      | _ => false
    let s := if bad then s.poisonHome sec else s
    (((s.readBy sec).untag sec).emit (.hostReply (64 * sec) ⟨v.bytes, none, v.psn || bad⟩ false)).bump 12 0 0 1 |>.bump 17 3 0 1

/-- A host read: a request to the home agent with the host as requester. -/
def hostRead (s : State) (sec : Nat) (own : Bool) : State :=
  if s.hostHolds sec own then s.hostReadReply sec own
  else if (s.dirE sec).trans != .stable || (s.podFind sec).any fun (_, e) => e.trans != .stable then s
  else
    let s := s.podServe sec ⟨.host, if own then .rdX else .rdS⟩
    if s.hostHolds sec own then s.hostReadReply sec own else s

/-- A host write performed at the home. -/
def hostWriteAt (s : State) (sec : Nat) (v : SecData) : State :=
  match s.homeReady sec true with
  | (s, some _) => ((s.performHome (.write (64 * sec) (-1) v)).1.bump 12 0 0 1).bump 17 3 0 1
  | (s, none) => s

/-- A host write of a whole sector: the writeback of a sector the host owns, or a write performed at the home. -/
def hostWrite (s : State) (sec : Nat) (v : SecData) : State :=
  match s.podFind sec with
  | some (b, e) =>
    if e.st != .s && e.hown then
      if e.trans = .stable ∧ s.llcRoom (sec / 2) then
        let s := (s.llcSeat sec).llcPut sec ⟨v, none, false⟩ true
        ((if e.st = .x then s.podDel b else s.podPut b { e with st := .s, hown := false, owner := 0 }).bump 12 0 0 1).bump
          17 3 0 1
      else s.llcMake (sec / 2)
    else s.hostWriteAt sec v
  | none => s.hostWriteAt sec v

end State

/-- HOST_MEM_REQUEST: a CXL.mem request for one sector at a byte offset of the own home. What must be waited for leaves
the request to be presented again. -/
def execHostMemRequest (pa : Nat) (write own : Bool) (v : SecData) (s : State) : Ans :=
  let off := gpaOff pa
  let sec := gpaOf s.self off / 64
  .next (if s.hst.down || !s.hst.up || !s.hst.cxl || !s.inHdm off then
      if write then s.hostDbErr else (s.hostDbErr).emit (.hostReply pa ⟨0, none, true⟩ true)
    else
      let s := s.walkMeet sec
      if write then s.hostWrite sec v else s.hostRead sec own)

/-! ### Completions and deadlines of requests to the host (R521, R525) -/

/-- HOST_WRITE_SEND: a posted write leaves on the link, which acknowledges it (R525 rule 2). -/
def execHostWriteSend (id : Nat) (s : State) : Ans :=
  .next (match s.hostReq? id with
    | some r => if r.op.posted && s.hst.up then
        (s.emit (.host { r with sent := true })).hostAnswer { r with sent := true } .ok SecVal.zero
      else s
    | none => s)

namespace State

/-- A request goes on as another, behind every request made before (R527: fallbacks are served in the order of their
arrival). -/
def hostTurn (s : State) (r : HostReq) (op : HostOp) : State :=
  let q : HostReq := { r with op := op }
  { s with hst := { s.hst with reqs := (s.hst.reqs.filter fun (x : HostReq) => x.id != r.id) ++ [q] } }.emit (.host q)

end State

/-- HOST_READ_COMPLETION: a read's data, or an Unsupported Request or Completer Abort, or any other error of a
completion (R525, R527). -/
def execHostReadCompletion (id : Nat) (err : Bool) (v : SecData) (s : State) : Ans :=
  .next (match s.hostReq? id with
    | some r =>
      if r.op.posted || !r.sent then s
      else if err then s.hostFail r
      else
        match r.op with
        | .read pa n => s.hostAnswer r .ok ⟨placeSec (pa % 64) (v.toNat % 2 ^ (8 * n)), none, false⟩
        | .flush pa op => s.hostTurn r (.coherent pa op)
        | _ => s
    | none => s)

/-- HOST_REQUEST_DEADLINE: a request without a completion within the deadline of FAB_TMO (R521). -/
def execHostRequestDeadline (id : Nat) (s : State) : Ans :=
  .next (match s.hostReq? id with
    | some r => if !r.op.posted && s.hostLate r then s.hostFail r else s
    | none => s)

/-- HOST_WRITE_DEADLINE: a write that still waits for the link at the deadline of FAB_TMO (R525 rule 2). -/
def execHostWriteDeadline (id : Nat) (s : State) : Ans :=
  .next (match s.hostReq? id with
    | some r => if r.op.posted && !s.hst.up && s.hostLate r then s.hostFail r else s
    | none => s)

/-! ### Atomics on host windows (R526, R527) -/

/-- ATOMICOP_COMPLETION: the old value. -/
def execAtomicopCompletion (id : Nat) (v : QWord) (s : State) : Ans :=
  .next (match s.hostReq? id with
    | some r =>
      match r.op with
      | .atomic _ _ _ op => if r.sent then s.hostAnswer r .ok (oldVal (v.toNat % 2 ^ (8 * opSize op))) else s
      | _ => s
    | none => s)

/-- ATOMICOP_UR: not performed; the coherent fallback where AFB and CXL allow it, behind a zero-length read for a release, else
HOST_ATOMIC_UR (R527). -/
def execAtomicopUr (id : Nat) (s : State) : Ans :=
  .next (match s.hostReq? id with
    | some r =>
      match r.op with
      | .atomic pa afb rel op =>
        if !r.sent then s
        else
          let s := s.bump 17 1 0 1
          if afb && s.hst.cxl then s.hostTurn r (if rel then .flush pa op else .coherent pa op)
          else s.hostAnswer r (.fault 0x20) SecVal.zero
      | _ => s
    | none => s)

namespace State

/-- An atomic that waits for the coherent fallback on a sector. -/
def fallsBack (sec : Nat) (r : HostReq) : Bool :=
  r.sent && r.result.isNone && (match r.op with
    | .coherent pa op => pa / 64 == sec && (match op with
      | .read _ | .write _ _ _ | .reads _ _ | .writes _ _ => false
      | _ => true)
    | _ => false)

/-- Perform the read-modify-writes of a list of fallbacks on the bytes of their sector, in order; the old values. -/
def fallbackRun (d : SecData) : List HostReq → SecData × List (HostReq × Nat)
  | [] => (d, [])
  | r :: rs =>
    match r.op with
    | .coherent _ op =>
      let o := opAddr op % 64
      let old := takeSec d o (opSize op)
      let d := match opNew op old with
        | some x => mergeSec d (maskOf o (opSize op)) (placeSec o x)
        | none => d
      let (d, l) := fallbackRun d rs
      (d, (r, old) :: l)
    | _ => fallbackRun d rs

/-- The slice has a sector in M through CXL.cache: every fallback that waits for it is performed, in order, and the
sector is written back to the host and its copy dropped. -/
def fallbacks (s : State) (sec : Nat) (v : SecVal) : State :=
  let cached := (s.dirE sec).pkgst != .i
  let v := if cached then s.cohRead sec else v
  let s := if cached then (s.dropLocal sec).modDir sec fun e =>
    { e with lv := false, ld := false, pkgst := .i, val := SecVal.zero } else s
  let rs := s.hst.reqs.filter (fallsBack sec)
  if v.psn then rs.foldl (fun s r => s.hostAnswer r (.fault 0x18) SecVal.zero) s
  else
    let (d, olds) := fallbackRun v.bytes rs
    let s := (s.bump 17 2 0 rs.length).hostAsk .engine (.writeback sec ⟨d, none, false⟩) |>.1
    olds.foldl (fun s (r, old) => s.hostAnswer r .ok (oldVal old)) s

/-- A miss on host memory has what it asked for: the data, unless the package holds a copy, and PKGST. -/
def hostGrant (s : State) (sec : Nat) (own : Bool) (v : SecVal) : State :=
  let e := s.dirE sec
  let e := if e.pkgst = .i then { e with val := v, lv := true, ld := false } else e
  s.setDir sec { e with pkgst := if own then .m else .s }

end State

/-- COHERENT_FALLBACK, and every completion of CXL.cache: a sector has been obtained, or written back (R523, R527). -/
def execCoherentFallback (id : Nat) (v : SecVal) (s : State) : Ans :=
  .next (match s.hostReq? id with
    | some r =>
      if !r.sent then s
      else
        match r.op, r.owner with
        | .writeback _ _, _ => s.hostDrop id
        | .coherent _ (.read _), .sector sec => (s.hostGrant sec false v).hostAnswer r .ok SecVal.zero
        | .coherent _ (.write _ _ _), .sector sec => (s.hostGrant sec true v).hostAnswer r .ok SecVal.zero
        | .coherent pa _, _ => if (s.dirE (pa / 64)).trans = .stable then s.fallbacks (pa / 64) v else s
        | _, _ => s
    | none => s)

end Sys2Proof.Machine
end

