-- ==== Sys2Proof/Machine/TileSeq.lean ====
section
/-! DEFINITION. The tile sequencer: the copies of a block's stream, framing in the stream buffer, the turn of a copy
(13 R340 to R343, R348, R362, R364). -/

namespace Sys2Proof.Machine

namespace State

/-- A copy of a block's tile stream. -/
def tile? (s : State) (b k : Nat) : Option Tile := (s.blk? b).bind fun x => x.tiles[k]?

def modTile (s : State) (b k : Nat) (f : Tile → Tile) : State :=
  s.modBlk b fun x => { x with tiles := x.tiles.modify k f }

/-- Deliver the record of a copy's fault: level 3 or above, KIND T, its core (20 R492, R493). -/
def tileDeliver (s : State) (b k : Nat) (f : Flt) (act lvl : Nat) : State :=
  let x := s.blk? b
  let core := ((s.tile? b k).map (·.core)).getD 0
  let w := f.word act lvl ((x.map (·.asid)).getD 0) ((x.map (·.gridid)).getD 0) ((x.map (·.blkid)).getD 0) 0 0 core
  match (s.bump 16 0 core 1).ioqPush (s.trp.ctl.toNat % 1024) (toBytes 64 w) with
  | (s, true) => s
  | (s, false) => { s.bump 16 5 core 1 with trp := { (s.bump 16 5 core 1).trp with drop := true } }

/-- A copy raises a fault at a stream address: it issues nothing until the trap unit resolves it (R362). -/
def tileRaise (s : State) (b k pc va : Nat) (code : BitVec 8) (broken : Bool := false) : State :=
  s.modTile b k fun t => { t with fault := some ⟨pc, va, code, 0, false, false, broken⟩ }

end State

/-- The words of a line of the stream buffer. -/
def Tile.line (t : Tile) (n : Nat) : List Word := (t.buf.drop (32 * n)).take 32

/-- The stream address of a position of the stream buffer. -/
def Tile.addr (t : Tile) (spc : Nat) : Nat := t.base + 4 * spc

/-- What stands at a position of the stream: an instruction with the next position, or a decode fault (R39, R40, R57,
R58, R343). -/
def Tile.framed (t : Tile) (spc : Nat) : Nat × Except (BitVec 8) Instr :=
  if t.lines ≤ spc / 32 then (spc + 1, .error 0x02)
  else
    let ws := t.line (spc / 32)
    let i := spc % 32
    match startAt ws i with
    | none => (spc + 1, .error 0x02)
    | some st =>
      let n := spc / 32 * 32 + nextPc ws 0 i st.len / 4
      if !st.ok || malformed ws then (n, .error 0x02)
      else
        let w (k : Nat) : Word := if k < st.len then ws.getD (i + k) 0 else 0
        match decodeTile (w 0) (w 1) (w 2) (w 3) with
        | .ok ins => (n, .ok ins)
        | .error e => (n, .error (decodeCode e))

/-- A tile-stream transfer of control checks its target (R42, R358): the position, where the target is legal. -/
def Tile.target (t : Tile) (addr : Int) : Option Nat :=
  if addr < t.base ∨ addr % 4 ≠ 0 then none
  else
    let spc := (addr - t.base).toNat / 4
    let spc := if spc % 32 = 0 then spc + 1 else spc
    if t.lines ≤ spc / 32 then none
    else
      let ws := t.line (spc / 32)
      if (ws.getD 0 0).getLsbD (spc % 32) && (startAt ws (spc % 32)).any (·.ok) then some spc else none

namespace State

/-- A copy may act: its block has started and is not being halted, but for a row of a TST in flight, and no fault of the copy
is outstanding (R362, R364). -/
def tileReady (s : State) (b k : Nat) : Bool :=
  match s.blk? b, s.tile? b k with
  | some x, some t => !s.pkg.stopped && x.groups.all (·.started) && (!x.halting.contains t.core || t.rowBusy)
      && !t.ended && t.fault.isNone
  | _, _ => false

/-- The copy's instruction is done: the next position (R348). -/
def tileNext (s : State) (b k spc : Nat) : State := s.modTile b k fun t => { t with spc := spc, retries := 0, wait := .none, issued := false }

/-- The turn of a copy. An instruction that waits leaves the copy where it stands. -/
def tileTurn (run : Instr → State → Ans) (s : State) (b k : Nat) : Ans :=
  if s.tileReady b k then
    match s.tile? b k with
    | none => .next s
    | some t =>
      let pc := t.addr t.spc
      match t.framed t.spc with
      | (_, .error code) => .next (s.tileRaise b k pc 0 code)
      | (n, .ok i) =>
        match run i { s with cur := .tile b k pc n } with
        | .next s => .next { s with cur := .none }
        | o => o
  else .next s

/-- The copies that could issue. -/
def readyTiles (s : State) : List (Nat × Nat) :=
  s.blocks.flatMap fun (b, x) => (List.range x.tiles.length).filterMap fun k =>
    if s.tileReady b k then some (b, k) else none

end State

end Sys2Proof.Machine
end

