-- ==== Sys2Proof/Machine/Tile.lean ====
section
/-! DEFINITION. The tile sequencer's forms: control registers, loading and storing tiles, barriers, transfers of control,
cuff links, the fetch of a stream and the faults of its copies (13 R340 to R365; 14 R372). -/

namespace Sys2Proof.Machine

/-! ### Shapes and slots (R344 to R346) -/

/-- A control register of a copy, by its AUX number. -/
def Tile.ctlReg (t : Tile) (n : Nat) : Word := getD 0 t.ctl n

/-- The shape word of tile Mn. -/
def Tile.shape (t : Tile) (n : Nat) : Nat := (t.ctlReg n).toNat

/-- Rows of a shape. -/
def shapeRows (x : Nat) : Nat := bitsOf x 7 0 + 1

/-- Bytes of a row of a shape. -/
def shapeRow (x : Nat) : Nat := 16 * (bitsOf x 15 8 + 1)

/-- The extent of a shape. -/
def shapeExtent (x : Nat) : Nat := shapeRows x * shapeRow x

/-- The element format of a shape; reset 0 is FP32's code. -/
def shapeFmt (x : Nat) : Option Fmt := fmtOf (BitVec.ofNat 5 (bitsOf x 20 16))

/-- The width of an element in a tile: 8 bits for the 6-bit formats (R75, R354, R367). -/
def elemBits (f : Fmt) : Nat :=
  match f with
  | .fp64 | .s64 | .u64 => 64
  | .fp32 | .s32 | .u32 => 32
  | .fp16 | .bf16 | .s16 | .u16 => 16
  | .e2m1 | .s4 | .u4 => 4
  | _ => 8

/-- The width of a shape's elements. -/
def shapeBits (x : Nat) : Nat := ((shapeFmt x).map elemBits).getD 8

/-- A memory whose bytes below n are those of a function, and whose others stay. -/
def Memory.fill (m : Memory) (n : Nat) (f : Nat → Byte) : Memory :=
  ((List.range n).filterMap fun i => if f i = 0 then none else some (i, f i)) ++ m.filter fun (a, _) => decide (n ≤ a)

/-- The slot of a tile. -/
def Tile.slot (t : Tile) (n : Nat) : Memory := t.tiles.getD n []

/-- Write the extent of a tile, whose bytes then hold no error. -/
def Tile.fill (t : Tile) (n : Nat) (f : Nat → Byte) : Tile :=
  { t with
    tiles := t.tiles.set n ((t.slot n).fill (shapeExtent (t.shape n)) f)
    bad := t.bad.filter fun (k, o) => !(k == n && decide (o < shapeExtent (t.shape n))) }

/-- A value that TSHAPE refuses (R352). -/
def shapeBad (x : Nat) : Bool := decide (65536 < shapeExtent x) || (shapeFmt x).isNone

/-- The bits of a control register that hold a field (R346, R347, R370). -/
def ctlMask (n : Nat) : Word := if n < 16 then 0x007FFFFF else if 0x28 ≤ n ∧ n < 0x2C then 0xFFFFFF1F else 0xFFFFFFFF

/-! ### The end of an instruction -/

namespace State

/-- The instruction at which a copy stands is issued: it is counted once (R365). -/
def tileIssue (s : State) (b k : Nat) (t : Tile) : State :=
  if t.issued then s else (s.modTile b k fun t => { t with issued := true }).bump 9 0 t.core 1

/-- LEASE_VIOLATION from a copy ends the grid at once (06 R190). -/
def tileLease (s : State) (b k pc va : Nat) (broken : Bool := false) : State :=
  match s.blk? b with
  | some x => ((s.tileDeliver b k ⟨0x12, 4, 3, 0, pc, pc, va, 0, broken, false⟩ 2 4).killGrid x.gridid true)
  | none => s

/-- A fault that a copy meets: raised in it, or LEASE_VIOLATION (R355 rule 4, R362). -/
def tileFail (s : State) (b k pc va : Nat) (code : BitVec 8) (broken : Bool := false) : State :=
  if code = 0x12 then s.tileLease b k pc va broken else s.tileRaise b k pc va code broken

/-- A copy as an agent of memory. A copy under ASID 0 is compared with no lease (20 R500). -/
def tileAgent (s : State) (b k : Nat) : Agent :=
  let asid := ((s.blk? b).map (·.asid)).getD 0
  { blk := b, grp := 0, lane := 0, core := ((s.tile? b k).map (·.core)).getD 0, asid := asid, priv := asid == 0 }

/-- Write a control register of a copy, or refuse a shape (R352). -/
def ctlWrite (s : State) (b k pc n next : Nat) (v : Word) : State :=
  if n < 16 && shapeBad v.toNat then s.tileRaise b k pc 0 0x02
  else (s.modTile b k fun t => { t with ctl := putD 0 n (v &&& ctlMask n) t.ctl }).tileNext b k next

end State

/-- A tile form: what it does for the copy that issues it, with its block, its copy, its address and the next position. -/
def tileForm (s : State) (f : State → Nat → Nat → Block → Tile → Nat → Nat → State) : Ans :=
  match s.cur with
  | .tile b k pc n =>
    match s.blk? b, s.tile? b k with
    | some x, some t => .next (f (s.tileIssue b k t) b k x t pc n)
    | _, _ => .next s
  | _ => .next s

def execTileNop (_len : BitVec 2) (s : State) : Ans := tileForm s fun s b k _ _ _ n => s.tileNext b k n

def execTswr (ctl : BitVec 8) (v : Word) (s : State) : Ans :=
  tileForm s fun s b k _ _ pc n => s.ctlWrite b k pc ctl.toNat n v

/-- TSRD reads its own core's portion (R351). -/
def execTsrd (ctl : BitVec 8) (off : Word) (s : State) : Ans :=
  tileForm s fun s b k x t pc n =>
    let p := portion x.fr.scratch x.cores.length
    let a := t.cidx * p + off.toNat
    if off.toNat % 4 ≠ 0 then s.tileRaise b k pc a 0x08
    else if p < off.toNat + 4 ∨ x.fr.scratch < a + 4 then s.tileRaise b k pc a 0x09
    else s.ctlWrite b k pc ctl.toNat n (BitVec.ofNat 32 (x.scratch.num a 4))

/-! ### Loading and storing tiles (R353 to R356) -/

/-- The signed value of a word. -/
def signed32 (w : Word) : Int := intOf 32 true w.toNat

/-- tile_addr (R353): whether the address is global, and the address. -/
def Tile.tileAddr (t : Tile) (x : Nat) (timm : Word) : Bool × Nat :=
  let off := bitsOf timm.toNat 28 0
  let n := bitsOf timm.toNat 30 29
  let step : Int := signed32 (t.ctlReg (0x10 + x)) * (t.ctlReg (0x40 + bitsOf (t.shape x) 22 21)).toNat
  if timm.getLsbD 31 then
    (true, wrapInt 64 (((t.ctlReg (0x39 + 2 * n)).toNat * 2 ^ 32 + (t.ctlReg (0x38 + 2 * n)).toNat : Nat) + off + step))
  else (false, wrapInt 32 ((t.ctlReg (0x30 + n)).toNat + off + step))

/-- The ranges of memory that a tile of a shape meets, from an address with a stride: one for each row, or for each
column where transposed (R354). -/
def tileLines (x : Nat) (tr : Bool) (a stride : Nat) : List (Nat × Nat) :=
  if tr then (List.range (shapeRow x * 8 / shapeBits x)).map fun c => (a + c * stride, shapeRows x * (shapeBits x / 8))
  else (List.range (shapeRows x)).map fun r => (a + r * stride, shapeRow x)

/-- Where byte i of the extent stands among the bytes of the ranges, one after the other. -/
def linePos (x : Nat) (tr : Bool) (i : Nat) : Nat :=
  if tr then
    let w := shapeBits x / 8
    let r := i / shapeRow x
    let j := i % shapeRow x
    j / w * (shapeRows x * w) + r * w + j % w
  else i

/-- The bytes of one range, from the slot. -/
def lineBytes (m : Memory) (x : Nat) (tr : Bool) (c : Nat) : List Byte :=
  if tr then
    let w := shapeBits x / 8
    (List.range (shapeRows x)).flatMap fun r => m.bytes (r * shapeRow x + c * w) w
  else m.bytes (c * shapeRow x) (shapeRow x)

/-- The checks of a TLD or TST that need no access: its fault (R355 rules 1 to 3). -/
def tileCheck (x : Block) (sh : Nat) (tr g : Bool) (a stride : Nat) : Option (BitVec 8 × Nat) :=
  if tr && shapeBits sh == 4 then some (0x02, 0)
  else if a % 16 ≠ 0 ∨ stride % 16 ≠ 0 then some (0x08, a)
  else if !g && (tileLines sh tr a stride).any fun (p, n) => decide (x.fr.scratch < p + n) then some (0x09, a)
  else none

namespace State

/-- A TLD that faults: its extent becomes zero, and the copy stops (R355). -/
def tldFault (s : State) (b k d pc va : Nat) (code : BitVec 8) (broken : Bool := false) : State :=
  ((s.dropAnswers (.tile b k)).modTile b k fun t => t.fill d fun _ => 0).tileFail b k pc va code broken

/-- A TLD takes the bytes of its ranges. -/
def tldDone (s : State) (b k d n : Nat) (tr : Bool) (bs : List Byte) : State :=
  let s := s.dropAnswers (.tile b k)
  let s := s.modTile b k fun t => t.fill d fun i => bs.getD (linePos (t.shape d) tr i) 0
  (s.bump 9 1 (((s.tile? b k).map (·.core)).getD 0) bs.length).tileNext b k n

/-- Cached scale lines take the scratchpad bytes that a TST has written over them (14 R372). -/
def scaleUpdate (s : State) (b k : Nat) (ls : List (Nat × Nat)) : State :=
  match s.blk? b with
  | none => s
  | some x =>
    let hit (a : Nat) : Bool := ls.any fun (p, n) => decide (p ≤ a) && decide (a < p + n)
    let fresh (line : Nat) (v : SecVal) : SecVal :=
      let mask : BitVec 64 := (List.range 64).foldl (fun m i => if hit (64 * line + i) then m ||| (1#64 <<< i) else m) 0
      { v with bytes := mergeSec v.bytes mask (x.scratch.sector line) }
    s.modTile b k fun t => { t with scale := t.scale.map fun (l, v) => (l, fresh l v) }

/-- A deferred fault of a TST: the copy's single record (R355). -/
def tileDefer (s : State) (b k pc va : Nat) (code : BitVec 8) : State :=
  s.modTile b k fun t => { t with deferred := some (match t.deferred with
    | some d => { d with count := min 255 (d.count + 1) }
    | none => ⟨pc, va, code, 0⟩) }

/-- The parts of memory that row r of a TST meets, in the order of the row's bytes: one for each element where
transposed (R354). -/
def tileRow (x : Nat) (tr : Bool) (a stride r : Nat) : List (Nat × Nat) :=
  if tr then
    let w := shapeBits x / 8
    (List.range (shapeRow x / w)).map fun c => (a + c * stride + r * w, w)
  else partsOf (a + r * stride) (shapeRow x)

/-- The block of a copy is being halted on a core. -/
def haltingOn (s : State) (b core : Nat) : Bool := ((s.blk? b).map (·.halting.contains core)).getD false

/-- The rows of a .G TST that are still to be written. A halt stops it behind the row in flight (R364 rule 3). -/
def tstRows (s : State) (b k m pc n p stride : Nat) (tr : Bool) : List Nat → State
  | [] => (s.modTile b k fun t => { t with rowp := none, rowBusy := false }).tileNext b k n
  | r :: rs =>
    match s.tile? b k with
    | none => s
    | some t =>
      let sh := t.shape m
      match s.writeAll (s.tileAgent b k) (.tile b k) ((t.slot m).bytes (r * shapeRow sh) (shapeRow sh)) (tileRow sh tr p stride r) with
      | (s, .bytes _) =>
        let s := (s.dropAnswers (.tile b k)).bump 9 2 t.core (shapeRow sh)
        if s.haltingOn b t.core && !rs.isEmpty then s.modTile b k fun t => { t with rowp := rs.head?, rowBusy := false }
        else s.tstRows b k m pc n p stride tr rs
      | (s, .wait) => s.modTile b k fun t => { t with rowp := some r, rowBusy := true }
      | (s, .fault code va br) =>
        let s := (s.dropAnswers (.tile b k)).modTile b k fun t => { t with rowp := none, rowBusy := false }
        if code = 0x12 then s.tileLease b k pc va br else (s.tileDefer b k pc va code).tileNext b k n

end State

def execTld (d : BitVec 4) (hnt : BitVec 2) (tr : Bool) (addr stride : Word) (s : State) : Ans :=
  tileForm s fun s b k x t pc n =>
    let (g, a) := t.tileAddr d.toNat addr
    let sh := t.shape d.toNat
    match tileCheck x sh tr g a stride.toNat with
    | some (code, va) => s.tldFault b k d.toNat pc va code
    | none =>
      let ls := tileLines sh tr a stride.toNat
      if g then
        match s.readParts { s.tileAgent b k with use := .ofHint hnt } (.tile b k) (ls.flatMap fun (p, m) => partsOf p m) with
        | (s, .bytes bs) => s.tldDone b k d.toNat n tr bs
        | (s, .wait) => s
        | (s, .fault code va br) => s.tldFault b k d.toNat pc va code br
      else s.tldDone b k d.toNat n tr (ls.flatMap fun (p, m) => x.scratch.bytes p m)

def execTst (a : BitVec 4) (tr : Bool) (addr stride : Word) (s : State) : Ans :=
  tileForm s fun s b k x t pc n =>
    let (g, p) := t.tileAddr a.toNat addr
    let sh := t.shape a.toNat
    match tileCheck x sh tr g p stride.toNat with
    | some (code, va) => s.tileRaise b k pc va code
    | none =>
      let ls := tileLines sh tr p stride.toNat
      if g then s.tstRows b k a.toNat pc n p stride.toNat tr ((List.range (shapeRows sh)).drop (t.rowp.getD 0))
      else
        let mem := ls.zipIdx.foldl (fun (m : Memory) ((q, _), c) => m.setBytes q (lineBytes (t.slot a.toNat) sh tr c)) x.scratch
        let s := (s.modBlk b fun x => { x with scratch := mem }).scaleUpdate b k ls
        (s.bump 9 2 t.core ((ls.map (·.2)).sum)).tileNext b k n

def execTzero (d : BitVec 4) (s : State) : Ans :=
  tileForm s fun s b k _ _ _ n => (s.modTile b k fun t => t.fill d.toNat fun _ => 0).tileNext b k n

def execTmov (d a : BitVec 4) (s : State) : Ans :=
  tileForm s fun s b k _ t _ n =>
    let m := t.slot a.toNat
    let e := shapeExtent (t.shape a.toNat)
    (s.modTile b k fun t => t.fill d.toNat fun i => if i < e then m.byte i else 0).tileNext b k n

/-! ### Barriers and the end (R342, R357, R359) -/

namespace State

/-- A copy raises its deferred record at an instruction (R357 rule 1). -/
def tileTakes (s : State) (b k : Nat) (d : Deferred) : State :=
  s.modTile b k fun t => { t with deferred := none, fault := some ⟨d.pc, d.va, d.code, d.count, true, false, false⟩ }

/-- An arrival of a copy: no release, no ASEQ (R357 rule 1). -/
def tileArrive (s : State) (b k n : Nat) : State :=
  let z := s.bar b n
  let s := s.modTile b k fun t => { t with stok := t.stok.set n z.ph }
  if z.cnt = 0 then s else (s.modBar b n fun z => { z with arr := z.arr - 1 }).checkPhase b n

/-- A TWAIT that nothing can end any more ends its block with COLLECTIVE_ABANDONED (R342 rule 1; 11 R304). -/
def tileAbandon (s : State) (b k pc : Nat) (x : Block) : State :=
  let f : Flt := ⟨0x25, 3, 4, 0, pc, pc, 0, 0, false, false⟩
  let (act, lvl) := containWalk (s.policy x) f 0 3 3
  let s := s.tileDeliver b k f act lvl
  if act = 2 && lvl == 4 then s.killGrid x.gridid false else if act = 2 && lvl == 5 then s.killStream x.stream
  else s.closeBlock b

/-- The publishes of the other cores' arrivals that a TWAIT still needs (R357 rule 2; 09 R271 rule 2). -/
def twaitNeeds (s : State) (x : Block) (core n : Nat) : List HemTag :=
  let z := x.nb.getD n Barrier.reset
  x.cores.zipIdx.filterMap fun (other, i) =>
    let t : HemTag := ⟨s.pkg.id, BitVec.ofNat 8 other, z.aseq.getD i 0, false⟩
    if other != core && !seqAbove t.seq (s.core other).rseq && s.tagLive core t then some t else none

end State

def execTarrive (n : BitVec 4) (s : State) : Ans :=
  tileForm s fun s b k _ t _ next =>
    match t.deferred with
    | some d => s.tileTakes b k d
    | none => (s.tileArrive b k n.toNat).tileNext b k next

def execTwait (n : BitVec 4) (s : State) : Ans :=
  tileForm s fun s b k x t pc next =>
    let z := s.bar b n.toNat
    if z.cnt = 0 ∨ z.ph = t.stok.getD n.toNat 0 then
      if x.groups.all (·.ended) && x.liveColls.isEmpty then s.tileAbandon b k pc x else s
    else
      let need := s.twaitNeeds x t.core n.toNat
      if need = [] then
        (s.modTile b k fun t => { t with stok := t.stok.set n.toNat z.ph, scale := [] }).tileNext b k next
      else need.foldl (fun s q => (s.pubObtain t.core q).1) s

def execTend (s : State) : Ans :=
  tileForm s fun s b k _ t _ n =>
    match t.deferred with
    | some d => s.tileTakes b k d
    | none => ((s.modTile b k fun t => { t with ended := true }).tileNext b k n).checkBlock b

/-! ### Transfers of control (R358) -/

namespace State

/-- A transfer to an address, where it is a legal target; the fault that it is not names that address (02 R42). -/
def tileJump (s : State) (b k pc : Nat) (t : Tile) (off : Word) (f : Tile → Tile) : State :=
  let addr : Int := (pc : Int) + 4 * signed32 off
  match t.target addr with
  | some spc => (s.modTile b k f).tileNext b k spc
  | none => s.tileRaise b k pc (wrapInt 64 addr) 0x03

end State

def execTloop (n : BitVec 2) (off trip : Word) (s : State) : Ans :=
  tileForm s fun s b k _ t pc next =>
    let r := 0x40 + n.toNat
    let c := t.ctlReg r + 1
    if c.toNat < max trip.toNat 1 then s.tileJump b k pc t off fun t => { t with ctl := putD 0 r c t.ctl }
    else (s.modTile b k fun t => { t with ctl := putD 0 r 0 t.ctl }).tileNext b k next

def execTbra (off : Word) (s : State) : Ans :=
  tileForm s fun s b k _ t pc _ => s.tileJump b k pc t off id

/-! ### Cuff links (R360, R361; 01 R27, R28) -/

/-- The cluster beyond a port: north, east, south, west (01 R27). -/
def cuffCluster (cl port : Nat) : Nat :=
  match port with
  | 0 => cl + 8
  | 1 => cl + 1
  | 2 => cl - 8
  | _ => cl - 1

namespace State

/-- The core at the other end of a channel, and its block; none where a TSEND or TRECV faults (R360). -/
def cuffPeer (s : State) (x : Block) (core port : Nat) : Option (Nat × Nat) :=
  let cl := core / 4
  let nb := cuffCluster cl port
  let peer := 4 * nb + core % 4
  if s.pkg.caps.cuffs.contains (4 * cl + port) && s.pkg.caps.cores.contains peer then
    match s.partBlock x nb with
    | some d => if ((s.blk? d).map (·.cores.contains peer)).getD false then some (d, peer) else none
    | none => none
  else none

/-- TSEND and TRECV as they issue: a fault, or the copy waits for its partner, whatever becomes of that (R342 rule 2, R361,
R364 rule 5). -/
def cuffWait (s : State) (b k pc : Nat) (x : Block) (t : Tile) (port : BitVec 2) (w : TWait) : State :=
  if t.wait = w then s
  else
    match s.cuffPeer x t.core port.toNat with
    | none => s.tileRaise b k pc 0 0x24
    | some _ => s.modTile b k fun t => { t with wait := w }

/-- The copy of a block on a core. -/
def copyOn (s : State) (b core : Nat) : Option (Nat × Tile) :=
  (s.blk? b).bind fun x => (x.tiles.zipIdx.find? fun (t, _) => t.core == core).map fun (t, k) => (k, t)

/-- The block whose copy runs on a core. -/
def blockOnCore (s : State) (core : Nat) : Option (Nat × Nat × Tile) :=
  s.blocks.findSome? fun (b, x) => (x.tiles.zipIdx.find? fun (t, _) => t.core == core).map fun (t, k) => (b, k, t)

/-- A pair of a channel completes: the sender's extent in the receiver's slot, cut or filled with zeros (R361). -/
def cuffDone (s : State) (core port : Nat) : State :=
  match s.blockOnCore core with
  | none => s
  | some (b, k, t) =>
    match t.wait, s.blk? b with
    | .send p a, some x =>
      if p.toNat ≠ port ∨ !s.tileReady b k then s
      else
        match (s.cuffPeer x core port).bind fun (d, peer) => (s.copyOn d peer).map fun (j, u) => (d, j, u) with
        | none => s
        | some (d, j, u) =>
          match u.wait with
          | .recv q m =>
            if q.toNat ≠ (port + 2) % 4 ∨ !s.tileReady d j then s
            else
              let src := t.slot a.toNat
              let e := shapeExtent (t.shape a.toNat)
              let s := s.modTile d j fun u => u.fill m.toNat fun i => if i < e then src.byte i else 0
              ((s.tileNext b k (t.framed t.spc).1).tileNext d j (u.framed u.spc).1).bump 9 3 core e
          | _ => s
    | _, _ => s

end State

def execTsend (port : BitVec 2) (a : BitVec 4) (s : State) : Ans :=
  tileForm s fun s b k x t pc _ => s.cuffWait b k pc x t port (.send port a)

def execTrecv (port : BitVec 2) (d : BitVec 4) (s : State) : Ans :=
  tileForm s fun s b k x t pc _ => s.cuffWait b k pc x t port (.recv port d)

/-- CUFF_TRANSFER_COMPLETE: the last beat that a core sends on a port is accepted. -/
def execCuffTransferComplete (core port : Nat) (s : State) : Ans := .next (s.cuffDone core port)

/-! ### The fetch of a stream (R340) -/

namespace State

/-- One line of a stream, through the translation engine of the block's cluster, under its ASID and lease. -/
def streamLine (s : State) (b : Nat) (x : Block) (core line : Nat) : State × Fetched :=
  let priv := x.asid == 0
  if 2 ^ 56 ≤ line then (s, .fault 0x10 false)
  else if !s.leaseOk b priv line 128 false then (s, .fault 0x12 false)
  else
    match s.translate x.cluster x.asid line (.fetch priv) with
    | (s, .fault c br) => (s, .fault c br)
    | (s, .drop) => (s, .wait)
    | (s, .ok e) =>
      let pa := e.phys line
      let (s, u) := s.fetchSec core (s.place e) pa
      let (s, v) := s.fetchSec core (s.place e) (pa + 64)
      match u, v with
      | .fault c, _ => (s, .fault c false)
      | _, .fault c => (s, .fault c false)
      | .data u, .data v => (s, .line (lineWords u v))
      | _, _ => (s, .wait)

/-- The lines of a stream in order: the first that faults decides, with its address; every line is asked for. -/
def streamLines (s : State) (b : Nat) (x : Block) (core : Nat) : List Nat → State × Fetched × Nat
  | [] => (s, .line [], 0)
  | l :: ls =>
    match s.streamLine b x core l with
    | (s, .fault c br) => (s, .fault c br, l)
    | (s, .wait) => ((s.streamLines b x core ls).1, .wait, l)
    | (s, .line ws) =>
      match s.streamLines b x core ls with
      | (s, .line ws', _) => (s, .line (ws ++ ws'), l)
      | r => r

/-- The stream of a block is fetched once and copied to every core of the block; a fault is one of the block, raised at
the stream's entry address. -/
def streamFetch (s : State) (b : Nat) : State :=
  match s.blk? b with
  | none => s
  | some x =>
    match x.tiles with
    | [] => s
    | t :: _ =>
      if !t.buf.isEmpty || t.fault.isSome || s.pkg.stopped then s
      else
        let drop (s : State) : State := { s with fab := { s.fab with
          unacked := s.fab.unacked.filter fun r => !(r.owner == .fetch t.core && r.result.isSome) } }
        match s.streamLines b x t.core ((List.range t.lines).map fun i => t.base + 128 * i) with
        | (s, .wait, _) => s
        | (s, .fault code br, line) => (drop s).tileFail b 0 x.fr.tsaddr line code br
        | (s, .line ws, _) =>
          let full (x : Block) : Block := { x with tiles := x.tiles.map fun u => { u with buf := ws } }
          ((drop s).modBlk b full).startBlocks

end State

/-- TILE_STREAM_FETCH. -/
def execTileStreamFetch (blk : Nat) (s : State) : Ans := .next (s.streamFetch blk)

/-! ### Faults of a copy (R362; 20 R497 to R499) -/

/-- TILE_FAULT: the fault of a copy is delivered to the trap unit of its core. -/
def execTileFault (blk copy : Nat) (s : State) : Ans :=
  .next (s.modTile blk copy fun t => { t with fault := t.fault.map fun f => { f with told := true } })

namespace State

/-- The containment of a copy's fault: an action at the block level or above. Ignore moves the copy on, but performs the
taker of a deferred record; a fault of the fetch is retried. -/
def tileContain (s : State) (b k : Nat) (x : Block) (t : Tile) (f : TFault) : State :=
  let fetch := t.buf.isEmpty
  let here := if fetch then f.pc else t.addr t.spc
  let g : Flt := ⟨f.code, 3, 3, f.aux, f.pc, f.pc, f.va, 0, f.broken, fetch⟩
  let tries := if t.retryPc = here then t.retries else 0
  let (act, lvl) := containWalk (s.policy x) g tries 3 3
  let s := s.tileDeliver b k g act lvl
  if act = 2 then
    (if lvl = 3 then s.closeBlock b else if lvl = 4 then s.killGrid x.gridid false else s.killStream x.stream)
  else if act = 1 ∨ fetch then
    s.modTile b k fun t => { t with fault := none, wait := .none, issued := false, retryPc := here, retries := tries + 1 }
  else if f.deferred then s.modTile b k fun t => { t with fault := none }
  else (s.modTile b k fun t => { t with fault := none }).tileNext b k (t.framed t.spc).1

end State

/-- FAULT_CONTAIN: the trap unit of a core contains the copy's fault that has been delivered to it. The faults of
threads are contained where they are raised (takeFault). -/
def execFaultContain (core : Nat) (s : State) : Ans :=
  .next (match s.blockOnCore core with
    | some (b, k, t) =>
      match t.fault, s.blk? b with
      | some f, some x => if f.told then s.tileContain b k x t f else s
      | _, _ => s
    | none => s)

end Sys2Proof.Machine
end

