-- ==== Sys2Proof/Machine/Matrix.lean ====
section
/-! DEFINITION. The matrix array: operand layouts and checks, shared scales, the products by the order of R98, the
element-wise forms, the end of a form (14 R367 to R383; 03 R98, R99). -/

namespace Sys2Proof.Machine

/-! ### Elements of a tile (R367; 03 R75) -/

/-- Element k of row r of a tile. -/
def elemAt (m : Memory) (sh : Nat) (f : Fmt) (r k : Nat) : Nat :=
  let w := elemBits f
  if w < 8 then (m.byte (r * shapeRow sh + k * w / 8)).toNat / 2 ^ (k * w % 8) % 2 ^ w
  else m.num (r * shapeRow sh + k * (w / 8)) (w / 8)

/-- Elements in a row of a shape, at a format. -/
def rowElems (sh : Nat) (f : Fmt) : Nat := shapeRow sh * 8 / elemBits f

/-- Byte i of packed elements of a format (03 R75). -/
def packByte (f : Fmt) (vals : List Nat) (i : Nat) : Byte :=
  let w := elemBits f
  if w < 8 then BitVec.ofNat 8 (vals.getD (2 * i) 0 + 16 * vals.getD (2 * i + 1) 0)
  else BitVec.ofNat 8 (vals.getD (i / (w / 8)) 0 / 256 ^ (i % (w / 8)))

/-- The operands of a form. -/
structure MForm where
  d : Nat
  a : Nat
  b : Nat
  c : Nat
  fa : Fmt
  fb : Fmt
  facc : Fmt
  acc : Bool
  scaled : Option Nat
  sparse : Bool
  deriving DecidableEq, Repr

/-- The product form of an instruction. -/
def mform? : Instr → Option MForm
  | .tmma d a b fa fb fc acc => some ⟨d.toNat, a.toNat, b.toNat, 0, fa, fb, fc, acc, none, false⟩
  | .tmmax d a b fa fb fc acc set => some ⟨d.toNat, a.toNat, b.toNat, 0, fa, fb, fc, acc, some set.toNat, false⟩
  | .tmmas d a b c fa fb fc acc => some ⟨d.toNat, a.toNat, b.toNat, c.toNat, fa, fb, fc, acc, none, true⟩
  | _ => none

namespace MForm

/-- M, N and K (R367). -/
def m (f : MForm) (t : Tile) : Nat := shapeRows (t.shape f.a)
def n (f : MForm) (t : Tile) : Nat := shapeRows (t.shape f.b)
def ka (f : MForm) (t : Tile) : Nat := rowElems (t.shape f.a) f.fa
def k (f : MForm) (t : Tile) : Nat := if f.sparse then 2 * f.ka t else f.ka t

/-- k-blocks of 32. -/
def blocks (f : MForm) (t : Tile) : Nat := (f.k t + 31) / 32

/-- The tile checks of R375. -/
def shapesOk (f : MForm) (t : Tile) : Bool :=
  let sh (i : Nat) := t.shape i
  shapeFmt (sh f.a) == some f.fa && shapeFmt (sh f.b) == some f.fb && rowElems (sh f.b) f.fb == f.k t
    && shapeFmt (sh f.d) == some f.facc && shapeRows (sh f.d) == f.m t
    && shapeRow (sh f.d) * 8 == f.n t * elemBits f.facc
    && (!f.sparse || (shapeFmt (sh f.c) == some Fmt.u8 && shapeRows (sh f.c) == f.m t
      && decide (f.k t ≤ 8 * shapeRow (sh f.c))))

end MForm

/-! ### Shared scales (R370 to R372) -/

/-- scale_addr (R371). -/
def Tile.scaleAddr (t : Tile) (j r kb w : Nat) : Nat :=
  let xsh := (t.ctlReg (0x28 + j)).toNat
  let ea := ((t.ctlReg (0x24 + j)).toNat + r * 16 * bitsOf xsh 31 8 + kb * 4 * w) % 2 ^ 32
  ((t.ctlReg (0x20 + j)).toNat + ea / 2 ^ bitsOf xsh 4 0) % 2 ^ 32

/-- The addresses of the scale bytes that a form uses. -/
def MForm.scales (f : MForm) (t : Tile) : List Nat :=
  match f.scaled with
  | none => []
  | some j =>
    (List.range (f.blocks t)).flatMap fun kb =>
      ((List.range (f.m t)).map fun r => t.scaleAddr j r kb (elemBits f.fa))
        ++ (List.range (f.n t)).map fun r => t.scaleAddr (Nat.xor j 1) r kb (elemBits f.fb)

/-- A scale byte through the cache (R372). -/
def scaleByte (x : Block) (t : Tile) (a : Nat) : Nat :=
  match find? (a / 64) t.scale with
  | some v => takeSec v.bytes (a % 64) 1
  | none => (x.scratch.byte a).toNat

/-- A line of the scratchpad enters the scale cache of 256 lines; a full cache first loses a line. -/
def Tile.scaleFill (x : Block) (t : Tile) (line : Nat) : Tile :=
  let old := if 256 ≤ t.scale.length then t.scale.drop 1 else t.scale
  { t with scale := put line ⟨x.scratch.sector line, none, false⟩ old }

/-! ### The products (R376 to R378; 03 R98, R99) -/

/-- The value of an element; SINT8 under shared scales is an MXINT8 element (03 R95). -/
def elemVal (mx : Bool) (f : Fmt) (x : Nat) : Val :=
  if mx && f == Fmt.s8 then
    let e := intOf 8 true x
    .num (decide (e < 0)) e.natAbs (-6) false
  else (fmtDecode f x false).1

/-- The exact sum of products (03 R99). -/
def exactSum : List Val → Val
  | [] => .zero false
  | v :: vs => vs.foldl (fun a w => (a.add false w).1) v

/-- The products of one element in one k-block, dense or by the metadata of a 2:4 sparse row (R376, R377). -/
def MForm.products (f : MForm) (t : Tile) (m n kb : Nat) : List Val :=
  let mx := f.scaled.isSome
  let av (k : Nat) : Val := elemVal mx f.fa (elemAt (t.slot f.a) (t.shape f.a) f.fa m k)
  let bv (k : Nat) : Val := elemVal mx f.fb (elemAt (t.slot f.b) (t.shape f.b) f.fb n k)
  if f.sparse then
    ((List.range 8).map (8 * kb + ·) |>.filter fun g => decide (4 * g < f.k t)).flatMap fun g =>
      let code := ((t.slot f.c).byte (m * shapeRow (t.shape f.c) + g / 2)).toNat / 16 ^ (g % 2) % 16
      [((av (2 * g)).mul (bv (4 * g + code % 4))).1, ((av (2 * g + 1)).mul (bv (4 * g + code / 4))).1]
  else ((List.range 32).map (32 * kb + ·) |>.filter fun k => decide (k < f.k t)).map fun k => ((av k).mul (bv k)).1

/-- The value of an E8M0 scale. -/
def e8m0 (x : Nat) : Val := (fmtDecode .e8m0 x false).1

/-- A value rounded to a format by RNE, a NaN canonical with sign 0 (R378; 03 R99). -/
def roundPlain (f : FSpec) (v : Val) : Nat :=
  match v with
  | .nan _ => f.enc false f.nanMag
  | v => (f.round v 1 false false 0).1

/-- One k-block added to an accumulator (03 R98). -/
def MForm.step (f : MForm) (x : Block) (t : Tile) (m n : Nat) (acc kb : Nat) : Nat :=
  let s := exactSum (f.products t m n kb)
  let s := match f.scaled with
    | none => s
    | some j =>
      let sa := e8m0 (scaleByte x t (t.scaleAddr j m kb (elemBits f.fa)))
      let sb := e8m0 (scaleByte x t (t.scaleAddr (Nat.xor j 1) n kb (elemBits f.fb)))
      ((s.mul sa).1.mul sb).1
  roundPlain fp32S ((fp32S.decode acc).add false s).1

/-- What an accumulator starts from. -/
def MForm.start (f : MForm) (t : Tile) (m n : Nat) : Nat :=
  if f.acc then roundPlain fp32S (fmtDecode f.facc (elemAt (t.slot f.d) (t.shape f.d) f.facc m n) false).1 else 0

/-- Every accumulator, row-major, after the k-blocks from k0 up to k1; partials are those at k0, where the form has been
resumed. -/
def MForm.run (f : MForm) (x : Block) (t : Tile) (partials : List Word) (k0 k1 : Nat) : List Word :=
  (List.range (f.m t * f.n t)).map fun e =>
    let m := e / f.n t
    let n := e % f.n t
    let a := if k0 = 0 then f.start t m n else (partials.getD e 0).toNat
    BitVec.ofNat 32 (((List.range (k1 - k0)).map (k0 + ·)).foldl (f.step x t m n) a)

/-- A result in the accumulator format (R378). -/
def toAcc (f : Fmt) (x : Word) : Nat :=
  match f, fmtSpec f with
  | .fp32, _ => x.toNat
  | _, some sp => roundPlain sp (fp32S.decode x.toNat)
  | _, none => x.toNat

/-! ### Element-wise forms (R373, R379) -/

/-- tile_sr_draw (R373). -/
def tileDraw (x : Block) (t : Tile) (e : Nat) : Nat :=
  let lc (n : Nat) : BitVec 64 := ((t.ctlReg (0x41 + n)) ++ (t.ctlReg (0x40 + n)) : BitVec 64)
  let key := lc 0 ^^^ rotl64 (lc 2) 17 ^^^ BitVec.ofNat 64 x.gridid
  let addr := BitVec.ofNat 64 (x.blkid * 2 ^ 32 + t.cidx * 2 ^ 16 + t.spc)
  (hrandMix key addr (BitVec.ofNat 32 e)).toNat % 2 ^ 24

/-- The destination, its format, its source shape and element e of an element-wise form. -/
def elemForm (x : Block) (t : Tile) : Instr → Option (Nat × Fmt × Nat × (Nat → Nat))
  | .tadd d a b f =>
    let sh := t.shape a.toNat
    let at_ (i : BitVec 4) (e : Nat) : Val :=
      (fmtDecode f (elemAt (t.slot i.toNat) sh f (e / rowElems sh f) (e % rowElems sh f)) false).1
    (fmtSpec f).map fun sp => (d.toNat, f, sh, fun e => (sp.round ((at_ a e).add false (at_ b e)).1 1 false false 0).1)
  | .tscale d a f rnd factor =>
    let sh := t.shape a.toNat
    let at_ (e : Nat) : Val :=
      (fmtDecode f (elemAt (t.slot a.toNat) sh f (e / rowElems sh f) (e % rowElems sh f)) false).1
    (fmtSpec f).map fun sp => (d.toNat, f, sh, fun e =>
      (sp.round ((at_ e).mul (fp32S.decode factor.toNat)).1 rnd.toNat false false (tileDraw x t e)).1)
  | .tcvt d a fd fs sat rnd =>
    let sh := t.shape a.toNat
    some (d.toNat, fd, sh, fun e =>
      (cvtElem fd fs (elemAt (t.slot a.toNat) sh fs (e / rowElems sh fs) (e % rowElems sh fs)) rnd.toNat
        sat false false (tileDraw x t e)).1)
  | _ => none

/-- The tile checks of an element-wise form (R375). -/
def elemShapesOk (t : Tile) : Instr → Bool
  | .tadd d a b f =>
    let same (i : BitVec 4) := shapeFmt (t.shape i.toNat) == some f
      && bitsOf (t.shape i.toNat) 15 0 == bitsOf (t.shape a.toNat) 15 0
    same a && same b && same d
  | .tscale d a f _ _ =>
    let same (i : BitVec 4) := shapeFmt (t.shape i.toNat) == some f
      && bitsOf (t.shape i.toNat) 15 0 == bitsOf (t.shape a.toNat) 15 0
    same a && same d
  | .tcvt d a fd fs _ _ =>
    let x := t.shape a.toNat
    let y := t.shape d.toNat
    shapeFmt x == some fs && shapeFmt y == some fd && shapeRows x == shapeRows y && rowElems y fd == rowElems x fs
  | _ => false

/-! ### Issue and the end of a form (R375, R376, R379, R383) -/

/-- The tiles that a form reads. -/
def formReads (i : Instr) : List Nat :=
  match mform? i with
  | some f => [f.a, f.b] ++ (if f.sparse then [f.c] else []) ++ if f.acc then [f.d] else []
  | none =>
    match i with
    | .tadd _ a b _ => [a.toNat, b.toNat]
    | .tscale _ a _ _ _ | .tcvt _ a _ _ _ _ => [a.toNat]
    | _ => []

/-- A form reads a byte, or a partial accumulator, with an error that ECC cannot correct (R375 rule 5). -/
def formBad (t : Tile) (i : Instr) : Bool :=
  t.bad.any fun (k, o) => k == 16 || (formReads i).contains k && decide (o < shapeExtent (t.shape k))

/-- The fault of a form at its issue by its shapes and its scale addresses (R375 rules 2 to 4). -/
def shapeFault (x : Block) (t : Tile) (i : Instr) : Option (BitVec 8 × Nat) :=
  match mform? i with
  | some f =>
    if !f.shapesOk t || (f.scaled.isSome && f.k t % 32 != 0) then some (0x02, 0)
    else (f.scales t).findSome? fun a => if x.fr.scratch ≤ a then some (0x09, a) else none
  | none => if elemShapesOk t i then none else some (0x02, 0)

/-- The fault of a form at its issue (R375 rules 2 to 5). -/
def matrixFault (x : Block) (t : Tile) (i : Instr) : Option (BitVec 8 × Nat) :=
  match shapeFault x t i with
  | some f => some f
  | none => if formBad t i then some (0x18, 0) else none

/-- A matrix or element-wise form issues: its faults, or the array takes it up. -/
def matrixForm (i : Instr) (s : State) : Ans :=
  if s.refuses then .next s
  else tileForm s fun s b k x t pc _ =>
    match t.wait with
    | .matrix _ _ => s
    | _ =>
      match matrixFault x t i with
      | some (code, va) => s.tileRaise b k pc va code
      | none => s.modTile b k fun t => { t with wait := .matrix i 0, partials := [] }

/-- Multiply-adds per cclk (R369). -/
def matrixRate (fa fb : Fmt) : Nat :=
  if fa = Fmt.e2m1 ∧ fb = Fmt.e2m1 then 32768 else if fa = Fmt.fp32 then 1024 else if elemBits fa = 16 then 8192 else 16384

/-- The form in flight of a copy writes its destination tile. -/
def formDone (x : Block) (t : Tile) (i : Instr) (k0 : Nat) : Tile :=
  match mform? i with
  | some f =>
    let vals := (f.run x t t.partials k0 (f.blocks t)).map (toAcc f.facc)
    t.fill f.d (packByte f.facc vals)
  | none =>
    match elemForm x t i with
    | some (d, fd, _, el) =>
      let n := shapeExtent (t.shape d) * 8 / elemBits fd
      t.fill d (packByte fd ((List.range n).map el))
    | none => t

/-- The products of k-blocks k0 and later, and those of one whole k-block (R369; 03 R98). -/
def MForm.work (f : MForm) (t : Tile) (k0 : Nat) : Nat × Nat :=
  let step := if f.sparse then 16 else 32
  (f.m t * f.n t * (f.ka t - k0 * step), f.m t * f.n t * step)

/-- The cclk for which products occupy the array (R369). -/
def MForm.busy (f : MForm) (p : Nat) : Nat := (p + matrixRate f.fa f.fb - 1) / matrixRate f.fa f.fb

/-- The products of a form from k-block k0 on, and the cclk for which it occupies the array (R369). -/
def formWork (t : Tile) (i : Instr) (k0 : Nat) : Nat × Nat :=
  match mform? i with
  | some f => ((f.work t k0).1, f.busy (f.work t k0).1)
  | none => (0, match i with
    | .tadd d _ _ f | .tscale d _ f _ _ => (shapeExtent (t.shape d.toNat) * 8 / elemBits f + 1023) / 1024
    | .tcvt d _ f _ _ _ => (shapeExtent (t.shape d.toNat) * 8 / elemBits f + 1023) / 1024
    | _ => 0)

/-- The lines of the scale cache that a form has read. -/
def usedLines (x : Block) (t : Tile) (i : Instr) : Tile :=
  match mform? i with
  | some f => ((f.scales t).map (· / 64)).eraseDups.foldl (fun u l =>
      if (find? l u.scale).isSome || 256 ≤ u.scale.length then u else u.scaleFill x l) t
  | none => t

namespace State

/-- Multiply-adds performed, which MXA_MACS counts in units of 1,024, and the cclk that they took (R383). -/
def addWork (s : State) (core macs busy : Nat) : State :=
  let n := (s.core core).macs + macs
  ((s.modCore core fun c => { c with macs := n % 1024 }).bump 10 1 core (n / 1024)).bump 10 2 core busy

/-- The form in flight of a copy completes, or faults where it has read an error (R375 rule 5). -/
def matrixDone (s : State) (b k : Nat) : State :=
  match s.blk? b, s.tile? b k with
  | some x, some t =>
    match t.wait with
    | .matrix i k0 =>
      if !s.tileReady b k then s
      else if formBad t i then
        (s.modTile b k fun u => { u with wait := .none, partials := [], bad := u.bad.filter (·.1 != 16) }).tileRaise b k
          (t.addr t.spc) 0 0x18
      else
        let u := formDone x t i k0
        let (macs, busy) := formWork t i k0
        let s := s.modTile b k fun _ => { usedLines x u i with partials := [] }
        let s := s.tileNext b k (t.framed t.spc).1
        (s.bump 10 0 t.core 1).addWork t.core macs busy
    | _ => s
  | _, _ => s

/-- A miss of a form's scale reads fills a line. -/
def scaleMiss (s : State) (b k line : Nat) : State :=
  match s.blk? b, s.tile? b k with
  | some x, some t =>
    match t.wait with
    | .matrix i _ =>
      if s.tileReady b k && ((mform? i).map fun f => (f.scales t).any (· / 64 == line)).getD false
          && (find? line t.scale).isNone then s.modTile b k fun t => t.scaleFill x line else s
    | _ => s
  | _, _ => s

end State

/-- MATRIX_FORM_COMPLETE. -/
def execMatrixFormComplete (blk copy : Nat) (s : State) : Ans := .next (s.matrixDone blk copy)

/-- SCALE_CACHE_FILL. -/
def execScaleCacheFill (blk copy line : Nat) (s : State) : Ans := .next (s.scaleMiss blk copy line)

def execTmma (d a b : BitVec 4) (fa fb facc : Fmt) (acc : Bool) (s : State) : Ans :=
  matrixForm (.tmma d a b fa fb facc acc) s

def execTmmax (d a b : BitVec 4) (fa fb facc : Fmt) (acc : Bool) (set : BitVec 2) (s : State) : Ans :=
  matrixForm (.tmmax d a b fa fb facc acc set) s

def execTmmas (d a b c : BitVec 4) (fa fb facc : Fmt) (acc : Bool) (s : State) : Ans :=
  matrixForm (.tmmas d a b c fa fb facc acc) s

def execTadd (d a b : BitVec 4) (f : Fmt) (s : State) : Ans := matrixForm (.tadd d a b f) s

def execTscale (d a : BitVec 4) (f : Fmt) (rnd : BitVec 3) (factor : Word) (s : State) : Ans :=
  matrixForm (.tscale d a f rnd factor) s

def execTcvt (d a : BitVec 4) (fd fs : Fmt) (sat : Bool) (rnd : BitVec 3) (s : State) : Ans :=
  matrixForm (.tcvt d a fd fs sat rnd) s

end Sys2Proof.Machine
end

