-- ==== Sys2Proof/Machine/Mesh.lean ====
section
/-! DEFINITION. The mesh: routes, buffer counts, and the two events of a router (01 R17 to R26). -/

namespace Sys2Proof.Machine

/-- The input ports of a router, in the order of R25: local, Z, X−, X+, Y−, Y+. -/
def portLocal : Nat := 0
def portZ : Nat := 1
def portXm : Nat := 2
def portXp : Nat := 3
def portYm : Nat := 4
def portYp : Nat := 5

/-- The router that an output port of a router leads to. -/
def neighbour (r port : Nat) : Nat :=
  if port = portZ then (if r < 64 then r + 64 else r - 64)
  else if port = portXm then r - 1
  else if port = portXp then r + 1
  else if port = portYm then r - 8
  else if port = portYp then r + 8
  else r

/-- The input port at which a flit sent by an output port arrives. -/
def arrivalPort (port : Nat) : Nat :=
  if port = portXm then portXp else if port = portXp then portXm
  else if port = portYm then portYp else if port = portYp then portYm else port

/-- The output ports that reduce the distance, in the order Z, X, Y (R24). -/
def productive (r dst : Nat) : List Nat :=
  (if r / 64 != dst / 64 then [portZ] else [])
    ++ (if r % 8 < dst % 8 then [portXp] else if dst % 8 < r % 8 then [portXm] else [])
    ++ (if r / 8 % 8 < dst / 8 % 8 then [portYp] else if dst / 8 % 8 < r / 8 % 8 then [portYm] else [])

/-- A message class as a number. -/
def classNum : MsgClass → Nat
  | .request => 0 | .forward => 1 | .response => 2 | .data => 3 | .writeback => 4 | .bridge => 5

/-- The key of an output virtual channel of a router. -/
def channelKey (r port : Nat) (cls : MsgClass) (esc : Bool) : Nat :=
  ((r * 8 + port) * 6 + classNum cls) * 2 + (if esc then 1 else 0)

/-- Flit buffers of a virtual channel (R23). -/
def channelBuffers (esc : Bool) : Nat := if esc then 4 else 8

namespace State

/-- Free downstream buffers of an output channel, as its router counts them. The table holds the buffers in use. -/
def freeBuffers (s : State) (r port : Nat) (cls : MsgClass) (esc : Bool) : Nat :=
  channelBuffers esc - getD 0 s.credits (channelKey r port cls esc)

/-- The output a head flit asks for: its port and whether on the escape channel; none where it must wait (R24). -/
def routeOf (s : State) (f : Flit) : Option (Nat × Bool) :=
  let ps := productive f.at_ f.dst
  let best := ps.foldl (fun acc p =>
    let n := s.freeBuffers f.at_ p f.cls false
    match acc with
    | some (_, m) => if m < n then some (p, n) else acc
    | none => if 0 < n then some (p, n) else none) (none : Option (Nat × Nat))
  match (if f.esc then none else best) with
  | some (p, _) => some (p, false)
  | none =>
    match ps with
    | p :: _ => if 0 < s.freeBuffers f.at_ p f.cls true then some (p, true) else none
    | [] => none

end State

namespace State

/-- The number of the packet that holds an output channel of a router, plus one; 0 where none does (R21). -/
def holder (s : State) (k : Nat) : Nat := getD 0 s.vcs k

/-- The flit of its packet before this one has left this router (R21). -/
def leads (s : State) (f : Flit) : Bool := !s.flits.any fun g => g.pkt == f.pkt && g.at_ == f.at_ && decide (g.idx < f.idx)

/-- The output channel of a router that a packet holds: its port and whether it is the escape channel. -/
def heldBy (s : State) (r : Nat) (cls : MsgClass) (pkt : Nat) : Option (Nat × Bool) :=
  [1, 2, 3, 4, 5].findSome? fun p => [false, true].findSome? fun esc =>
    if s.holder (channelKey r p cls esc) = pkt + 1 then some (p, esc) else none

/-- The output by which a flit can leave a router now: a header by the channel that its route asks for, where no packet
holds it; a payload flit behind the flit before it, by the channel that its packet holds, where that has a free buffer
(R21, R23, R24). -/
def exitOf (s : State) (f : Flit) : Option (Nat × Bool) :=
  if f.idx = 0 then (s.routeOf f).filter fun (p, esc) => s.holder (channelKey f.at_ p f.cls esc) == 0
  else if s.leads f then
    (s.heldBy f.at_ f.cls f.pkt).filter fun (p, esc) => decide (0 < s.freeBuffers f.at_ p f.cls esc)
  else none

/-- A flit has reached its destination, and those of its packet before it have been sunk there. -/
def sinks (s : State) (f : Flit) : Bool :=
  f.at_ == f.dst && !s.flits.any fun g => g.pkt == f.pkt && decide (g.idx < f.idx)

/-- A flit moves by an output channel: a buffer is taken; the packet holds the channel from its header to its tail. -/
def flitOut (s : State) (f : Flit) (p : Nat) (esc : Bool) : State :=
  let k := channelKey f.at_ p f.cls esc
  { s with
    credits := putD 0 k (getD 0 s.credits k + 1) s.credits
    vcs := putD 0 k (if f.idx = f.len then 0 else f.pkt + 1) s.vcs
    flits := s.flits.erase f ++ [{ f with at_ := neighbour f.at_ p, esc := esc, inPort := arrivalPort p }] }

end State

/-- A flit is granted before another (R25). -/
def Flit.older (f g : Flit) : Bool := f.inj < g.inj || (f.inj == g.inj && f.inPort ≤ g.inPort)

/-- The flit that a router forwards among those that can move. -/
def pickFlit (fs : List Flit) : Option Flit :=
  fs.foldl (fun acc f => match acc with
    | some g => if g.older f then some g else some f
    | none => some f) none

/-- ROUTE_HEAD_FLIT: the oldest flit of a class that can leave a router does, one that has arrived at its destination's
router being sunk there, whatever its receiver waits for (R21, R22, R24, R25). A payload flit follows its header by the same
event. -/
def execRouteHeadFlit (router : Nat) (cls : MsgClass) (s : State) : Ans :=
  let here := s.flits.filter fun f => f.at_ == router && f.cls == cls
  .next (match pickFlit (here.filter fun f => s.sinks f || (f.at_ != f.dst && (s.exitOf f).isSome)) with
    | none => s
    | some f =>
      if f.at_ = f.dst then { s with flits := s.flits.erase f }
      else
        match s.exitOf f with
        | none => s
        | some (p, esc) => s.flitOut f p esc)

/-- CREDIT_RETURN: a buffer that the downstream router has freed is counted as free again (R23). -/
def execCreditReturn (router port : Nat) (cls : MsgClass) (esc : Bool) (s : State) : Ans :=
  let k := channelKey router port cls esc
  let used := getD 0 s.credits k
  let held := s.flits.countP fun f =>
    f.at_ == neighbour router port && f.inPort == arrivalPort port && f.cls == cls && f.esc == esc
  .next (if held < used then { s with credits := putD 0 k (used - 1) s.credits } else s)

end Sys2Proof.Machine
end

