-- ==== Sys2Proof/Machine/Trap.lean ====
section
/-! DEFINITION. The trap unit: TRAP, ERET and HALT, the halt of a core, the save of a block and its restore (20 R499 to
R514; 11 R325, R326; 13 R364; 15 R404; 19 R477, R485). -/

namespace Sys2Proof.Machine

/-! ### TRAP, ERET, HALT (R510, R514) -/

def execTrap (g : Guard) (n : BitVec 8) (s : State) : Ans :=
  issue (.trap g n) g s noOwn fun s c gt => if gt = [] then s else s.raiseAll c gt 0x30 n.toNat c.npc

/-- ERET in one thread: the return, and the replay records that the handler's entry kept (06 R549). -/
def State.eretLane (s : State) (c : Cur) (l : Nat) : State :=
  match s.thr? c.blk c.grp l with
  | none => s
  | some t =>
    ((s.modThr c.blk c.grp l fun t => { t with replay := [] }).returnFrom c.blk c.grp l).reissueAll c.blk c.grp l t.replay

def execEret (g : Guard) (s : State) : Ans :=
  issue (.eret g) g s noOwn fun s c gt => gt.foldl (fun s l => s.eretLane c l) s

def execHalt (g : Guard) (s : State) : Ans :=
  issue (.halt g) g s
    (fun s c l => match s.loadsChk c l with
      | .pass => (match s.fenceRel c l with
        | (s, .pass) => s.fenceAcq c l
        | r => r)
      | k => (s, k))
    fun s c gt =>
      if gt = [] then s
      else
        let stop (t : Thread) : Thread := if t.exited then t else { t with halted := true }
        (s.clearMet c gt).modGrp c.blk c.grp fun y => { y with threads := y.threads.map stop }

/-- A write of TRP_RELEASE (R513): the group at a position continues after its HALT. -/
def State.trpRelease (s : State) (v : Word) : State :=
  let x := v.toNat
  let go (y : Group) : Group :=
    if !y.ended ∧ y.core = x % 256 ∧ y.quad = x / 256 % 4 ∧ y.slot = x / 1024 % 16 then
      { y with threads := y.threads.map fun t => { t with halted := false } } else y
  let blk (b : Block) : Block := { b with groups := b.groups.map go }
  if v.getLsbD 31 then { s with blocks := s.blocks.map fun (k, b) => (k, blk b) } else s

/-- TRP_RELEASE. -/
def execTrpRelease (v : Word) (s : State) : Ans := .next (s.trpRelease v)

/-! ### The halt of a core (R502) -/

namespace State

/-- What a wait instruction that is abandoned left in its thread, and a hold, end (R502 rule 6; 19 R485 rule 3). -/
def unhold (s : State) (b g : Nat) : State :=
  let clear (t : Thread) : Thread :=
    { t with hold := none, maint := none, published := false, shot := false, metFault := none }
  let s := s.modGrp b g fun y => { y with threads := y.threads.map clear }
  let drop (h : Shoot) : Shoot :=
    match h.asker with
    | some (b', g', _) => if b' = b ∧ g' = g then { h with asker := none } else h
    | none => h
  { s with xlt := { s.xlt with shoot := s.xlt.shoot.map drop } }

/-- The returning accesses of a thread to be saved become replay records; a lane of an atomic that has been sent
completes, and its record takes the old value at the save (15 R404 rule 4). -/
def saveThread (s : State) (b g l : Nat) : State :=
  let mine := s.accs.filter fun a => a.blk == b && a.grp == g
  let sent (id : Nat) : Bool := mine.any fun a => a.id == id && s.laneSent a l
  let recs := mine.flatMap fun a => a.lanes.filterMap fun z => if z.lane = l then some (a.record z) else none
  let s := s.modThr b g l fun t => { t with replay := t.replay ++ recs }
  let keep (e : StEntry) : StEntry :=
    match e.acc with
    | some id => if sent id then e else { e with lanes := e.lanes.filter (·.lane != l) }
    | none => e
  let s := s.modGrp b g fun y => { y with storeQ := (y.storeQ.map keep).filter fun e => e.lanes != [] }
  let cut (a : Acc) : Acc :=
    if a.blk = b ∧ a.grp = g ∧ !sent a.id then { a with lanes := a.lanes.filter (·.lane != l) } else a
  { s with accs := (s.accs.map cut).filter fun a => a.lanes != [] }

/-- The returning accesses of a thread of another block become replay records and are issued again at once; beside a
lane that has been sent they go on, as accesses that later instructions have passed. -/
def replayNow (s : State) (b g l : Nat) : State :=
  let mine := s.accs.filter fun a => a.blk == b && a.grp == g && a.lanes.any (·.lane == l)
  let pass (a : Acc) : Acc :=
    if mine.any (·.id == a.id) then { a with late := a.late ||| (a.group &&& (1#32 <<< l)) } else a
  if mine.any fun a => s.laneSent a l then { s with accs := s.accs.map pass }
  else
    let kept := ((s.thr? b g l).map (·.replay.length)).getD 0
    let s := s.toReplay b g l
    let new := (((s.thr? b g l).map (·.replay)).getD []).drop kept
    (s.modThr b g l fun t => { t with replay := t.replay.take kept }).reissueAll b g l new

/-- Rules 1, 3 and 6 of R502 in one group: basting, transactions, waits and returning accesses. -/
def haltGroup (s : State) (b g : Nat) (saved : Bool) : State :=
  let s := s.bastingRestore b g
  let s := (List.range 32).foldl (fun s l => s.abortTxn b g l 0x16 0 0) s
  let s := s.unhold b g
  (List.range 32).foldl (fun s l => if saved then s.saveThread b g l else s.replayNow b g l) s

/-- The slices of CPY that stop at the halt of a block, with those that are fix-up entries already (11 R325 rule 4): one
with more than 4,096 bytes left; and, since R312 orders it behind what will not be performed before the save, or R307 rule 1
behind a load that is abandoned, one that stands behind such a slice or an unsupplied one in the address order, and one
whose group has such a load (DEDUCED, assumption log 44). -/
def stopSlices (s : State) (b : Nat) (x : Block) : List (Coll × Slice) :=
  let all := x.colls.flatMap fun k => (List.range x.groups.length).filterMap fun g =>
    (k.slices.find? (·.grp == g)).map fun z => (k, z)
  all.foldl (fun acc (k, z) =>
    let ordered : Bool := (k.bar.map fun n => decide (n.toNat < 8)).getD false
    let behind : Bool := ordered && (acc.any (fun (j, _) => j.bar == k.bar)
      || x.colls.any (fun j => j.bar == k.bar && decide (j.num < k.num) && (List.range x.groups.length).any j.lacks)
      || (List.range z.grp).any k.lacks)
    let loads : Bool := s.accs.any fun a => a.blk == b && a.grp == z.grp && decide (a.seq < z.seq) && a.lanes.any (·.st.open_)
    if z.fixed || (!k.multi && !z.done && (decide (4096 < z.rem) || behind || loads)) then acc ++ [(k, z)] else acc) []

/-- The entry of a stopped slice. -/
def fixupOf (k : Coll) (z : Slice) : Fixup :=
  ⟨z.dspc, z.sspc, z.daddr, z.saddr, z.rem, k.bar, z.dist, z.hnt, z.grp, z.lane, k.num⟩

/-- The copy engine at the halt of a block (11 R325). -/
def haltCopies (s : State) (b : Nat) : State :=
  match s.blk? b with
  | none => s
  | some x =>
    let st := (s.stopSlices b x).filter fun (_, z) => !z.fixed
    let s := st.foldl (fun s (k, z) => s.modSlice b k.num z.grp fun z => { z with fixed := true }) s
    (s.modBlk b fun x => { x with fixups := x.fixups ++ st.map fun (k, z) => fixupOf k z }).bump 7 3 x.cluster st.length

/-- FPUT and FGET of a thread send nothing further: their unsent remainders become resumption records (15 R404
rule 1). -/
def haltBulks (s : State) (b : Nat) (gs : List Nat) : State :=
  (s.fab.bulks.filter fun k => k.blk == b && gs.contains k.grp && k.kind != 2 && k.rem != 0).foldl (fun s k =>
    let r : Resume := ⟨k.kind == 1, k.daddr, k.saddr, k.rem, k.batch⟩
    ((s.modThr b k.grp k.lane fun t => { t with resume := t.resume ++ [r] }).modBulk k.id fun k =>
      { k with rem := 0 }).bulkFinish k.id) s

/-- A tile copy reaches its stopping point (13 R364; 14 R381): a product form stops at a k-block boundary, the products of the
k-block in progress being discarded and counted; an element-wise form is abandoned, and so are a load and a pair of a cuff
link. A store keeps its row. -/
def haltTile (s : State) (b k : Nat) : State :=
  match s.blk? b, s.tile? b k with
  | some x, some t =>
    match t.wait with
    | .matrix i k0 =>
      (match mform? i with
      | some f =>
        let (all, block) := f.work t k0
        let done := Config.matrixProgress s.now % all
        let k1 := k0 + done / block
        (s.modTile b k fun u => { u with partials := f.run x t t.partials k0 k1, wait := .matrix i k1 }).addWork t.core done
          (f.busy done)
      | none =>
        (s.modTile b k fun u => { u with wait := .none, issued := false }).addWork t.core 0
          (Config.matrixProgress s.now % (formWork t i 0).2))
    | _ => s.modTile b k fun u => { u with wait := .none, issued := u.rowp.isSome }
  | _, _ => s

/-- The arbiter of a core accepts the halt of a block. -/
def haltAccept (s : State) (core : Nat) : State :=
  match (s.core core).haltReq with
  | none => s
  | some b =>
    if s.pkg.stopped then s
    else
      let s := s.modCore core fun c => { c with haltReq := none }
      match s.blk? b with
      | none => s
      | some x =>
        let s := s.bump 16 2 core 1
        let s := if x.halting = [] then s.haltCopies b else s
        let s := s.modBlk b fun x => { x with halting := x.halting ++ [core] }
        let gs := s.blocks.flatMap fun (b', y) => y.groups.zipIdx.filterMap fun (y, g) =>
          if y.core = core ∧ !y.ended then some (b', g) else none
        let s := gs.foldl (fun s (b', g) => s.haltGroup b' g (b' == b)) s
        let s := s.haltBulks b ((gs.filter fun (b', _) => b' == b).map (·.2))
        match s.copyOn b core with
        | some (k, _) => s.haltTile b k
        | none => s

end State

/-- HALT_ACCEPT. -/
def execHaltAccept (core : Nat) (s : State) : Ans := .next (s.haltAccept core)

/-! ### The records of a save slot (R504, R506, R507; 11 R318, R325; 13 R364; 15 R404) -/

/-- A record of n bytes from its fields (offset, bytes, value); what no field holds is zero. -/
def recordBytes (n : Nat) (fs : List (Nat × Nat × Nat)) : List Byte :=
  toBytes n (fs.foldl (fun x (o, w, v) => x + v % 2 ^ (8 * w) * 2 ^ (8 * o)) 0)

/-- Fields of a list of words from an offset. -/
def wordFields (o : Nat) (ws : List Word) : List (Nat × Nat × Nat) := ws.zipIdx.map fun (x, i) => (o + 4 * i, 4, x.toNat)

/-- The state of a named barrier (11 R318). -/
def barNum (z : Barrier) : Nat :=
  z.ph.toNat + z.cnt % 512 * 2 ^ 32 + z.arr % 512 * 2 ^ 41 + wrapInt 40 z.txb * 2 ^ 64 + z.eb.toNat * 2 ^ 128
    + (z.aseq.zipIdx.map fun (w, i) => w.toNat * 2 ^ (192 + 32 * i)).sum

def barOf (x : Nat) (aseq : List Word) : Barrier where
  ph := BitVec.ofNat 32 x
  cnt := bitsOf x 40 32
  arr := bitsOf x 49 41
  txb := intOf 40 true (bitsOf x 103 64)
  eb := BitVec.ofNat 32 (bitsOf x 159 128)
  aseq := aseq

/-- A space's code of a fix-up entry; the reserved code reads as .G. -/
def spcNum (p : Spc) : Nat := p.code.toNat

def spcAt (n : Nat) : Spc := (spcOf (BitVec.ofNat 2 n)).getD .g

def fixNum (f : Fixup) : Nat :=
  f.daddr % 2 ^ 56 + f.saddr % 2 ^ 56 * 2 ^ 64 + f.rem % 2 ^ 32 * 2 ^ 128 + spcNum f.dspc * 2 ^ 160
    + spcNum f.sspc * 2 ^ 162 + (match f.bar with
      | some n => n.toNat * 2 ^ 164 + 2 ^ 168
      | none => 0)
    + f.dist.toNat * 2 ^ 176 + f.hnt.toNat * 2 ^ 192 + f.grp * 2 ^ 200 + f.lane * 2 ^ 208 + f.coll % 2 ^ 32 * 2 ^ 224

def fixOf (x : Nat) : Fixup where
  dspc := spcAt (bitsOf x 161 160)
  sspc := spcAt (bitsOf x 163 162)
  daddr := bitsOf x 55 0
  saddr := bitsOf x 119 64
  rem := bitsOf x 159 128
  bar := if bitOf x 168 then some (BitVec.ofNat 4 (bitsOf x 167 164)) else none
  dist := BitVec.ofNat 16 (bitsOf x 191 176)
  hnt := BitVec.ofNat 2 (bitsOf x 193 192)
  grp := bitsOf x 206 200
  lane := bitsOf x 212 208
  coll := bitsOf x 255 224

def resumeNum (r : Resume) (lane : Nat) : Nat :=
  r.daddr % 2 ^ 56 + r.saddr % 2 ^ 56 * 2 ^ 64 + r.rem % 2 ^ 32 * 2 ^ 128 + (if r.get then 2 ^ 160 else 0)
    + r.batch.toNat * 2 ^ 192 + lane * 2 ^ 224

def resumeOf (x : Nat) : Resume := ⟨bitOf x 160, bitsOf x 55 0, bitsOf x 119 64, bitsOf x 159 128, BitVec.ofNat 32 (bitsOf x 223 192)⟩

def RKind.num : RKind → Nat
  | .load => 0 | .ldw => 1 | .acquire => 2 | .atomic => 3 | .waitmem => 4 | .fatomDone => 5

def rkindOf : Nat → Option RKind
  | 0 => some .load | 1 => some .ldw | 2 => some .acquire | 3 => some .atomic | 4 => some .waitmem
  | 5 => some .fatomDone | _ => none

/-- The fields of a replay record at an offset. -/
def replayFields (o : Nat) (r : Replay) : List (Nat × Nat × Nat) :=
  let w := (encodeRaw r.ins).getD (Hd.raw ⟨⟨0xFF, 0, 0, 0⟩, .l64⟩ 0 0 0 0 0 0 0)
  [(o, 8, r.pc), (o + 8, 8, r.va), (o + 16, 1, r.kind.num), (o + 17, 1, w.opc.toNat), (o + 18, 1, w.fn.toNat),
   (o + 19, 1, w.mod.toNat), (o + 20, 1, w.dst.toNat), (o + 32, 16, r.b.toNat), (o + 48, 16, r.c.toNat)]

/-- A replay record from its 64 bytes: its instruction is that of its opcode, FN, MOD and DST. -/
def replayOf (x : Nat) : Option Replay :=
  let raw := Hd.raw ⟨⟨0xFF, 0, 0, 0⟩, .l64⟩ (BitVec.ofNat 8 (bitsOf x 143 136)) (BitVec.ofNat 8 (bitsOf x 151 144))
    (BitVec.ofNat 5 (bitsOf x 156 152)) (BitVec.ofNat 8 (bitsOf x 167 160)) 0 0 0
  match rkindOf (bitsOf x 135 128), decodeRaw raw with
  | some k, .ok i => some ⟨none, bitsOf x 63 0, bitsOf x 127 64, k, i, BitVec.ofNat 128 (bitsOf x 383 256),
      BitVec.ofNat 128 (bitsOf x 511 384)⟩
  | _, _ => none

def deferredFields (o : Nat) (d : Option Deferred) : List (Nat × Nat × Nat) :=
  match d with
  | some d => [(o, 8, d.pc), (o + 8, 8, d.va), (o + 16, 1, d.code.toNat), (o + 17, 1, d.count)]
  | none => []

/-- A deferred record from its bytes; CODE 0 stands for none. -/
def deferredOf (x : Nat) : Option Deferred :=
  if bitsOf x 135 128 = 0 then none
  else some ⟨bitsOf x 63 0, bitsOf x 127 64, BitVec.ofNat 8 (bitsOf x 135 128), bitsOf x 143 136⟩

/-- A met-tag slot (09 R256). -/
def metNum (m : HemTag) : Nat :=
  m.pkg.toNat + m.core.toNat * 2 ^ 10 + m.seq.toNat * 2 ^ 18 + 2 ^ 50 + (if m.lost then 2 ^ 51 else 0)

def metOf (x : Nat) : Option HemTag :=
  if bitOf x 50 then some ⟨BitVec.ofNat 10 x, BitVec.ofNat 8 (x / 2 ^ 10), BitVec.ofNat 32 (x / 2 ^ 18), bitOf x 51⟩ else none

/-- The thread record (R507). -/
def threadBytes (t : Thread) (lane : Nat) : List Byte :=
  let flags := (if t.exited then 1 else 0) + (if t.priv then 2 else 0) + (if t.halted then 4 else 0) + (if t.off then 8 else 0)
  recordBytes 0x400 ([(0, 8, t.pc), (8, 2, t.retained), (0xA, 1, t.v.length), (0xB, 1, t.live),
      (0xC, 1, t.p.toNat % 2 ^ t.live), (0xD, 1, flags), (0xE, 1, if t.retryPc = t.pc then t.retries else 0),
      (0xF, 1, t.links.length), (0x10, 4, t.depth), (0x14, 4, t.sdcnt.toNat), (0x18, 8, t.spill), (0x20, 8, t.epc),
      (0x28, 4, t.ob.toNat), (0x2C, 1, t.seals.length)]
    ++ wordFields 0x30 t.seals
    ++ t.met.zipIdx.map (fun (m, i) => (0x50 + 8 * i, 8, metNum m))
    ++ deferredFields 0x80 t.deferred
    ++ t.links.zipIdx.map (fun (f, i) => (0xA0 + 16 * i, 16, linkWord f))
    ++ wordFields 0x120 t.frec
    ++ (t.resume.take 4).zipIdx.map (fun (r, i) => (0x160 + 32 * i, 32, resumeNum r lane))
    ++ [(0x1E0, 1, min 8 t.replay.length), (0x1E1, 1, min 4 t.resume.length)]
    ++ (t.replay.take 8).zipIdx.flatMap (fun (r, i) => replayFields (0x200 + 64 * i) r))

/-- The allotment slots of a thread that are in use: the retained frames, then the window. -/
def allotWords (t : Thread) : List Word := (t.links.flatMap fun f => f.saved ++ List.replicate (f.k - f.saved.length) 0) ++ t.v

/-- The group record. -/
def groupBytes (y : Group) : List Byte :=
  recordBytes 0x400 (wordFields 0 y.s
    ++ [(0x100, 4, y.fpmode.toNat), (0x104, 4, y.fpstat.toNat), (0x108, 4, y.lanefault.toNat), (0x10C, 4, y.cc.toNat),
      (0x110, 4, if y.bastOn then 1 else 0), (0x114, 4, y.bastTh), (0x118, 1, y.fav.getD 0xFF)]
    ++ wordFields 0x120 y.tok
    ++ [(0x160, 4, y.pmask.toNat), (0x168, 8, y.pmaskPc)]
    ++ y.olds.zipIdx.map (fun (v, i) => (0x200 + 16 * i, 16, v.toNat)))

/-- The tile status of a copy (13 R364). -/
def tileStatus (t : Tile) : Nat :=
  t.spc % 2 ^ 11 + (if t.ended then 2 ^ 11 else 0) + (if t.fault.isSome then 2 ^ 12 else 0)
    + (match t.wait with
      | .matrix _ k => 2 ^ 13 + k % 2 ^ 16 * 2 ^ 32
      | _ => 0)
    + (match t.rowp with
      | some r => 2 ^ 14 + r % 256 * 2 ^ 16
      | none => 0)

/-- A continuation record (19 R465). -/
def recordNum (r : Record) : Nat :=
  r.code % 2 ^ 56 + r.frame % 2 ^ 56 * 2 ^ 64 + r.join % 2 ^ 56 * 2 ^ 128 + (if r.task then 2 ^ 192 else 0) + r.arg.toNat * 2 ^ 224

/-- The block header. -/
def headerBytes (x : Block) (elapsed : Nat) : List Byte :=
  recordBytes 0x1000 ([(0, 4, x.gridid), (4, 4, x.blkid), (8, 4, x.nblk), (12, 2, x.stream), (14, 1, x.cores.length),
      (15, 1, x.groups.length), (0x10, 8, x.record.frame), (0x18, 4, x.record.arg.toNat), (0x1C, 2, x.fr.regs),
      (0x20, 4, x.fr.scratch), (0x24, 2, x.fixups.length), (0x40, 32, recordNum x.record)]
    ++ wordFields 0x60 x.cwp
    ++ x.nb.zipIdx.map (fun (z, i) => (0x100 + 48 * i, 48, barNum z))
    ++ x.tiles.zipIdx.map (fun (t, i) => (0x400 + 8 * i, 8, tileStatus t))
    ++ [(0x420, 8, elapsed)])

/-- The parts of a tile copy, with their offsets in its area. -/
def tileParts (t : Tile) : List (Nat × List Byte) :=
  (0, recordBytes 0x1000 ((t.ctl.map fun (n, w) => (4 * n, 4, w.toNat)) ++ wordFields 0x200 t.stok
      ++ deferredFields 0x240 t.deferred))
    :: (0x1000, t.buf.flatMap fun w => toBytes 4 w.toNat)
    :: (0x103000, t.partials.flatMap fun w => toBytes 4 w.toNat)
    :: (List.range 16).map fun n => (0x3000 + 0x10000 * n, (t.slot n).bytes 0 (shapeExtent (t.shape n)))

/-- Offset of thread record t and of its registers, and of a tile copy. -/
def thrOff (t : Nat) : Nat := 0x29000 + 0x400 * t

def regOff (a t : Nat) : Nat := 0x429000 + 4 * a * t

def tileOff (c : Nat) : Nat := 0x699000 + 0x123000 * c

/-- The bytes of a saved block, by their offsets in the slot (R506). -/
def slotParts (x : Block) (elapsed : Nat) : List (Nat × List Byte) :=
  [(0, headerBytes x elapsed), (0x1000, x.fixups.flatMap fun f => toBytes 32 (fixNum f))]
    ++ x.groups.zipIdx.map (fun (y, g) => (0x9000 + 0x400 * g, groupBytes y))
    ++ x.groups.zipIdx.flatMap (fun (y, g) => y.threads.zipIdx.flatMap fun (t, l) =>
        [(thrOff (32 * g + l), threadBytes t l),
         (regOff x.fr.regs (32 * g + l), (allotWords t).flatMap fun w => toBytes 4 w.toNat)])
    ++ [(0x629000, x.scratch.bytes 0 x.fr.scratch)]
    ++ x.tiles.zipIdx.flatMap (fun (t, c) => (tileParts t).map fun (o, bs) => (tileOff c + o, bs))

namespace State

/-- The offset in own HBM of a save slot of a stream. -/
def slotBase (s : State) (st i : Nat) : Nat := gpaOff (s.streamOf st).savebase + 0xC00000 * i

/-- Recall copies on other packages of the sectors of some parts of a slot; true when none is left. -/
def slotReady (s : State) (base : Nat) (own : Bool) (ps : List (Nat × Nat)) : State × Bool :=
  (ps.flatMap fun (o, n) => partsOf (gpaOf s.self (base + o)) n).foldl (fun (s, ok) (a, _) =>
    let (s, k) := s.podRecall (a / 64) own
    (s, ok && k)) (s, true)

/-- Write bytes of own HBM, sector by sector. -/
def writeHome (s : State) (off : Nat) (bs : List Byte) : State :=
  ((partsOf (gpaOf s.self off) bs.length).foldl (fun (s, bs) (a, n) =>
    (s.cohWrite (a / 64) (maskOf (a % 64) n) (placeSec (a % 64) (ofBytes (bs.take n))), bs.drop n)) (s, bs)).1

/-! ### The save (R505) -/

/-- Steps 1 and 2 of the save of a block are done: it is halted on every core, every store queue there has drained, the copy
engine and the fabric work are finished, and nothing of it is outstanding outside. -/
def saveReady (s : State) (b : Nat) (x : Block) : Bool :=
  x.slot.isSome && x.cores.all x.halting.contains
    && s.blocks.all (fun (_, z) => z.groups.all fun y => !x.cores.contains y.core || y.storeQ.isEmpty)
    && x.colls.all (fun k => k.slices.all fun z => z.done || z.fixed || (k.multi && !x.inOrder k.num z.grp k.bar))
    && s.hold.all (fun (_, us) => us.all fun u => u.blk != b)
    && s.fab.bulks.all (·.blk != b)
    && s.fab.unacked.all (fun r => r.result.isSome || s.ownerBlk r.owner != some b)
    && s.hst.reqs.all (fun r => r.result.isSome || s.ownerBlk r.owner != some b)
    && s.accs.all (fun a => a.blk != b || a.lanes.all fun z => !z.st.open_)
    && x.tiles.all fun t => t.fault.isNone && !t.buf.isEmpty && !t.rowBusy

/-- An atomic that was sent before the halt has ended: its replay record holds its old value, or its fault is deferred
and the record goes. -/
def sentEnd (s : State) (a : Acc) (z : AccLane) : State :=
  let mine (r : Replay) : Bool := r.pc == a.pc && r.va == z.va && r.kind == .atomic
  match z.st with
  | .bound v =>
    let own (r : Replay) : Replay := if mine r then { r with kind := .fatomDone, b := v } else r
    s.modThr a.blk a.grp z.lane fun t => { t with replay := t.replay.map own }
  | .fault code va _ _ =>
    (s.modThr a.blk a.grp z.lane fun t => { t with replay := t.replay.filter fun r => !mine r }).storeFault
      a.blk a.grp z.lane a.pc va code
  | _ => s

/-- What the block still held of the engines is dropped. -/
def saveSettle (s : State) (b : Nat) : State :=
  let s := { s with
    fab := { s.fab with unacked := s.fab.unacked.filter fun r => s.ownerBlk r.owner != some b }
    hst := { s.hst with reqs := s.hst.reqs.filter fun r => s.ownerBlk r.owner != some b } }
  let s := (s.accs.filter (·.blk == b)).foldl (fun s a => a.lanes.foldl (fun s z => s.sentEnd a z) s) s
  { s with accs := s.accs.filter (·.blk != b) }

/-- Step 3: publish_all() of each core, demanded once, in the name of the block's first thread there. -/
def savePublish (s : State) (b : Nat) (x : Block) : State × Bool :=
  x.cores.foldl (fun (s, ok) c =>
    match x.groups.findIdx? (·.core == c) with
    | none => (s, ok)
    | some g =>
      let isDone (s : State) : Bool := ((s.thr? b g 0).map (·.published)).getD true
      let s := if isDone s then s else s.demandPublish c (b, g, 0)
      (s, ok && isDone s)) (s, true)

/-- A sector is in the footprint of a transaction on a core. -/
def inFootprint (s : State) (c sec : Nat) : Bool :=
  s.blocks.any fun (_, x) => x.groups.any fun y => y.core == c && y.threads.any fun t =>
    t.txn.any fun f => f.reads.contains sec || (find? sec f.writes).isSome

/-- Step 4: the L1 of a core writes back and invalidates what it holds. -/
def saveL1 (s : State) (c : Nat) : State :=
  (s.core c).l1.foldl (fun s (sec, e) =>
    if e.st.stable && !s.inFootprint c sec then s.l1Drop c sec e else s) s

/-- The fix-up list with the places at which its slices stand. -/
def freshFixups (x : Block) : List Fixup :=
  x.fixups.filterMap fun f => (x.colls.find? (·.num == f.coll)).bind fun k =>
    (k.slices.find? (·.grp == f.grp)).map fun z => fixupOf k z

/-- The block leaves its cores for its slot (19 R477). -/
def saveLeave (s : State) (b : Nat) (x : Block) (i : Nat) : State :=
  let s := { s with blocks := del b s.blocks }
  let s := if s.blocks.any fun (_, y) => y.gridid == x.gridid && y.cluster == x.cluster then s
    else s.unpin x.cluster x.asid (leaseOf x.fr x.nblk)
  let e : SavedBlk := ⟨x.blkid, i, x.roomFor, x.groups.map fun y => (y.killed, y.issued), x.colls⟩
  let s := match s.grid? x.gridid with
    | some g => s.setGrid { g with saved := g.saved ++ [e] }
    | none => s
  x.cores.foldl (fun s c => s.bump 16 3 c 1) (s.bump 15 3 0 1)

/-- The save of a block goes on as far as it can, and is declared complete with its last step. -/
def saveComplete (s : State) (b : Nat) : State :=
  match s.blk? b with
  | none => s
  | some x =>
    if s.pkg.stopped || !s.saveReady b x then s
    else
      match s.savePublish b x with
      | (s, false) => s
      | (s, true) =>
        match x.slot, (s.saveSettle b).blk? b with
        | some i, some x =>
          let x := { x with fixups := freshFixups x }
          let base := s.slotBase x.stream i
          let elapsed := ((s.grid? x.gridid).map fun g => s.now - g.admitAt).getD 0
          let ps := slotParts x elapsed
          match s.slotReady base true (ps.map fun (o, bs) => (o, bs.length)) with
          | (s, false) => s
          | (s, true) =>
            let s := x.cores.foldl (fun s c => s.saveL1 c) (s.saveSettle b)
            let s := ps.foldl (fun s (o, bs) => s.writeHome (base + o) bs) s
            s.saveLeave b x i
        | _, _ => s.saveSettle b

end State

/-- CONTEXT_SAVE_COMPLETE. -/
def execContextSaveComplete (blk : Nat) (s : State) : Ans := .next (s.saveComplete blk)

/-! ### The restore (R508) -/

/-- A reader of a slot: n bytes at an offset, as a number. -/
abbrev SlotRd := Nat → Nat → Nat

def rdWords (rd : SlotRd) (o n : Nat) : List Word := (List.range n).map fun i => BitVec.ofNat 32 (rd (o + 4 * i) 4)

/-- The on-chip link entries of a thread, with the registers they retain from allotment slot k on. -/
def rdLinks (rd : SlotRd) (o regs : Nat) : Nat → Nat → List Frame
  | 0, _ => []
  | n + 1, k =>
    let e := rd o 16
    let f : Frame := ⟨bitsOf e 55 0, bitsOf e 70 64, bitsOf e 75 72, min 8 (bitsOf e 79 76), rdWords rd (regs + 4 * k) (bitsOf e 70 64)⟩
    f :: rdLinks rd (o + 16) regs n (k + f.k)

/-- A thread from its record and registers, its replay and resumption records included. -/
def rdThread (rd : SlotRd) (a asid t : Nat) : Thread :=
  let o := thrOff t
  let r := regOff a t
  let flags := rd (o + 0xD) 1
  let live := min 8 (rd (o + 0xB) 1)
  let pc := rd o 8
  { Thread.start with
    pc := pc
    p := BitVec.ofNat 8 (rd (o + 0xC) 1 % 2 ^ live)
    v := rdWords rd (r + 4 * rd (o + 8) 2) (rd (o + 0xA) 1)
    live := live
    depth := rd (o + 0x10) 4
    links := rdLinks rd (o + 0xA0) r (min 8 (rd (o + 0xF) 1)) 0
    spill := rd (o + 0x18) 8
    sdcnt := BitVec.ofNat 32 (rd (o + 0x14) 4)
    exited := bitOf flags 0
    off := bitOf flags 3
    priv := bitOf flags 1 || asid == 0
    halted := bitOf flags 2
    deferred := deferredOf (rd (o + 0x80) 18)
    met := (List.range 4).filterMap fun i => metOf (rd (o + 0x50 + 8 * i) 8)
    ob := BitVec.ofNat 32 (rd (o + 0x28) 4)
    seals := rdWords rd (o + 0x30) (min 8 (rd (o + 0x2C) 1))
    epc := rd (o + 0x20) 8
    frec := rdWords rd (o + 0x120) 16
    retryPc := pc
    retries := rd (o + 0xE) 1
    replay := (List.range (min 8 (rd (o + 0x1E0) 1))).filterMap fun i => replayOf (rd (o + 0x200 + 64 * i) 64)
    resume := (List.range (min 4 (rd (o + 0x1E1) 1))).map fun i => resumeOf (rd (o + 0x160 + 32 * i) 32) }

/-- A group from its record, on the core, quadrant and slot of y. -/
def rdGroup (rd : SlotRd) (a asid g : Nat) (y : Group) (killed issued : Bool) : Group :=
  let o := 0x9000 + 0x400 * g
  let ts := (List.range 32).map fun l => rdThread rd a asid (32 * g + l)
  { y with
    s := rdWords rd o 64
    fpmode := fpmodeOf (rd (o + 0x100) 4)
    fpstat := BitVec.ofNat 32 (rd (o + 0x104) 1)
    lanefault := BitVec.ofNat 32 (rd (o + 0x108) 4)
    cc := BitVec.ofNat 32 (rd (o + 0x10C) 4)
    bastOn := rd (o + 0x110) 4 % 2 == 1
    bastTh := rd (o + 0x114) 4
    fav := if rd (o + 0x118) 1 < 32 then some (rd (o + 0x118) 1) else none
    tok := rdWords rd (o + 0x120) 16
    pmask := BitVec.ofNat 32 (rd (o + 0x160) 4)
    pmaskPc := rd (o + 0x168) 8
    olds := (List.range 32).map fun i => BitVec.ofNat 128 (rd (o + 0x200 + 16 * i) 16)
    active := false
    pendAt := y.age
    issued := issued
    ended := ts.all (·.exited)
    killed := killed
    threads := ts }

/-- A tile copy from its area and its status, on the core of t. -/
def rdTile (rd : SlotRd) (c : Nat) (t : Tile) : Tile :=
  let o := tileOff c
  let st := rd (0x400 + 8 * c) 8
  let ctl := (List.range 0x44).foldl (fun m n => putD 0 n (BitVec.ofNat 32 (rd (o + 4 * n) 4)) m) ([] : Tab Word)
  let u : Tile := { t with
    buf := rdWords rd (o + 0x1000) (32 * t.lines)
    ctl := ctl
    stok := rdWords rd (o + 0x200) 16
    deferred := deferredOf (rd (o + 0x240) 18)
    spc := bitsOf st 10 0
    ended := bitOf st 11
    issued := bitOf st 13 || bitOf st 14
    rowp := if bitOf st 14 then some (bitsOf st 23 16) else none }
  let slot (n : Nat) : Memory := Memory.fill [] (shapeExtent (u.shape n)) fun i =>
    BitVec.ofNat 8 (rd (o + 0x3000 + 0x10000 * n + i) 1)
  let u : Tile := { u with tiles := (List.range 16).map slot }
  if bitOf st 13 then
    match u.framed u.spc with
    | (_, .ok i) =>
      (match mform? i with
      | some f => { u with wait := .matrix i (bitsOf st 47 32), partials := rdWords rd (o + 0x103000) (f.m u * f.n u) }
      | none => u)
    | _ => u
  else u

/-- A collective that was in flight at the save: its stopped slices stand where their fix-up entries say. -/
def rdColl (fs : List Fixup) (k : Coll) : Coll :=
  let place (z : Slice) : Slice :=
    if z.fixed then
      match fs.find? fun f => f.coll == k.num && f.grp == z.grp with
      | some f => { z with
          dspc := f.dspc, sspc := f.sspc, daddr := f.daddr, saddr := f.saddr, lane := f.lane, rem := f.rem
          dist := f.dist, hnt := f.hnt
          len := z.len - z.rem + f.rem, pc := Config.resumedPc f.daddr }
      | none => { z with done := true, fixed := false }
    else z
  { k with slices := k.slices.map place }

/-- The parts of a slot that a restore reads. -/
def slotAreas (fr : LFrame) (copies fixes : Nat) : List (Nat × Nat) :=
  [(0, 0x1000), (0x1000, 32 * fixes), (0x9000, 0x400 * fr.groups), (thrOff 0, 0x400 * fr.bthreads),
   (regOff fr.regs 0, 4 * fr.regs * fr.bthreads), (0x629000, fr.scratch)]
    ++ (List.range copies).map fun c => (tileOff c, 0x123000)

namespace State

/-- The block of a slot on the cores of x. -/
def rdBlock (s : State) (rd : SlotRd) (e : SavedBlk) (x : Block) : Block :=
  let fs := (List.range (min 1024 (rd 0x24 2))).map fun i => fixOf (rd (0x1000 + 32 * i) 32)
  let colls := e.colls.map (rdColl fs)
  let live := fs.filter fun f => colls.any fun k => k.num == f.coll && k.slices.any fun z => z.grp == f.grp && z.fixed
  let pws := (List.range 4).map fun i => match x.cores[i]? with
    | some c => (s.core c).pw
    | none => 0
  { x with
    scratch := Memory.fill [] x.fr.scratch fun i => BitVec.ofNat 8 (rd (0x629000 + i) 1)
    nb := (List.range 16).map fun i => barOf (rd (0x100 + 48 * i) 48) pws
    cwp := rdWords rd 0x60 8
    colls := colls
    abandoned := e.groups.any (·.1)
    fixups := live
    replaying := live != []
    tiles := x.tiles.zipIdx.map fun (t, c) => rdTile rd c t
    groups := x.groups.zipIdx.map fun (y, g) =>
      rdGroup rd x.fr.regs x.asid g y ((e.groups.getD g (false, false)).1) ((e.groups.getD g (false, false)).2) }

/-- The replay records of a restored thread are issued again, in order; its resumption records become transfers. -/
def restartThread (s : State) (b g l : Nat) : State :=
  match s.thr? b g l with
  | none => s
  | some t =>
    let s := (s.modThr b g l fun t => { t with replay := [], resume := [] }).reissueAll b g l t.replay
    t.resume.foldl (fun s r =>
      let k : Bulk := ⟨s.nextId, b, g, l, Config.resumedPc r.daddr, if r.get then 1 else 0, r.daddr, r.saddr, r.rem, r.batch,
        0, .add, .fp32, 0, 0, [], [], t.priv⟩
      { s with nextId := s.nextId + 1, fab := { s.fab with bulks := s.fab.bulks ++ [k] } }) s

/-- What runs before a restored block issues: replays, resumptions, then the fix-ups and the slices not yet begun. -/
def restart (s : State) (b : Nat) (groups : Nat) : State :=
  let s := (List.range groups).foldl (fun s g => (List.range 32).foldl (fun s l => s.restartThread b g l) s) s
  let n := s.nextId
  let s := { s with nextId := n + 1 }
  let fresh (k : Coll) : Coll := { k with slices := k.slices.map fun (z : Slice) => { z with seq := n } }
  let order (k : Coll) : Option (Nat × Nat × BitVec 4) :=
    if k.closed then none else k.bar.bind fun q => if q.toNat < 8 then some (b, k.num, q) else none
  (s.modBlk b fun x => { x with colls := x.colls.map fresh, order := x.colls.filterMap order }).settleBatches b

/-- The saved blocks that may be resumed, grid by grid. -/
def savedBlocks (s : State) : List (Nat × SavedBlk) :=
  s.dsp.grids.flatMap fun (k, g) => g.saved.map fun e => (k, e)

/-- A saved block resumes on cores that have room for it (19 R464 rule 3, R477). -/
def contextRestore (s : State) (idx cl : Nat) (cores quads : List Nat) : State :=
  match s.savedBlocks[idx]? with
  | none => s
  | some (k, e) =>
    match s.grid? k with
    | none => s
    | some g =>
      let st := s.streamOf g.stream
      if !s.dispatching || st.stopped || !st.en || st.killed || e.behind.isSome || !s.leaseFits g cl || !s.blockFits g.fr cl cores quads
          || !s.budgetOk g.stream 1 g.fr then s
      else
        let base := s.slotBase g.stream e.slot
        let copies := if g.fr.tslines = 0 then 0 else cores.length
        match s.slotReady base false (slotAreas g.fr copies (s.homeNum (base + 0x24) 2)) with
        | (s, false) => s
        | (s, true) =>
          match s.leaseReady g true with
          | (s, false) => s
          | (s, true) =>
          match s.pinLease g cl with
          | (s, some va) => s.dispError 0 va 0x10 g.stream g.queue g.asid
          | (s, none) =>
            let x := s.rdBlock (fun o n => s.homeNum (base + o) n) e (s.blockOn g e.blkid cl cores quads)
            let s := s.setGrid (roomTaken e.blkid { g with saved := g.saved.erase e })
            let b := s.nextId
            let s := (s.enterBlock x).restart b x.groups.length
            let s := cores.foldl (fun s c => s.bump 16 4 c 1) s
            s.checkBlock b

end State

/-- CONTEXT_RESTORE. -/
def execContextRestore (idx cluster : Nat) (cores quads : List Nat) (s : State) : Ans :=
  .next (s.contextRestore idx cluster cores quads)

end Sys2Proof.Machine
end

