-- ==== Sys2Proof/Machine/Registers.lean ====
section
/-! DEFINITION. The system registers: what a read returns and what a write does, by register number, for a thread (SRD,
SWR) and for a unit of the package (00 R5; 01 R34; 20 R511 to R513; 21 R522). -/

namespace Sys2Proof.Machine

/-! ### Counters (01 R34; 20 R511) -/

/-- The compute die of a core (01 R17). -/
def coreDie (c : Nat) : Nat := c / 4 % 8 / 4 + 2 * (c / 4 / 8 / 4)

/-- The unit of an engine row that a core and quadrant belong to. -/
def rowUnit (row core quad : Nat) : Nat :=
  if row = 0 ∨ row = 1 ∨ row = 3 ∨ row = 4 then 4 * core + quad
  else if row = 2 ∨ row = 5 ∨ row = 9 ∨ row = 10 ∨ row = 16 then core
  else if row = 7 ∨ row = 14 then core / 4
  else if row = 8 then coreDie core
  else 0

/-- The non-stall counters of a row, which come first. -/
def countsOwn : Nat → Nat
  | 0 => 2 | 1 => 1 | 2 => 4 | 3 => 1 | 4 => 6 | 5 => 4 | 6 => 5 | 7 => 4 | 8 => 2 | 9 => 4 | 10 => 3
  | 11 => 6 | 12 => 6 | 13 => 5 | 14 => 5 | 15 => 6 | 16 => 6 | 17 => 6
  | _ => 0

namespace State

/-- Cclk of basting under way in a quadrant, not yet in BST_CYCLES (08 R248). -/
def bastingNow (s : State) (unit : Nat) : Nat :=
  (s.blocks.flatMap fun (_, x) => x.groups.filterMap fun y =>
    if 4 * y.core + y.quad = unit then y.bast.map fun z => s.now - z.since else none).foldl (· + ·) 0

/-- A counter of one unit. A stall counter has grown by the stalled cclk of its cause since package reset or its last write
(R34, R35). -/
def countOf (s : State) (row idx unit : Nat) : Nat :=
  let x := s.counter row idx unit
  if countsOwn row ≤ idx then
    let since := getD 0 s.stallAt (counterKey row idx unit)
    (x + (List.range (s.now - since)).countP fun k => Config.stallCause row unit (since + k) == idx) % 2 ^ 48
  else if row = 4 ∧ idx = 1 then (x + s.bastingNow unit) % 2 ^ 48
  else x

/-- A counter by its number: SDIR gives the sum over the present slices. -/
def counterRead (s : State) (n unit : Nat) : Nat :=
  let row := (n - 0x1000) / 0x40
  let idx := (n - 0x1000) % 0x40
  if row = 6 then (s.pkg.caps.slices.foldl (fun a k => a + s.countOf 6 idx k) 0) % 2 ^ 48 else s.countOf row idx unit

/-- Set a counter of one unit. -/
def countSet (s : State) (row idx unit v : Nat) : State :=
  let v := if row = 4 ∧ idx = 1 then (v % 2 ^ 48 + 2 ^ 48 - s.bastingNow unit % 2 ^ 48) % 2 ^ 48 else v % 2 ^ 48
  { s with
    counters := putD 0 (counterKey row idx unit) v s.counters
    stallAt := if countsOwn row ≤ idx then putD 0 (counterKey row idx unit) s.now s.stallAt else s.stallAt }

/-- A write of a counter by its number. The sum of SDIR is set by its first slice, the others counting from 0. -/
def counterWrite (s : State) (n unit v : Nat) : State :=
  let row := (n - 0x1000) / 0x40
  let idx := (n - 0x1000) % 0x40
  if row = 6 then
    let s := s.pkg.caps.slices.foldl (fun s k => s.countSet 6 idx k 0) s
    s.countSet 6 idx (s.pkg.caps.slices.headD 0) v
  else s.countSet row idx unit v

end State

/-! ### Reads (R5: WO and RSVD fields read zero) -/

/-- 32 presence bits of a list of units, from unit 32·j. -/
def presence (us : List Nat) (j : Nat) : Nat :=
  us.foldl (fun a u => if u / 32 = j then a + 2 ^ (u % 32) else a) 0

/-- Low and high words of a 64-bit register. -/
def lo32 (x : DWord) : Nat := x.toNat % 2 ^ 32

def hi32 (x : DWord) : Nat := x.toNat / 2 ^ 32

/-- A bit of a status register. -/
def flag (b : Bool) (i : Nat) : Nat := if b then 2 ^ i else 0

namespace State

/-- CELLID (01 R30). -/
def cellId (s : State) : Nat := (s.cellOf s.self).getD 64

/-- HOM_CELL: the selected slot, what it holds, and DOWN of its cell (16 R408, R409). -/
def homCellRead (s : State) : Nat :=
  let x := s.hom.cellSel.toNat
  let v := getD 0 s.hom.cells (16 * (x % 64) + x / 64 % 16)
  x % 1024 + v % 1024 * 2 ^ 10 + flag (decide (1024 ≤ v)) 20 + flag (s.hom.down.getLsbD (x % 64)) 21

/-- DSP_CARVE_STATn (06 R176). -/
def carveStat (s : State) (c : Nat) : Nat :=
  let k := (s.core c).carve
  k.cur.toNat + k.tgt.toNat * 8 + flag k.busy 6 + flag k.done 7 + flag k.err 8

/-- REFWINd (12 R336, R337). -/
def refwin (s : State) (d : Nat) : Nat :=
  let p := s.phase d
  let on := p % 11200 < 1400
  p + (if on then p / 11200 else (p / 11200 + 1) % 8) * 2 ^ 17 + flag on 20

/-- MGT_THROTTLE (22 R541). -/
def throttled (s : State) : Nat :=
  (s.pkg.throttle + match s.pkg.throttling with
    | some t => s.now - t
    | none => 0) % 2 ^ 48

/-- The registers that one package has once. -/
def pkgRead (s : State) (n : Nat) : Nat :=
  if n = 0x120 then lo32 s.trp.hvec
  else if n = 0x121 then hi32 s.trp.hvec
  else if n = 0x122 then lo32 s.trp.hmask
  else if n = 0x123 then hi32 s.trp.hmask
  else if n = 0x124 then s.trp.ctl.toNat
  else if n = 0x125 then flag s.trp.drop 0
  else if 0x340 ≤ n ∧ n ≤ 0x343 then s.refwin (n - 0x340)
  else if n = 0x380 then s.fab.tmo.toNat
  else if n = 0x381 then s.fab.mig.toNat
  else if n = 0x382 then s.fab.collLo.toNat
  else if n = 0x383 then s.fab.collHi.toNat
  else if n = 0x384 then flag s.fab.collBusy 0 + flag s.fab.collDone 1 + flag s.fab.collErr 2
  else if n = 0x3A0 then s.hom.ctl.toNat % 2 + flag s.hom.err 1 + flag s.hom.seamBusy.isSome 2
  else if n = 0x3A1 then s.homCellRead
  else if n = 0x3A2 then s.hom.seamIdx.toNat
  else if n = 0x3A3 then s.hom.seamLo.toNat
  else if n = 0x3A4 then s.hom.seamHi.toNat
  else if n = 0x3A5 then s.hom.merge.toNat
  else if n = 0x3A6 then s.hom.tmo.toNat
  else if n = 0x3C0 then s.mnd.ctl.toNat
  else if n = 0x3C1 then s.mnd.beacon.toNat
  else if n = 0x3C2 then lo32 s.mnd.down
  else if n = 0x3C3 then hi32 s.mnd.down
  else if n = 0x3C4 then flag s.mnd.busy 0 + s.mnd.epoch % 2 ^ 16 * 2 ^ 16
  else if n = 0x3E0 then lo32 s.xlt.rtbase
  else if n = 0x3E1 then hi32 s.xlt.rtbase
  else if n = 0x3E2 then lo32 s.xlt.shootVa
  else if n = 0x3E3 then hi32 s.xlt.shootVa
  else if n = 0x3E4 then s.xlt.shootReg.toNat
  else if n = 0x3E5 then flag s.xlt.busy 0 + flag s.xlt.done 1 + flag s.xlt.err 2
  else if n = 0x400 then lo32 s.dsp.qtbase
  else if n = 0x401 then hi32 s.dsp.qtbase
  else if n = 0x402 then lo32 s.dsp.stbase
  else if n = 0x403 then hi32 s.dsp.stbase
  else if n = 0x405 then s.dsp.ctl.toNat
  else if n = 0x406 then flag s.dsp.bad 0 + flag s.dsp.drop 1 + flag (s.dsp.queues.any fun (_, q) => q.parked) 2
    + flag s.dsp.err 3
  else if n = 0x408 then s.dsp.pkgbud.toNat
  else if 0x500 ≤ n ∧ n ≤ 0x5FF then s.carveStat (n - 0x500)
  else if n = 0x600 then s.hst.ctl.toNat
  else if n = 0x601 then flag s.hst.up 0 + flag s.hst.cxl 1 + flag s.hst.down 2 + flag s.hst.dberr 3 + flag s.hst.drop 4
  else if n = 0x602 then s.hst.hb.toNat
  else if n = 0x603 then lo32 s.hst.hbaddr
  else if n = 0x604 then hi32 s.hst.hbaddr
  else if n = 0x606 then s.hst.hdm.toNat
  else if n = 0x607 then s.hst.svcmem.toNat
  else if n = 0x608 then lo32 s.hst.ioqbase
  else if n = 0x609 then hi32 s.hst.ioqbase
  else if 0x700 ≤ n ∧ n ≤ 0x707 then presence s.pkg.caps.cores (n - 0x700)
  else if 0x708 ≤ n ∧ n ≤ 0x70F then presence s.pkg.caps.slices (n - 0x708)
  else if n = 0x710 ∨ n = 0x711 then presence s.pkg.caps.stations (n - 0x710)
  else if 0x712 ≤ n ∧ n ≤ 0x715 then presence s.pkg.caps.hbm (n - 0x712)
  else if n = 0x716 then s.pkg.caps.mem % 1024
  else if 0x718 ≤ n ∧ n ≤ 0x71F then presence s.pkg.caps.cuffs (n - 0x718)
  else if n = 0x720 then flag s.pkg.booted 0 + flag s.pkg.bootFail 1
  else if n = 0x721 then s.pkg.pwrcap.toNat
  else if n = 0x722 then s.pkg.eccCe.toNat
  else if n = 0x723 then s.pkg.eccUe.toNat
  else if n = 0x724 then s.pkg.eccLoc.toNat
  else if n = 0x725 then s.pkg.mchk.toNat
  else if n = 0x726 then s.throttled
  else if n = 0x727 then s.self
  else 0

end State

/-! ### Writes (R5: RW fields are set, W1C fields cleared by ones, RO and RSVD fields ignored) -/

/-- A 64-bit register with its low, or its high, word replaced. -/
def setLo (x : DWord) (v : Word) : DWord := x.extractLsb' 32 32 ++ v

def setHi (x : DWord) (v : Word) : DWord := v ++ x.extractLsb' 0 32

namespace State

/-- FAB_COLL_HI, whose GO starts a registration (15 R395, R399). -/
def collHiWrite (s : State) (v : Word) : State :=
  let s := { s with fab := { s.fab with collHi := v &&& 0x3FFFFFFF } }
  if v.getLsbD 31 && !s.fab.collBusy then { s with fab := { s.fab with collBusy := true } } else s

/-- A write of a register that one package has once. -/
def pkgWrite (s : State) (n : Nat) (v : Word) : State :=
  if n = 0x120 then { s with trp := { s.trp with hvec := setLo s.trp.hvec (v &&& 0xFFFFFF80) } }
  else if n = 0x121 then { s with trp := { s.trp with hvec := setHi s.trp.hvec (v &&& 0xFFFFFF) } }
  else if n = 0x122 then { s with trp := { s.trp with hmask := setLo s.trp.hmask v } }
  else if n = 0x123 then { s with trp := { s.trp with hmask := setHi s.trp.hmask v } }
  else if n = 0x124 then { s with trp := { s.trp with ctl := v &&& 0x3FF } }
  else if n = 0x125 then { s with trp := { s.trp with drop := s.trp.drop && !v.getLsbD 0 } }
  else if n = 0x126 then s.trpRelease v
  else if n = 0x380 then { s with fab := { s.fab with tmo := v &&& 0xFFFF } }
  else if n = 0x381 then { s with fab := { s.fab with mig := v &&& 0x3FFFFFF } }
  else if n = 0x382 then { s with fab := { s.fab with collLo := v &&& 0xFFFFFFC0 } }
  else if n = 0x383 then s.collHiWrite v
  else if n = 0x384 then { s with fab := { s.fab with
    collDone := s.fab.collDone && !v.getLsbD 1
    collErr := s.fab.collErr && !v.getLsbD 2 } }
  else if n = 0x3A0 then s.homCtlWrite v
  else if n = 0x3A1 then s.homCellWrite v
  else if n = 0x3A2 then s.homSeamWrite v
  else if n = 0x3A3 then { s with hom := { s.hom with seamLo := v } }
  else if n = 0x3A4 then { s with hom := { s.hom with seamHi := v } }
  else if n = 0x3A5 then { s with hom := { s.hom with merge := v &&& 0xFFFF } }
  else if n = 0x3A6 then { s with hom := { s.hom with tmo := v &&& 0xFFFF } }
  else if n = 0x3C0 then s.mndCtlWrite v
  else if n = 0x3C1 then { s with mnd := { s.mnd with beacon := v &&& 0xFFFFF } }
  else if n = 0x3E0 then { s with xlt := { s.xlt with rtbase := setLo s.xlt.rtbase (v &&& 0xFFFFC000) } }
  else if n = 0x3E1 then { s with xlt := { s.xlt with rtbase := setHi s.xlt.rtbase (v &&& 0x3FFFFFFF) } }
  else if n = 0x3E2 then { s with xlt := { s.xlt with shootVa := setLo s.xlt.shootVa v } }
  else if n = 0x3E3 then { s with xlt := { s.xlt with shootVa := setHi s.xlt.shootVa (v &&& 0xFFFFFF) } }
  else if n = 0x3E4 then s.xltShootWrite v
  else if n = 0x3E5 then { s with xlt := { s.xlt with
    done := s.xlt.done && !v.getLsbD 1
    err := s.xlt.err && !v.getLsbD 2 } }
  else if n = 0x400 then { s with dsp := { s.dsp with qtbase := setLo s.dsp.qtbase (v &&& 0xFFFFF000) } }
  else if n = 0x401 then { s with dsp := { s.dsp with qtbase := setHi s.dsp.qtbase (v &&& 0x3FFFFFFF) } }
  else if n = 0x402 then { s with dsp := { s.dsp with stbase := setLo s.dsp.stbase (v &&& 0xFFFFF000) } }
  else if n = 0x403 then { s with dsp := { s.dsp with stbase := setHi s.dsp.stbase (v &&& 0x3FFFFFFF) } }
  else if n = 0x404 then s.queueDoorbell v
  else if n = 0x405 then { s with dsp := { s.dsp with ctl := v &&& 0x7FF } }
  else if n = 0x406 then { s with dsp := { s.dsp with
    bad := s.dsp.bad && !v.getLsbD 0
    drop := s.dsp.drop && !v.getLsbD 1
    err := s.dsp.err && !v.getLsbD 3 } }
  else if n = 0x407 then s.dspScmdWrite v
  else if n = 0x408 then { s with dsp := { s.dsp with pkgbud := v } }
  else if n = 0x409 then s.carveWrite v
  else if 0x500 ≤ n ∧ n ≤ 0x5FF then s.modCarve (n - 0x500) fun k => { k with
    done := k.done && !v.getLsbD 7
    err := k.err && !v.getLsbD 8 }
  else if n = 0x600 then s.hstCtlWrite v
  else if n = 0x601 then { s with hst := { s.hst with
    dberr := s.hst.dberr && !v.getLsbD 3
    drop := s.hst.drop && !v.getLsbD 4 } }
  else if n = 0x602 then { s with hst := { s.hst with hb := v &&& 0xFFFFF } }
  else if n = 0x603 then { s with hst := { s.hst with hbaddr := setLo s.hst.hbaddr (v &&& 0xFFFFFFC0) } }
  else if n = 0x604 then { s with hst := { s.hst with hbaddr := setHi s.hst.hbaddr (v &&& 0x3FFFF) } }
  else if n = 0x605 then s.hostBeat
  else if n = 0x606 then { s with hst := { s.hst with hdm := v } }
  else if n = 0x607 then { s with hst := { s.hst with svcmem := v } }
  else if n = 0x608 then { s with hst := { s.hst with ioqbase := setLo s.hst.ioqbase (v &&& 0xFFFFF000) } }
  else if n = 0x609 then { s with hst := { s.hst with ioqbase := setHi s.hst.ioqbase (v &&& 0x3FFFFFFF) } }
  else if n = 0x721 then { s with pkg := { s.pkg with pwrcap := v &&& 0xFFF } }
  else if n = 0x722 then { s with pkg := { s.pkg with eccCe := s.pkg.eccCe &&& ~~~v } }
  else if n = 0x723 then { s with pkg := { s.pkg with eccUe := s.pkg.eccUe &&& ~~~v } }
  else s

end State

/-! ### SRD and SWR (20 R511, R512) -/

namespace State

/-- A register as a thread of a core and quadrant reads it; none where it belongs to the thread itself. -/
def simtRead (s : State) (n core quad : Nat) : Nat :=
  if n = 0x300 then (s.core core).rseq.toNat
  else if n = 0x301 then (s.core core).pw.toNat
  else if 0x1000 ≤ n then s.counterRead n (rowUnit ((n - 0x1000) / 0x40) core quad)
  else s.pkgRead n

/-- A register in one lane: the identity registers, TRP_EPC and TRP_FREC of the thread, or one shared by threads. -/
def laneRead (s : State) (x : Block) (gi : Nat) (n : Nat) (y : Group) (t : Thread) (l : Nat) : Nat :=
  if n = 0 then l
  else if n = 1 then l / 4
  else if n = 2 then gi
  else if n = 3 then x.blkid
  else if n = 4 then x.gridid
  else if n = 5 then y.cidx
  else if n = 6 then x.cluster
  else if n = 7 then y.core
  else if n = 8 then s.self
  else if n = 9 then s.cellId
  else if n = 0x100 then t.epc % 2 ^ 32
  else if n = 0x101 then t.epc / 2 ^ 32
  else if 0x110 ≤ n ∧ n ≤ 0x11F then (t.frec.getD (n - 0x110) 0).toNat
  else s.simtRead n y.core y.quad

/-- A write of a register by one lane. -/
def laneWrite (s : State) (c : Cur) (n l v : Nat) : State :=
  let w : Word := BitVec.ofNat 32 v
  if n = 0x100 then s.modThr c.blk c.grp l fun t => { t with epc := t.epc / 2 ^ 32 * 2 ^ 32 + (w &&& 0xFFFFFFFC).toNat }
  else if n = 0x101 then s.modThr c.blk c.grp l fun t => { t with epc := (w &&& 0xFFFFFF).toNat * 2 ^ 32 + t.epc % 2 ^ 32 }
  else if 0x1000 ≤ n then
    let (core, quad) := ((s.grp? c.blk c.grp).map fun y => (y.core, y.quad)).getD (0, 0)
    s.counterWrite n (rowUnit ((n - 0x1000) / 0x40) core quad) v
  else s.pkgWrite n w

end State

def execSrd (h : Hd) (d : Opnd) (s : State) : Ans :=
  issue (.srd h d) h.g s noOwn fun s c gt =>
    match s.blk? c.blk with
    | none => s
    | some x => s.modGrp c.blk c.grp fun y =>
      y.writeDst d (sysRegRegs h.ext) (laneVals y gt (s.laneRead x c.grp (sysRegNum h.ext)))

/-- SWR: the lanes act in ascending order. -/
def execSwr (h : Hd) (a : Opnd) (s : State) : Ans :=
  issue (.swr h a) h.g s noOwn fun s c gt =>
    gt.foldl (fun s l =>
      match s.grp? c.blk c.grp with
      | none => s
      | some y =>
        match y.threads[l]? with
        | none => s
        | some t => s.laneWrite c (sysRegNum h.ext) l (srcVal (.int (32 * sysRegRegs h.ext)) .l64 y t l a)) s

/-! ### A register of a unit, as the system-register window numbers it (21 R522) -/

/-- The unit of a counter row that an instance of the window names; none where the slot holds no counter. -/
def instUnit (row inst : Nat) : Option Nat :=
  if row = 0 ∨ row = 1 ∨ row = 3 ∨ row = 4 then
    (if 0x1000 ≤ inst ∧ inst < 0x1400 then some (inst - 0x1000) else none)
  else if row = 2 ∨ row = 5 ∨ row = 9 ∨ row = 10 ∨ row = 16 then
    (if 0x100 ≤ inst ∧ inst < 0x200 then some (inst - 0x100) else none)
  else if row = 7 ∨ row = 14 then (if 0x2000 ≤ inst ∧ inst < 0x2040 then some (inst - 0x2000) else none)
  else if row = 8 then (if 0x3000 ≤ inst ∧ inst < 0x3004 then some (inst - 0x3000) else none)
  else if row = 6 then (if 0x4000 ≤ inst ∧ inst < 0x4100 then some (inst - 0x4000) else none)
  else if inst = 0 then some 0
  else none

namespace State

/-- The slot of a register at an instance: its value, or zero where the slot holds no register. -/
def unitRead (s : State) (inst n : Nat) : Nat :=
  if isCounter n then
    if inst = 0 ∧ (n - 0x1000) / 0x40 = 6 then s.counterRead n 0
    else
      match instUnit ((n - 0x1000) / 0x40) inst with
      | some u => s.countOf ((n - 0x1000) / 0x40) ((n - 0x1000) % 0x40) u
      | none => 0
  else if n = 0x300 ∨ n = 0x301 then
    if 0x100 ≤ inst ∧ inst < 0x200 then s.simtRead n (inst - 0x100) 0 else 0
  else if inst = 0 ∧ (isReg32 n || isReg64 n) && decide (0x120 ≤ n) then s.pkgRead n
  else 0

/-- A write of the slot of a register at an instance; ignored where the slot holds no register. -/
def unitWrite (s : State) (inst n v : Nat) : State :=
  if isCounter n then
    if inst = 0 ∧ (n - 0x1000) / 0x40 = 6 then s.counterWrite n 0 v
    else
      match instUnit ((n - 0x1000) / 0x40) inst with
      | some u => s.countSet ((n - 0x1000) / 0x40) ((n - 0x1000) % 0x40) u v
      | none => s
  else if inst = 0 ∧ decide (0x120 ≤ n) then s.pkgWrite n (BitVec.ofNat 32 v)
  else s

end State

/-- REGISTER_WRITE: a privileged write of a register of a unit. -/
def execRegisterWrite (inst num : Nat) (v : Word) (s : State) : Ans := .next (s.unitWrite inst num v.toNat)

end Sys2Proof.Machine
end

