-- ==== Sys2Proof/Machine/Package.lean ====
section
/-! DEFINITION. The package: throttling, reset, boot, identity and attestation (22 R540 to R548), and soft errors. -/

namespace Sys2Proof.Machine

namespace State

/-- The sensed power, averaged over the last ms, is above the cap, or a junction is at the throttle point (R541, R545). -/
def overLimit (s : State) (power temp : Nat) : Bool :=
  decide (min (s.pkg.pwrcap.toNat % 4096) 2300 < power) || decide (95 ≤ temp)

end State

/-- A soft error strikes: it is counted, and what ECC cannot correct in data is poisoned (12 R332; 14 R375 rule 5; 16 R425;
22 R545). -/
def State.softError (s : State) (e : SoftErr) : State :=
  match e with
  | .corrected => { s with pkg := { s.pkg with eccCe := if s.pkg.eccCe = -1 then s.pkg.eccCe else s.pkg.eccCe + 1 } }
  | .hbm sec =>
    if s.homed sec then
      let s := s.eccLost 5 0
      { s with hom := { s.hom with poison := if s.hom.poison.contains sec then s.hom.poison else s.hom.poison ++ [sec] } }
    else s
  | .weight seg =>
    if seg < 2 ^ 23 then
      let s := s.eccLost 6 (0x3000 + seg / 2 ^ 21)
      { s with wsPoison := put seg (-1) s.wsPoison }
    else s
  | .tile b k slot off =>
    match s.tile? b k with
    | some t =>
      if slot < 16 ∧ off < 2 ^ 16 then (s.eccLost 2 (0x100 + t.core)).modTile b k fun t => { t with bad := t.bad ++ [(slot, off)] }
      else s
    | none => s
  | .sums b k =>
    match s.tile? b k with
    | some t =>
      (match t.wait with
      | .matrix _ _ => (s.eccLost 2 (0x100 + t.core)).modTile b k fun t => { t with bad := t.bad ++ [(16, 0)] }
      | _ => s)
    | none => s
  | .lost unit inst =>
    -- an error in control state is a machine check (10 R292; 14 R382)
    let s := s.eccLost unit.toNat inst.toNat
    if unit = 7 ∨ unit = 4 then s.machineCheck [.control unit inst] else s

/-- THROTTLE: the package begins to throttle. -/
def execThrottle (power temp : Nat) (s : State) : Ans :=
  .next (if s.overLimit power temp && s.pkg.throttling.isNone then
    { s with pkg := { s.pkg with throttling := some s.now } }
  else s)

/-- THROTTLE_END: it stops, and the throttled cclk stay counted. -/
def execThrottleEnd (power temp : Nat) (s : State) : Ans :=
  .next (if s.overLimit power temp then s
    else { s with pkg := { s.pkg with throttling := none, throttle := s.throttled } })

/-- PACKAGE_RESET: every piece of state takes its reset value, and the ID its straps; what is fused stays (R5, R546). -/
def execPackageReset (strap : BitVec 10) (s : State) : Ans :=
  .next { State.reset with
    agenda := s.agenda
    out := s.out
    pkg := { Pkg.reset strap with caps := s.pkg.caps } }

/-- FIRMWARE_BOOT: the boot ROM finds the image authentic, or refuses it (R542). -/
def execFirmwareBoot (image : List Byte) (s : State) : Ans :=
  .next (if s.pkg.booted || s.pkg.bootFail then s
    else { s with pkg := { s.pkg with booted := Config.authentic image, bootFail := !Config.authentic image } })

namespace State

/-- The board controller rewrites MGT_PKGID until the boot ROM has finished (R546 rule 2). -/
def writePkgid (s : State) (id : BitVec 10) : State :=
  if s.pkg.booted || s.pkg.bootFail then s else { s with pkg := { s.pkg with id := id } }

/-- The board controller reads a register through the management port: an MGT_ register, at any time (R548). -/
def mgtRead (s : State) (reg : Nat) : State :=
  s.emit (.mgt reg (if 0x700 ≤ reg ∧ reg ≤ 0x727 then s.pkgRead reg else 0))

/-- The board controller writes a register through the management port: MGT_PWRCAP, or MGT_PKGID; any other write is
ignored (R548). -/
def mgtWrite (s : State) (reg : Nat) (v : Word) : State :=
  if reg = 0x721 then s.pkgWrite reg v
  else if reg = 0x727 then s.writePkgid (v.setWidth 10)
  else s

end State

/-- MGT_PKGID_WRITE: through the management port, until the boot ROM has finished (R546 rule 2). -/
def execMgtPkgidWrite (id : BitVec 10) (s : State) : Ans := .next (s.writePkgid id)

/-- SPDM_REQUEST: the firmware, which runs once its image is authenticated, answers (R544). -/
def execSpdmRequest (nonce : List Byte) (s : State) : Ans :=
  .next (if s.pkg.booted then s.emit (.spdm (Config.attest nonce)) else s)

end Sys2Proof.Machine
end

