-- ==== Sys2Proof/Machine/Window.lean ====
section
/-! DEFINITION. The service address ranges: the system-register window, BAR0, the doorbell page, and the accesses of the
service cores (21 R521, R522, R530 to R533). -/

namespace Sys2Proof.Machine

/-! ### The system-register window (R522) -/

namespace State

/-- The slot of an offset of the window. -/
def slotRead (s : State) (off : Nat) : Nat := s.unitRead (off / 2 ^ 16) (off % 2 ^ 16 / 8)

/-- A read of n bytes within a slot: a register's value in its low bytes. -/
def windowRead (s : State) (off n : Nat) : Nat := s.slotRead off / 2 ^ (8 * (off % 8)) % 2 ^ (8 * n)

/-- A write reaches a register when it covers it whole: its low 4 bytes, or all 8 of a counter (assumption log 14). -/
def windowCovers (off n : Nat) : Bool :=
  off % 8 == 0 && (n == 8 || (n == 4 && !isCounter (off % 2 ^ 16 / 8)))

def windowWrite (s : State) (off n v : Nat) : State :=
  if windowCovers off n then s.unitWrite (off / 2 ^ 16) (off % 2 ^ 16 / 8) v else s

/-- The host may write DSP_QDB and HST_HBIN, and every register where HOSTREG is 1 (R521). -/
def barAllows (s : State) (off : Nat) : Bool :=
  s.hst.ctl.getLsbD 1 || off / 8 == 0x404 || off / 8 == 0x605

/-- The host reads BAR0: every register, and the doorbell page (R521). -/
def barRead (s : State) (off n : Nat) : State :=
  s.emit (.bar off (if off < 0x10000 then s.windowRead off n
    else if off < 0x20000 then s.doorbellRead (off - 0x10000) n else 0))

end State

/-- HOST_BAR_WRITE (R521, R533). -/
def execHostBarWrite (off nbytes : Nat) (v : DWord) (s : State) : Ans :=
  .next (if 0x20000 ≤ off then s.hostDbErr
    else if 0x10000 ≤ off then s.doorbellWrite (off - 0x10000) nbytes v.toNat
    else if s.barAllows off && State.windowCovers off nbytes then s.windowWrite off nbytes v.toNat
    else s.hostDbErr)

/-- IOQ_DOORBELL_TAIL: a 32-bit write of a queue's tail. -/
def execIoqDoorbellTail (q : Nat) (v : Word) (s : State) : Ans :=
  .next (if q < 1024 then s.doorbellWrite (64 * q) 4 v.toNat else s.hostDbErr)

/-- IOQ_DOORBELL_HEAD. -/
def execIoqDoorbellHead (q : Nat) (v : Word) (s : State) : Ans :=
  .next (if q < 1024 then s.doorbellWrite (64 * q + 4) 4 v.toNat else s.hostDbErr)

/-! ### The service cores (R530, R531) -/

/-- The bytes of a service core's access. -/
def svcBytes : SvcOp → Nat
  | .read n | .write n _ | .amo _ n _ | .sc n _ => n

/-- An access that may write. -/
def svcStores : SvcOp → Bool
  | .read _ => false
  | _ => true

/-- The result of an AMO on n bytes: of the old value and the core's, min and max signed, minu and maxu unsigned. -/
def amoNew (f : Amo) (n old v : Nat) : Nat :=
  let sgn (x : Nat) : Int := intOf (8 * n) true x
  match f with
  | .swap => v
  | .add => (old + v) % 2 ^ (8 * n)
  | .xor => Nat.xor old v
  | .and => Nat.land old v
  | .or => Nat.lor old v
  | .min => if sgn old ≤ sgn v then old else v
  | .max => if sgn old ≤ sgn v then v else old
  | .minu => min old v
  | .maxu => max old v

/-- The value an access writes over an old one; held says whether an SC finds its reservation. -/
def svcNew (o : SvcOp) (held : Bool) (old : Nat) : Option Nat :=
  match o with
  | .read _ => none
  | .write n v => some (v.toNat % 2 ^ (8 * n))
  | .amo f n v => some (amoNew f n old (v.toNat % 2 ^ (8 * n)))
  | .sc n v => if held then some (v.toNat % 2 ^ (8 * n)) else none

/-- What the core's register receives: the old value, or for an SC whether it failed. -/
def svcAnswer (o : SvcOp) (held : Bool) (old : Nat) : DWord :=
  match o with
  | .read _ | .amo _ _ _ => BitVec.ofNat 64 old
  | .write _ _ => 0
  | .sc _ _ => if held then 0 else 1

namespace State

/-- An offset lies in the service memory range. -/
def inSvc (s : State) (off : Nat) : Bool :=
  decide (s.hst.svcmem.toNat % 65536 * 2 ^ 30 ≤ off)
    && decide (off < (s.hst.svcmem.toNat % 65536 + s.hst.svcmem.toNat / 65536) * 2 ^ 30)

/-- Tell a service core how its access ended. Code 0 stands for an access fault in the core. -/
def svc (s : State) (st : FabStatus) (v : DWord) : State := s.emit (.svc st v)

/-- An access whose old value and write are given. -/
def svcApply (s : State) (o : SvcOp) (held : Bool) (old : Nat) (write : State → Nat → State × FabStatus) : State :=
  match svcNew o held old with
  | none => s.svc .ok (svcAnswer o held old)
  | some x =>
    match write s x with
    | (s, .ok) => s.svc .ok (svcAnswer o held old)
    | (s, st) => s.svc st 0

/-- An access of own HBM outside the service memory: performed at the home slice (R531 rules 2, 4; 15 R385). An SC
fails. -/
def svcHome (s : State) (a : Nat) (o : SvcOp) : State :=
  match s.homeReady (a / 64) (svcStores o) with
  | (s, none) => s
  | (s, some (some code)) => s.svc (.fault code) 0
  | (s, some none) =>
    match s.performHome (.read a) with
    | (s, .fault code, _) => s.svc (.fault code) 0
    | (s, .ok, v) => s.svcApply o false (takeSec v.bytes (a % 64) (svcBytes o)) fun s x =>
      let (s, st, _) := s.performHome (.write a (maskOf (a % 64) (svcBytes o)) (placeSec (a % 64) x))
      (s, st)

/-- An access in the service memory, which only the service cores cache, coherently: one location. -/
def svcOwn (s : State) (a : Nat) (o : SvcOp) : State :=
  let v := s.cohRead (a / 64)
  if v.psn then s.svc (.fault 0x18) 0
  else (s.readBy (a / 64)).svcApply o (Config.svcReserved s.now) (takeSec v.bytes (a % 64) (svcBytes o)) fun s x =>
    (s.cohWrite (a / 64) (maskOf (a % 64) (svcBytes o)) (placeSec (a % 64) x), .ok)

/-- The atomic of the manual that an AMO is. -/
def amoAop : Amo → Aop
  | .swap => .exch | .add => .add | .xor => .xor | .and => .and | .or => .or
  | .min | .minu => .min | .max | .maxu => .max

/-- The type in which an AMO of n bytes is computed. -/
def amoTy (f : Amo) (n : Nat) : Aty :=
  let signed : Bool := f == .min || f == .max
  if n = 8 then (if signed then .s64 else .u64) else if signed then .s32 else .u32

/-- The host request that an access of a service core to the host range makes. -/
def svcHostOp (a : Nat) : SvcOp → HostOp
  | .read n | .sc n _ => .read a n
  | .write n v => .write a n (v.setWidth 512)
  | .amo f n v => hostRmw a false false (.atom a (amoAop f) (amoTy f n) v 0)

/-- An access to the host range: a store is posted, a load or an AMO is answered when its completion has returned (R525,
R526). An AMO that no AtomicOp performs has no leaf with AFB: HOST_ATOMIC_UR (assumption log 49). -/
def svcHost (s : State) (a : Nat) (o : SvcOp) : State :=
  match o with
  | .sc _ _ => s.svc .ok (svcAnswer o false 0)
  | .write _ _ =>
    (match s.hostAsk .engine (svcHostOp a o) with
    | (s, some (st, _)) => s.svc st 0
    | (s, none) => s.svc .ok 0)
  | .read n =>
    (match s.hostAsk .svc (svcHostOp a o) with
    | (s, none) => s
    | (s, some (.ok, v)) => s.svc .ok (BitVec.ofNat 64 (takeSec v.bytes (a % 64) n))
    | (s, some (st, _)) => s.svc st 0)
  | .amo f n v =>
    if !HomeOp_atomicOp (.atom a (amoAop f) (amoTy f n) v 0) then s.svc (.fault 0x20) 0
    else match s.hostAsk .svc (svcHostOp a o) with
    | (s, none) => s
    | (s, some (.ok, v)) => s.svc .ok (BitVec.ofNat 64 (takeSec v.bytes 0 n))
    | (s, some (st, _)) => s.svc st 0

/-- The weight-store window: writes go to the controllers, from I/O cores only (R531 rule 5; 12 R334). -/
def svcWeights (s : State) (io : Bool) (a : Nat) (o : SvcOp) : State :=
  if svcStores o && !io then s.svc (.fault 0) 0
  else if s.wsBad a (svcBytes o) && !svcStores o then s.svc (.fault 0x18) 0
  else
    let s := if svcStores o then s else s.bump 8 0 (a / 2 ^ 28 % 4) 1
    s.svcApply o false (s.wstore.num a (svcBytes o)) fun s x => s.weightWrite io a (svcBytes o) (toBytes (svcBytes o) x)

/-- An aligned access of a service core by where its address falls. -/
def svcAccess (s : State) (io : Bool) (off : Nat) (o : SvcOp) : State :=
  let a := gpaOf s.self off
  if off < s.pkg.caps.mem * 2 ^ 30 then
    if s.inSvc off then s.svcOwn a o else s.svcHome a o
  else if 0x8000000000000 ≤ off ∧ off < 0x8000100000000 then
    let w := off - 0x8000000000000
    s.svcApply o false (s.windowRead w (svcBytes o)) fun s x => (s.windowWrite w (svcBytes o) x, .ok)
  else if 0x8800000000000 ≤ off ∧ off < 0x8800000010000 then
    let w := off - 0x8800000000000
    s.svcApply o false (s.doorbellRead w (svcBytes o)) fun s x => (s.doorbellWrite w (svcBytes o) x, .ok)
  else if 0x9000000000000 ≤ off ∧ off < 0x9000040000000 then s.svcWeights io (off - 0x9000000000000) o
  else if 0xC000000000000 ≤ off ∧ off < 0x10000000000000 then s.svcHost a o
  else s.svc (.fault 0) 0

end State

/-- SERVICE_CORE_ACCESS (R530, R531): address bits [55:52] other than zero are an access fault in the core; a misaligned
access is one too, and in the weight-store window ALIGN (12 R331 rule 2). -/
def execServiceCoreAccess (ioCore : Bool) (addr : Nat) (op : SvcOp) (s : State) : Ans :=
  .next (if 2 ^ 52 ≤ addr then s.svc (.fault 0) 0
    else if addr % max 1 (svcBytes op) ≠ 0 then
      s.svc (.fault (if 0x9000000000000 ≤ addr ∧ addr < 0x9000040000000 then 0x08 else 0)) 0
    else s.svcAccess ioCore addr op)

end Sys2Proof.Machine
end

