-- ==== Sys2Proof/Machine/Dispatch.lean ====
section
/-! DEFINITION. One arm per constructor of Instr: what each instruction and each engine event does. -/

namespace Sys2Proof.Machine

/-- The effect of one instruction or event at a state. -/
def exec (i : Instr) (s : State) : Host.Outcome State Fault Refusal :=
  match i with
  | .nop h => Sys2Proof.Machine.execNop h s
  | .bra h => Sys2Proof.Machine.execBra h s
  | .brx g a => Sys2Proof.Machine.execBrx g a s
  | .call h k => Sys2Proof.Machine.execCall h k s
  | .callx g k a => Sys2Proof.Machine.execCallx g k a s
  | .ret g => Sys2Proof.Machine.execRet g s
  | .exit g => Sys2Proof.Machine.execExit g s
  | .alloc g n l => Sys2Proof.Machine.execAlloc g n l s
  | .plop h d a b c table => Sys2Proof.Machine.execPlop h d a b c table s
  | .pmov h d a => Sys2Proof.Machine.execPmov h d a s
  | .pmovNot h d a => Sys2Proof.Machine.execPmovNot h d a s
  | .sel h w64 d a b sel => Sys2Proof.Machine.execSel h w64 d a b sel s
  | .mov h w d a => Sys2Proof.Machine.execMov h w d a s
  | .movi h w64 d => Sys2Proof.Machine.execMovi h w64 d s
  | .shfl h m seg d a b => Sys2Proof.Machine.execShfl h m seg d a b s
  | .qswap h m d a => Sys2Proof.Machine.execQswap h m d a s
  | .qbcast h q d a => Sys2Proof.Machine.execQbcast h q d a s
  | .voteAll h d a => Sys2Proof.Machine.execVoteAll h d a s
  | .voteAny h d a => Sys2Proof.Machine.execVoteAny h d a s
  | .voteUni h d a => Sys2Proof.Machine.execVoteUni h d a s
  | .voteBallot h d a => Sys2Proof.Machine.execVoteBallot h d a s
  | .redux h op sgn d a => Sys2Proof.Machine.execRedux h op sgn d a s
  | .brk h code => Sys2Proof.Machine.execBrk h code s
  | .basteOff h => Sys2Proof.Machine.execBasteOff h s
  | .basteOn h a => Sys2Proof.Machine.execBasteOn h a s
  | .iadd h it sub sat d a b => Sys2Proof.Machine.execIadd h it sub sat d a b s
  | .iadd3 h it d a b c => Sys2Proof.Machine.execIadd3 h it d a b c s
  | .imul h it sat d a b => Sys2Proof.Machine.execImul h it sat d a b s
  | .imulh h it d a b => Sys2Proof.Machine.execImulh h it d a b s
  | .imad h it sat d a b c => Sys2Proof.Machine.execImad h it sat d a b c s
  | .imadW h it d a b c => Sys2Proof.Machine.execImadW h it d a b c s
  | .imin h it d a b => Sys2Proof.Machine.execImin h it d a b s
  | .imax h it d a b => Sys2Proof.Machine.execImax h it d a b s
  | .iabs h it sat d a => Sys2Proof.Machine.execIabs h it sat d a s
  | .isad h it d a b c => Sys2Proof.Machine.execIsad h it d a b c s
  | .log3 h table d a b c => Sys2Proof.Machine.execLog3 h table d a b c s
  | .shl h it clamp d a b => Sys2Proof.Machine.execShl h it clamp d a b s
  | .shr h it clamp d a b => Sys2Proof.Machine.execShr h it clamp d a b s
  | .sar h it clamp d a b => Sys2Proof.Machine.execSar h it clamp d a b s
  | .rot h it right d a b => Sys2Proof.Machine.execRot h it right d a b s
  | .fsh h right clamp d a b c => Sys2Proof.Machine.execFsh h right clamp d a b c s
  | .bfx h it d a b => Sys2Proof.Machine.execBfx h it d a b s
  | .bfi h it d a b c => Sys2Proof.Machine.execBfi h it d a b c s
  | .prmt h d a b c => Sys2Proof.Machine.execPrmt h d a b c s
  | .popc h w64 d a => Sys2Proof.Machine.execPopc h w64 d a s
  | .clz h w64 d a => Sys2Proof.Machine.execClz h w64 d a s
  | .ctz h w64 d a => Sys2Proof.Machine.execCtz h w64 d a s
  | .brev h w64 d a => Sys2Proof.Machine.execBrev h w64 d a s
  | .lea h shift sgn d a b => Sys2Proof.Machine.execLea h shift sgn d a b s
  | .idp4 h sa sb sat d a b c => Sys2Proof.Machine.execIdp4 h sa sb sat d a b c s
  | .idp2 h sa sb hi sat d a b c => Sys2Proof.Machine.execIdp2 h sa sb hi sat d a b c s
  | .icmp h it cc pp a b => Sys2Proof.Machine.execIcmp h it cc pp a b s
  | .i2p h a b => Sys2Proof.Machine.execI2p h a b s
  | .p2i h d => Sys2Proof.Machine.execP2i h d s
  | .fadd h m f d a b => Sys2Proof.Machine.execFadd h m f d a b s
  | .fmul h m f d a b => Sys2Proof.Machine.execFmul h m f d a b s
  | .ffma h m f d a b c => Sys2Proof.Machine.execFfma h m f d a b c s
  | .fmin h m f d a b => Sys2Proof.Machine.execFmin h m f d a b s
  | .fmax h m f d a b => Sys2Proof.Machine.execFmax h m f d a b s
  | .frnd h m f d a => Sys2Proof.Machine.execFrnd h m f d a s
  | .fclass h d a => Sys2Proof.Machine.execFclass h d a s
  | .fcmp h m cc pp a b => Sys2Proof.Machine.execFcmp h m cc pp a b s
  | .fsetmodeWmode h a => Sys2Proof.Machine.execFsetmodeWmode h a s
  | .fsetmodeRmode h d => Sys2Proof.Machine.execFsetmodeRmode h d s
  | .fsetmodeRstat h d => Sys2Proof.Machine.execFsetmodeRstat h d s
  | .fsetmodeCstat h a => Sys2Proof.Machine.execFsetmodeCstat h a s
  | .dadd h m f d a b => Sys2Proof.Machine.execDadd h m f d a b s
  | .dmul h m f d a b => Sys2Proof.Machine.execDmul h m f d a b s
  | .dfma h m f d a b c => Sys2Proof.Machine.execDfma h m f d a b c s
  | .dmin h m f d a b => Sys2Proof.Machine.execDmin h m f d a b s
  | .dmax h m f d a b => Sys2Proof.Machine.execDmax h m f d a b s
  | .dcmp h m cc pp a b => Sys2Proof.Machine.execDcmp h m cc pp a b s
  | .hadd2 h m f d a b => Sys2Proof.Machine.execHadd2 h m f d a b s
  | .hmul2 h m f d a b => Sys2Proof.Machine.execHmul2 h m f d a b s
  | .hfma2 h m f d a b c => Sys2Proof.Machine.execHfma2 h m f d a b c s
  | .hmnmx2 h m f max d a b => Sys2Proof.Machine.execHmnmx2 h m f max d a b s
  | .badd2 h m f d a b => Sys2Proof.Machine.execBadd2 h m f d a b s
  | .bmul2 h m f d a b => Sys2Proof.Machine.execBmul2 h m f d a b s
  | .bfma2 h m f d a b c => Sys2Proof.Machine.execBfma2 h m f d a b c s
  | .qadd4 h m f e5m2 sat d a b => Sys2Proof.Machine.execQadd4 h m f e5m2 sat d a b s
  | .qmul4 h m f e5m2 sat d a b => Sys2Proof.Machine.execQmul4 h m f e5m2 sat d a b s
  | .qfma4 h m f e5m2 sat d a b c => Sys2Proof.Machine.execQfma4 h m f e5m2 sat d a b c s
  | .cvt h m fd fs pack sat d a => Sys2Proof.Machine.execCvt h m fd fs pack sat d a s
  | .cvtmx h m e sat d a => Sys2Proof.Machine.execCvtmx h m e sat d a s
  | .cvtmxQ h m e sat d a b => Sys2Proof.Machine.execCvtmxQ h m e sat d a b s
  | .rcp h m f d a => Sys2Proof.Machine.execRcp h m f d a s
  | .rsq h m f d a => Sys2Proof.Machine.execRsq h m f d a s
  | .sqrt h m f d a => Sys2Proof.Machine.execSqrt h m f d a s
  | .ex2 h m f d a => Sys2Proof.Machine.execEx2 h m f d a s
  | .lg2 h m f d a => Sys2Proof.Machine.execLg2 h m f d a s
  | .sin h m f d a => Sys2Proof.Machine.execSin h m f d a s
  | .cos h m f d a => Sys2Proof.Machine.execCos h m f d a s
  | .tanh h m f d a => Sys2Proof.Machine.execTanh h m f d a s
  | .hrand h d a b c => Sys2Proof.Machine.execHrand h d a b c s
  | .drop h t d a b c => Sys2Proof.Machine.execDrop h t d a b c s
  | .ld h w sx spc nb hnt d a => Sys2Proof.Machine.execLd h w sx spc nb hnt d a s
  | .st h w spc hnt a b => Sys2Proof.Machine.execSt h w spc hnt a b s
  | .ldv h w spc nb hnt d a => Sys2Proof.Machine.execLdv h w spc nb hnt d a s
  | .ldw h w sx nb d a => Sys2Proof.Machine.execLdw h w sx nb d a s
  | .atom h op ty ord scp spc d a b c => Sys2Proof.Machine.execAtom h op ty ord scp spc d a b c s
  | .atomf h op bf16 ord scp spc d a b => Sys2Proof.Machine.execAtomf h op bf16 ord scp spc d a b s
  | .cas h w64 ord scp spc d a b c => Sys2Proof.Machine.execCas h w64 ord scp spc d a b c s
  | .cas128 h ord scp spc d a b c => Sys2Proof.Machine.execCas128 h ord scp spc d a b c s
  | .red h op ty ord scp spc a b c => Sys2Proof.Machine.execRed h op ty ord scp spc a b c s
  | .pref h llc hnt a => Sys2Proof.Machine.execPref h llc hnt a s
  | .xbeg h d => Sys2Proof.Machine.execXbeg h d s
  | .xend h d => Sys2Proof.Machine.execXend h d s
  | .xabt h code => Sys2Proof.Machine.execXabt h code s
  | .lda h w sx spc scp hnt d a => Sys2Proof.Machine.execLda h w sx spc scp hnt d a s
  | .strel h w spc scp hnt a b => Sys2Proof.Machine.execStrel h w spc scp hnt a b s
  | .fenceAcq g scp => Sys2Proof.Machine.execFenceAcq g scp s
  | .fenceRel g scp => Sys2Proof.Machine.execFenceRel g scp s
  | .fenceAr g scp => Sys2Proof.Machine.execFenceAr g scp s
  | .cflush h a b => Sys2Proof.Machine.execCflush h a b s
  | .cinv h a b => Sys2Proof.Machine.execCinv h a b s
  | .czero h a b => Sys2Proof.Machine.execCzero h a b s
  | .cpy g dspc sspc bar dist hnt a b c => Sys2Proof.Machine.execCpy g dspc sspc bar dist hnt a b c s
  | .cpym g sspc bar len a b c => Sys2Proof.Machine.execCpym g sspc bar len a b c s
  | .cseal h d => Sys2Proof.Machine.execCseal h d s
  | .cwait h a => Sys2Proof.Machine.execCwait h a s
  | .crdptr h n d => Sys2Proof.Machine.execCrdptr h n d s
  | .cfixq h d => Sys2Proof.Machine.execCfixq h d s
  | .bari h n a b => Sys2Proof.Machine.execBari h n a b s
  | .bara h n => Sys2Proof.Machine.execBara h n s
  | .barw h n => Sys2Proof.Machine.execBarw h n s
  | .barx h n b => Sys2Proof.Machine.execBarx h n b s
  | .fput g a b c => Sys2Proof.Machine.execFput g a b c s
  | .fget g a b c => Sys2Proof.Machine.execFget g a b c s
  | .fsigSet g a b => Sys2Proof.Machine.execFsigSet g a b s
  | .fsigAdd g a b => Sys2Proof.Machine.execFsigAdd g a b s
  | .fred g op fmt id a b c => Sys2Proof.Machine.execFred g op fmt id a b c s
  | .fatom g op ty ord scp d a b c => Sys2Proof.Machine.execFatom g op ty ord scp d a b c s
  | .spawn h a b => Sys2Proof.Machine.execSpawn h a b s
  | .yield h => Sys2Proof.Machine.execYield h s
  | .waitmem h cc a b => Sys2Proof.Machine.execWaitmem h cc a b s
  | .sleep h a => Sys2Proof.Machine.execSleep h a s
  | .trap g n => Sys2Proof.Machine.execTrap g n s
  | .eret g => Sys2Proof.Machine.execEret g s
  | .srd h d => Sys2Proof.Machine.execSrd h d s
  | .swr h a => Sys2Proof.Machine.execSwr h a s
  | .halt g => Sys2Proof.Machine.execHalt g s
  | .tlbiPage h a b => Sys2Proof.Machine.execTlbiPage h a b s
  | .tlbiAsid h b => Sys2Proof.Machine.execTlbiAsid h b s
  | .tlbiAll h => Sys2Proof.Machine.execTlbiAll h s
  | .tileNop len => Sys2Proof.Machine.execTileNop len s
  | .tswr ctl v => Sys2Proof.Machine.execTswr ctl v s
  | .tsrd ctl off => Sys2Proof.Machine.execTsrd ctl off s
  | .tld d hnt tr addr stride => Sys2Proof.Machine.execTld d hnt tr addr stride s
  | .tst a tr addr stride => Sys2Proof.Machine.execTst a tr addr stride s
  | .tzero d => Sys2Proof.Machine.execTzero d s
  | .tmov d a => Sys2Proof.Machine.execTmov d a s
  | .tsend port a => Sys2Proof.Machine.execTsend port a s
  | .trecv port d => Sys2Proof.Machine.execTrecv port d s
  | .tarrive n => Sys2Proof.Machine.execTarrive n s
  | .twait n => Sys2Proof.Machine.execTwait n s
  | .tloop n off trip => Sys2Proof.Machine.execTloop n off trip s
  | .tbra off => Sys2Proof.Machine.execTbra off s
  | .tend => Sys2Proof.Machine.execTend s
  | .tmma d a b fa fb facc acc => Sys2Proof.Machine.execTmma d a b fa fb facc acc s
  | .tmmax d a b fa fb facc acc set => Sys2Proof.Machine.execTmmax d a b fa fb facc acc set s
  | .tmmas d a b c fa fb facc acc => Sys2Proof.Machine.execTmmas d a b c fa fb facc acc s
  | .tadd d a b f => Sys2Proof.Machine.execTadd d a b f s
  | .tscale d a f rnd factor => Sys2Proof.Machine.execTscale d a f rnd factor s
  | .tcvt d a fd fs sat rnd => Sys2Proof.Machine.execTcvt d a fd fs sat rnd s
  | .routeHeadFlit router cls => Sys2Proof.Machine.execRouteHeadFlit router cls s
  | .creditReturn router port cls esc => Sys2Proof.Machine.execCreditReturn router port cls esc s
  | .readyWaitFavour blk grp => Sys2Proof.Machine.execReadyWaitFavour blk grp s
  | .groupWaitPriority blk grp => Sys2Proof.Machine.execGroupWaitPriority blk grp s
  | .spillFrame blk grp lane => Sys2Proof.Machine.execSpillFrame blk grp lane s
  | .fillFrame blk grp lane => Sys2Proof.Machine.execFillFrame blk grp lane s
  | .bastingEntry blk grp => Sys2Proof.Machine.execBastingEntry blk grp s
  | .bastingEnd blk grp => Sys2Proof.Machine.execBastingEnd blk grp s
  | .nonbindingReadFill core sec => Sys2Proof.Machine.execNonbindingReadFill core sec s
  | .storeQueueRetire blk grp => Sys2Proof.Machine.execStoreQueueRetire blk grp s
  | .postedAck core id => Sys2Proof.Machine.execPostedAck core id s
  | .loadDataReturn acc => Sys2Proof.Machine.execLoadDataReturn acc s
  | .storeFaultDeferred core id code => Sys2Proof.Machine.execStoreFaultDeferred core id code s
  | .transactionTimeout blk grp lane => Sys2Proof.Machine.execTransactionTimeout blk grp lane s
  | .carveRequest v => Sys2Proof.Machine.execCarveRequest v s
  | .carveComplete core => Sys2Proof.Machine.execCarveComplete core s
  | .pubReq core who seq => Sys2Proof.Machine.execPubReq core who seq s
  | .pubAck pkg core pw st => Sys2Proof.Machine.execPubAck pkg core pw st s
  | .gets core sec => Sys2Proof.Machine.execGets core sec s
  | .getx core sec => Sys2Proof.Machine.execGetx core sec s
  | .getz core sec => Sys2Proof.Machine.execGetz core sec s
  | .upg core sec => Sys2Proof.Machine.execUpg core sec s
  | .cflq core sec => Sys2Proof.Machine.execCflq core sec s
  | .cinvq core sec => Sys2Proof.Machine.execCinvq core sec s
  | .sliceFifoHead sec => Sys2Proof.Machine.execSliceFifoHead sec s
  | .fwdGets core sec => Sys2Proof.Machine.execFwdGets core sec s
  | .fwdGetx core sec => Sys2Proof.Machine.execFwdGetx core sec s
  | .fwdWb core sec => Sys2Proof.Machine.execFwdWb core sec s
  | .fwdWbi core sec => Sys2Proof.Machine.execFwdWbi core sec s
  | .inv cluster sec => Sys2Proof.Machine.execInv cluster sec s
  | .dataS core sec => Sys2Proof.Machine.execDataS core sec s
  | .dataE core sec => Sys2Proof.Machine.execDataE core sec s
  | .dataM core sec => Sys2Proof.Machine.execDataM core sec s
  | .fwdData core sec => Sys2Proof.Machine.execFwdData core sec s
  | .putc core sec => Sys2Proof.Machine.execPutc core sec s
  | .putm core sec => Sys2Proof.Machine.execPutm core sec s
  | .upgAck core sec => Sys2Proof.Machine.execUpgAck core sec s
  | .upgMiss core sec => Sys2Proof.Machine.execUpgMiss core sec s
  | .invAck cluster sec => Sys2Proof.Machine.execInvAck cluster sec s
  | .done core sec => Sys2Proof.Machine.execDone core sec s
  | .wbAck core sec => Sys2Proof.Machine.execWbAck core sec s
  | .mntAck core sec => Sys2Proof.Machine.execMntAck core sec s
  | .memoryReadComplete sec => Sys2Proof.Machine.execMemoryReadComplete sec s
  | .memoryWriteComplete sec => Sys2Proof.Machine.execMemoryWriteComplete sec s
  | .homeComplete sec => Sys2Proof.Machine.execHomeComplete sec s
  | .l1Evict core sec => Sys2Proof.Machine.execL1Evict core sec s
  | .llcEvict sec => Sys2Proof.Machine.execLlcEvict sec s
  | .llcRecallComplete sec => Sys2Proof.Machine.execLlcRecallComplete sec s
  | .llcSoftError sec inData => Sys2Proof.Machine.execLlcSoftError sec inData s
  | .copySliceDone blk coll grp => Sys2Proof.Machine.execCopySliceDone blk coll grp s
  | .holdBufferAck cluster id dst => Sys2Proof.Machine.execHoldBufferAck cluster id dst s
  | .weightStoreWrite ioCore addr nbytes v => Sys2Proof.Machine.execWeightStoreWrite ioCore addr nbytes v s
  | .refreshWindowStart die group => Sys2Proof.Machine.execRefreshWindowStart die group s
  | .refreshWindowEnd die group => Sys2Proof.Machine.execRefreshWindowEnd die group s
  | .tileStreamFetch blk => Sys2Proof.Machine.execTileStreamFetch blk s
  | .cuffTransferComplete core port => Sys2Proof.Machine.execCuffTransferComplete core port s
  | .matrixFormComplete blk copy => Sys2Proof.Machine.execMatrixFormComplete blk copy s
  | .scaleCacheFill blk copy line => Sys2Proof.Machine.execScaleCacheFill blk copy line s
  | .tileFault blk copy => Sys2Proof.Machine.execTileFault blk copy s
  | .fabricRequestArrival src seq low obit op => Sys2Proof.Machine.execFabricRequestArrival src seq low obit op s
  | .fabricResponse dst seq st v more => Sys2Proof.Machine.execFabricResponse dst seq st v more s
  | .fabricResend dst seq => Sys2Proof.Machine.execFabricResend dst seq s
  | .fabricDeadlineExpiry dst seq => Sys2Proof.Machine.execFabricDeadlineExpiry dst seq s
  | .abandon src seq => Sys2Proof.Machine.execAbandon src seq s
  | .migrationThreshold asid vpage home => Sys2Proof.Machine.execMigrationThreshold asid vpage home s
  | .linkTraining switch ids => Sys2Proof.Machine.execLinkTraining switch ids s
  | .collRegister hi => Sys2Proof.Machine.execCollRegister hi s
  | .collRegisterDone => Sys2Proof.Machine.execCollRegisterDone s
  | .resultChunk id chunk st contribs => Sys2Proof.Machine.execResultChunk id chunk st contribs s
  | .rdS src sec => Sys2Proof.Machine.execRdS src sec s
  | .rdX src sec => Sys2Proof.Machine.execRdX src sec s
  | .podUpg src sec => Sys2Proof.Machine.execPodUpg src sec s
  | .podDrop src sec => Sys2Proof.Machine.execPodDrop src sec s
  | .wb src sec v => Sys2Proof.Machine.execWb src sec v s
  | .fwdS home sec => Sys2Proof.Machine.execFwdS home sec s
  | .fwdX home sec => Sys2Proof.Machine.execFwdX home sec s
  | .fwdDg home sec => Sys2Proof.Machine.execFwdDg home sec s
  | .podInv home sec => Sys2Proof.Machine.execPodInv home sec s
  | .grantS home sec v => Sys2Proof.Machine.execGrantS home sec v s
  | .grantE home sec v => Sys2Proof.Machine.execGrantE home sec v s
  | .grantM home sec v => Sys2Proof.Machine.execGrantM home sec v s
  | .grantU home sec => Sys2Proof.Machine.execGrantU home sec s
  | .podFwdData src sec v dirty => Sys2Proof.Machine.execPodFwdData src sec v dirty s
  | .empty src sec => Sys2Proof.Machine.execEmpty src sec s
  | .podInvAck src sec => Sys2Proof.Machine.execPodInvAck src sec s
  | .podWbAck home sec => Sys2Proof.Machine.execPodWbAck home sec s
  | .dataAck home sec => Sys2Proof.Machine.execDataAck home sec s
  | .refuse home sec code => Sys2Proof.Machine.execRefuse home sec code s
  | .poisonNotice home sec => Sys2Proof.Machine.execPoisonNotice home sec s
  | .hostResponse sec v => Sys2Proof.Machine.execHostResponse sec v s
  | .homeDeadlineExpiry sec => Sys2Proof.Machine.execHomeDeadlineExpiry sec s
  | .mergeSweep => Sys2Proof.Machine.execMergeSweep s
  | .homCtlWrite v => Sys2Proof.Machine.execHomCtlWrite v s
  | .homCellSelect v => Sys2Proof.Machine.execHomCellSelect v s
  | .homCellStore v => Sys2Proof.Machine.execHomCellStore v s
  | .seamRead v => Sys2Proof.Machine.execSeamRead v s
  | .seamWrite v => Sys2Proof.Machine.execSeamWrite v s
  | .beaconSend => Sys2Proof.Machine.execBeaconSend s
  | .beacon pkg down => Sys2Proof.Machine.execBeacon pkg down s
  | .beaconSilence pkg => Sys2Proof.Machine.execBeaconSilence pkg s
  | .downNotice pkg down => Sys2Proof.Machine.execDownNotice pkg down s
  | .mndDeclare v => Sys2Proof.Machine.execMndDeclare v s
  | .mndRejoin v => Sys2Proof.Machine.execMndRejoin v s
  | .walkEntryVisit cell idx => Sys2Proof.Machine.execWalkEntryVisit cell idx s
  | .walkLineVisit cell sec => Sys2Proof.Machine.execWalkLineVisit cell sec s
  | .walkEnd => Sys2Proof.Machine.execWalkEnd s
  | .tableWalk cluster asid vpage write => Sys2Proof.Machine.execTableWalk cluster asid vpage write s
  | .xltShootPage v => Sys2Proof.Machine.execXltShootPage v s
  | .xltShootAsid v => Sys2Proof.Machine.execXltShootAsid v s
  | .xltShootAll v => Sys2Proof.Machine.execXltShootAll v s
  | .xltShootRefused v => Sys2Proof.Machine.execXltShootRefused v s
  | .shootdownComplete => Sys2Proof.Machine.execShootdownComplete s
  | .queueDoorbell v => Sys2Proof.Machine.execQueueDoorbell v s
  | .recordTake queue => Sys2Proof.Machine.execRecordTake queue s
  | .gridAdmit queue => Sys2Proof.Machine.execGridAdmit queue s
  | .blockPlace queue cluster cores quads => Sys2Proof.Machine.execBlockPlace queue cluster cores quads s
  | .joinDecrement grid => Sys2Proof.Machine.execJoinDecrement grid s
  | .joinPush queue => Sys2Proof.Machine.execJoinPush queue s
  | .spawnPush blk grp lane => Sys2Proof.Machine.execSpawnPush blk grp lane s
  | .progressPreempt blk => Sys2Proof.Machine.execProgressPreempt blk s
  | .watchdogExpiry grid => Sys2Proof.Machine.execWatchdogExpiry grid s
  | .dspScmdStop v => Sys2Proof.Machine.execDspScmdStop v s
  | .dspScmdRetry v => Sys2Proof.Machine.execDspScmdRetry v s
  | .dspScmdReload v => Sys2Proof.Machine.execDspScmdReload v s
  | .dspScmdRefused v => Sys2Proof.Machine.execDspScmdRefused v s
  | .yieldTimeout blk grp lane => Sys2Proof.Machine.execYieldTimeout blk grp lane s
  | .waitmemRecheck blk grp lane => Sys2Proof.Machine.execWaitmemRecheck blk grp lane s
  | .sleepEnd blk grp lane => Sys2Proof.Machine.execSleepEnd blk grp lane s
  | .faultContain core => Sys2Proof.Machine.execFaultContain core s
  | .haltAccept core => Sys2Proof.Machine.execHaltAccept core s
  | .contextSaveComplete blk => Sys2Proof.Machine.execContextSaveComplete blk s
  | .contextRestore idx cluster cores quads => Sys2Proof.Machine.execContextRestore idx cluster cores quads s
  | .trpRelease v => Sys2Proof.Machine.execTrpRelease v s
  | .machineCheck causes => Sys2Proof.Machine.execMachineCheck causes s
  | .linkEnable => Sys2Proof.Machine.execLinkEnable s
  | .linkDisable => Sys2Proof.Machine.execLinkDisable s
  | .linkUp cxl => Sys2Proof.Machine.execLinkUp cxl s
  | .linkDown => Sys2Proof.Machine.execLinkDown s
  | .heartbeatSend => Sys2Proof.Machine.execHeartbeatSend s
  | .hstHbin v => Sys2Proof.Machine.execHstHbin v s
  | .hostSilence => Sys2Proof.Machine.execHostSilence s
  | .hostMemRequest pa write own v => Sys2Proof.Machine.execHostMemRequest pa write own v s
  | .hostBarWrite off nbytes v => Sys2Proof.Machine.execHostBarWrite off nbytes v s
  | .hostWriteSend id => Sys2Proof.Machine.execHostWriteSend id s
  | .hostReadCompletion id err v => Sys2Proof.Machine.execHostReadCompletion id err v s
  | .hostRequestDeadline id => Sys2Proof.Machine.execHostRequestDeadline id s
  | .atomicopCompletion id v => Sys2Proof.Machine.execAtomicopCompletion id v s
  | .atomicopUr id => Sys2Proof.Machine.execAtomicopUr id s
  | .coherentFallback id v => Sys2Proof.Machine.execCoherentFallback id v s
  | .ioqDoorbellTail q v => Sys2Proof.Machine.execIoqDoorbellTail q v s
  | .ioqDoorbellHead q v => Sys2Proof.Machine.execIoqDoorbellHead q v s
  | .serviceCoreAccess ioCore addr op => Sys2Proof.Machine.execServiceCoreAccess ioCore addr op s
  | .throttle power temp => Sys2Proof.Machine.execThrottle power temp s
  | .packageReset strap => Sys2Proof.Machine.execPackageReset strap s
  | .firmwareBoot image => Sys2Proof.Machine.execFirmwareBoot image s
  | .mgtPkgidWrite id => Sys2Proof.Machine.execMgtPkgidWrite id s
  | .spdmRequest nonce => Sys2Proof.Machine.execSpdmRequest nonce s
  | .registerWrite inst num v => Sys2Proof.Machine.execRegisterWrite inst num v s
  | .throttleEnd power temp => Sys2Proof.Machine.execThrottleEnd power temp s
  | .weightStoreWriteComplete => Sys2Proof.Machine.execWeightStoreWriteComplete s
  | .hostWriteDeadline id => Sys2Proof.Machine.execHostWriteDeadline id s

end Sys2Proof.Machine
end

