-- ==== Sys2Proof/Machine/Place.lean ====
section
/-! DEFINITION. A machine in which one instruction stands where the next step fetches: a resident block of ASID 0 with
one group, its line in the instruction cache, or with a tile stream that holds it. It stands for the loading of a program from
outside (assumption log 10). -/

namespace Sys2Proof.Machine

/-- The 32 words of a line whose first instruction is the given words: a header, the words, zeros. -/
def lineOf (ws : List Word) : List Word := 0xFFFFFFFE :: ws ++ List.replicate (31 - ws.length) 0

/-- A privileged thread at the first instruction of line 0. -/
def Thread.placed : Thread := { Thread.start with pc := 4, priv := true, v := List.replicate 64 0, live := 64 }

/-- A started group of such threads on core 0. -/
def Group.placed : Group := { Group.start with started := true, threads := List.replicate 32 Thread.placed }

/-- A copy of a tile stream of one line. -/
def Tile.placed (ws : List Word) : Tile where
  core := 0
  cidx := 0
  buf := lineOf ws
  lines := 1
  base := 0
  tiles := List.replicate 16 []
  bad := []
  ctl := []
  stok := List.replicate 16 0
  deferred := none
  spc := 1
  ended := false
  fault := none
  wait := .none
  partials := []
  rowp := none
  rowBusy := false
  issued := false
  scale := []
  retries := 0
  retryPc := 0

/-- A resident block of ASID 0 whose tile copies are given. -/
def Block.placed (ts : List Tile) : Block where
  gridid := 1
  stream := 0
  asid := 0
  blkid := 0
  nblk := 1
  fr := { LFrame.zero with ws := true, scratch := 4096 }
  record := ⟨0, 0, 0, false, 0⟩
  cluster := 0
  cores := [0]
  scratch := []
  scrOff := [0]
  nb := List.replicate 16 Barrier.reset
  cwp := List.replicate 8 0
  colls := []
  abandoned := false
  fixups := []
  replaying := false
  tiles := ts
  timer := 0
  heldMark := false
  halting := []
  slot := none
  roomFor := none
  killed := false
  groups := [Group.placed]

/-- The words of an instruction numbered as the opcode table numbers it. -/
def tableWords (nbits w : Nat) : List Word := (List.range 4).map fun k => BitVec.ofNat 32 (w % 2 ^ nbits / 2 ^ (32 * k))

/-- Place an instruction where the next step fetches it. -/
def State.placeWord (s : State) (nbits w : Nat) : State :=
  let ws := tableWords nbits w
  if tileOpcode (ws.getD 0 0) then
    { s with blocks := put 0 (Block.placed [Tile.placed ws]) s.blocks, agenda := [.tile 0 0], cur := .none }
  else
    let s := s.modCore 0 fun c => { c with
      icache := ⟨0, 0, lineOf ws, true, true⟩ :: c.icache.filter fun e => !(e.asid == 0 && e.line == 0) }
    { s with blocks := put 0 (Block.placed []) s.blocks, agenda := [.issue 0 0], cur := .none }

end Sys2Proof.Machine
end

