-- ==== Sys2Proof/Machine/Schedule.lean ====
section
/-! DEFINITION. What a quadrant issues in one cclk: the order of its groups, the trial of each in turn, instruction
fetch with its faults, and the wait counts (02 R39 to R42; 04 R106 to R114; 20 R501). run is the meaning of an
instruction. -/

namespace Sys2Proof.Machine

/-- A resident group with its block and its number. -/
structure Cand where
  blk : Nat
  grp : Nat
  y : Group

/-- The older of two groups (R104). -/
def Cand.before (a b : Cand) : Bool := a.y.age < b.y.age || (a.y.age == b.y.age && a.y.slot ≤ b.y.slot)

/-- Insert a group by age. -/
def insertAge (c : Cand) : List Cand → List Cand
  | [] => [c]
  | d :: t => if c.before d then c :: d :: t else d :: insertAge c t

/-- Oldest first. -/
def byAge (l : List Cand) : List Cand := l.foldl (fun t c => insertAge c t) []

namespace State

/-- The groups that may issue: started, not ended nor halting, and in no stopped package (22 R547). -/
def groupsUp (s : State) : List Cand :=
  if s.pkg.stopped then [] else s.blocks.flatMap fun (b, x) => x.groups.zipIdx.filterMap fun (y, g) =>
    if y.started ∧ !y.ended ∧ !x.halting.contains y.core then some ⟨b, g, y⟩ else none

/-- Those of a quadrant. -/
def groupsOn (s : State) (core quad : Nat) : List Cand := s.groupsUp.filter fun c => c.y.core == core && c.y.quad == quad

/-- The lanes of a group's issue group at a PC (R107 rule 2). -/
def lanesAt (s : State) (b : Nat) (y : Group) (pc : Nat) : List Nat :=
  (s.eligible b y).filter fun l => (y.threads[l]?).any (·.pc == pc)

/-- The order in which the groups of one class are tried (R113 rules 2 to 4). -/
def classOrder (s : State) (core quad cls : Nat) (l : List Cand) : List Cand :=
  let old := byAge l
  let late (c : Cand) : Bool := 4096 ≤ c.y.waits || c.y.prio
  let recent (c : Cand) : Bool := (s.core core).lastGrp.contains (2 * quad + cls, c.blk, c.grp)
  old.filter late ++ (old.filter fun c => !late c && recent c) ++ old.filter fun c => !late c && !recent c

/-- The order in which a quadrant tries its groups (R113): the active system-class groups, then the ordinary ones. -/
def issueOrder (s : State) (core quad : Nat) : List Cand :=
  let l := s.groupsOn core quad
  s.classOrder core quad 1 (l.filter fun c => c.y.system && c.y.active)
    ++ s.classOrder core quad 0 (l.filter fun c => !c.y.system)

/-- Fetch the line of an issue group for the lanes of one mode: the state, the words, whether the fetch waits, and the
faults. -/
def fetchMode (s : State) (c : Cand) (priv : Bool) (pc npc : Nat) (ls : List Nat) :
    State × List Word × Bool × List (Nat × Flt × Nat) :=
  if ls = [] then (s, [], false, [])
  else
    match s.fetchLine c.blk c.y.core priv (pc / 128 * 128) with
    | (s, .line ws) => (s, ws, false, [])
    | (s, .wait) => (s, [], true, [])
    | (s, .fault code br) =>
      (s, [], false, ls.map fun l => (l, { Flt.sync code pc npc pc with fetch := true, broken := br }, pc))

/-- Faults of an issue group's threads before its instruction is known: a basting group stops basting instead
(08 R242). -/
def earlyFault (s : State) (c : Cand) (fs : List (Nat × Flt × Nat)) : State :=
  if c.y.bast.isSome then (s.bastingOver c.blk c.grp).endTurn else (s.takeFaults c.blk c.grp fs).endTurn

/-- Faults of the issue group of this turn. -/
def faultGroup (s : State) (c : Cand) (cu : Cur) (fs : List (Nat × Flt × Nat)) : State := (s.countIssue cu).earlyFault c fs

/-- What stands at the PC of an issue group, performed: a decode fault strikes the guard-true threads, the others move
on (R41, R48, R115). -/
def perform (run : Instr → State → Ans) (s : State) (c : Cand) (pc : Nat) (ls : List Nat) (ws : List Word) : Ans :=
  match framedAt ws pc with
  | .framing npc unknown =>
    .next (s.faultGroup c ⟨c.blk, c.grp, maskLanes ls, pc, npc⟩ (ls.map fun l => (l, { Flt.sync 0x02 pc npc 0 with fetch := unknown }, pc)))
  | .bad code g npc =>
    let cu : Cur := ⟨c.blk, c.grp, maskLanes ls, pc, npc⟩
    let gt := match g with
      | some g => s.guardTrue cu g
      | none => ls
    if gt = [] then .next (s.advance cu).endTurn
    else .next (s.faultGroup c cu (gt.map fun l => (l, Flt.sync code pc npc 0, pc)))
  | .ins i npc => run i { s with cur := .simt ⟨c.blk, c.grp, maskLanes ls, pc, npc⟩ }

/-- Try to issue what stands at a PC for the lanes of a group there. The issue turn is over, with cur none, where something
issued. A line that this turn fetched may show a convergence point at which others are waited for (R117). -/
def tryAt (run : Instr → State → Ans) (s : State) (c : Cand) (pc : Nat) (ls : List Nat) : Ans :=
  let cu : Cur := ⟨c.blk, c.grp, maskLanes ls, pc, pc⟩
  let s := { s with cur := .simt cu }
  let priv (l : Nat) : Bool := (c.y.threads[l]?).any (·.priv)
  let npc := nextPc [] (pc / 128 * 128) (pc % 128 / 4) 1
  let (s, w1, t1, f1) := s.fetchMode c false pc npc (ls.filter fun l => !priv l)
  let (s, w2, t2, f2) := s.fetchMode c true pc npc (ls.filter priv)
  if t1 || t2 then .next s
  else if f1 ++ f2 ≠ [] then .next (s.faultGroup c cu (f1 ++ f2))
  else if !ls.all (s.lanesAt c.blk c.y pc).contains then .next s
  else s.perform run c pc ls (if w1 = [] then w2 else w1)

/-- A trial used up the turn: something issued. -/
def issued : Ans → Bool
  | .next t => t.cur == .none
  | _ => true

/-- An eligible thread is ready (R106): what stands at its PC would issue, its operands being there and its engine
accepting it. -/
def laneReady (run : Instr → State → Ans) (s : State) (c : Cand) (l : Nat) : Bool :=
  (c.y.threads[l]?).any fun t => issued (s.tryAt run c t.pc [l])

/-- The PC that a group issues at, and the group with its favoured thread (R111). -/
def chosen (run : Instr → State → Ans) (s : State) (c : Cand) : Group × Option Nat :=
  s.choosePc c.blk c.y (s.laneReady run c)

/-- Try to issue for one group. -/
def tryGroup (run : Instr → State → Ans) (s : State) (c : Cand) : Ans :=
  let c := { c with y := (s.grp? c.blk c.grp).getD c.y }
  let (y, pc) := s.chosen run c
  let s := s.modGrp c.blk c.grp fun z => { z with fav := y.fav }
  match pc with
  | none => .next { s with cur := .simt ⟨c.blk, c.grp, 0, 0, 0⟩ }
  | some pc => s.tryAt run c pc (s.lanesAt c.blk c.y pc)

/-- A group could issue in this cclk. -/
def canIssue (run : Instr → State → Ans) (s : State) (c : Cand) : Bool := issued (s.tryGroup run c)

/-- The instruction cache lacks the line at the PC that a group would issue at. -/
def uncached (run : Instr → State → Ans) (s : State) (c : Cand) : Bool :=
  match (s.chosen run c).2 with
  | some pc => (s.cachedAt c.y.core (((s.blk? c.blk).map (·.asid)).getD 0) pc).isNone
  | none => false

/-! ### The active set of the system class (R114) -/

/-- A thread waits in a fence: for the publishes of its core, or for those it asked others for. -/
def fenceWaits (s : State) (c : Cand) (t : Thread) (l : Nat) : Bool :=
  ((s.core c.y.core).drain.any fun d => d.demands.contains (c.blk, c.grp, l))
    || (!t.met.isEmpty && (s.cachedAt c.y.core (((s.blk? c.blk).map (·.asid)).getD 0) t.pc).any isAcqFence)

/-- A thread stands at a CWAIT. -/
def atWait (s : State) (c : Cand) (t : Thread) : Bool :=
  match s.cachedAt c.y.core (((s.blk? c.blk).map (·.asid)).getD 0) t.pc with
  | some (.ins (.cwait _ _) _) => true
  | _ => false

/-- A group waits on a returning access, a publish acknowledgement, a fetch that another package is to answer, or a wait
instruction. -/
def groupWaits (run : Instr → State → Ans) (s : State) (c : Cand) : Bool :=
  (s.accs.any fun a => a.blk == c.blk && a.grp == c.grp)
    || (c.y.threads.zipIdx.any fun (t, l) => !t.exited && (t.hold.isSome || s.fenceWaits c t l || s.atWait c t))
    || ((s.fab.unacked.any fun r => r.owner == .fetch c.y.core && r.result.isNone) && s.uncached run c)

/-- The active set of system-class groups of a quadrant: a group of it that waits goes to the tail of the pending set,
and the oldest pending groups that do not wait take the free places, to eight in all. -/
def rotateSystem (run : Instr → State → Ans) (s : State) (core quad : Nat) : State :=
  let sys := (s.groupsOn core quad).filter fun c => c.y.system
  let out := sys.filter fun c => c.y.active && s.groupWaits run c && !s.canIssue run c
  let s := out.foldl (fun s c => s.modGrp c.blk c.grp fun y => { y with active := false, pendAt := s.now }) s
  let stay := (sys.filter fun c => c.y.active).length - out.length
  let pend := (sys.filter fun c => !c.y.active && !s.groupWaits run c).foldl (fun t c =>
    (t.filter fun d => d.y.pendAt ≤ c.y.pendAt) ++ c :: t.filter fun d => c.y.pendAt < d.y.pendAt) []
  (pend.take (8 - stay)).foldl (fun s c => s.modGrp c.blk c.grp fun y => { y with active := true }) s

/-! ### The turn of a quadrant (R113) -/

/-- Try the groups in order until one issues: the state, and the group that issued. -/
def tryGroups (run : Instr → State → Ans) (s : State) : List Cand → Ans × Option Cand
  | [] => (.next { s with cur := .none }, none)
  | c :: cs =>
    match s.tryGroup run c with
    | .next t =>
      if t.cur = .none then (.next t, some c)
      else t.tryGroups run cs
    | o => (o, some c)

/-- The wait counts of groups after a cclk in which c issued at pc, or none of them did, from the state before it (R110,
R113). -/
def countWaits (run : Instr → State → Ans) (s0 s : State) (l : List Cand) (c : Option Cand) (pc : Nat) : State :=
  l.foldl (fun s d =>
    let won := c.any fun c => c.blk == d.blk && c.grp == d.grp
    let el := s0.eligible d.blk d.y
    let could := !won && (!d.y.system || d.y.active) && s0.canIssue run d
    s.modGrp d.blk d.grp fun y => { (y.modLanes el fun l t =>
      if won && (d.y.threads[l]?).any (·.pc == pc) then { t with ready := 0 }
      else if s0.laneReady run d l then { t with ready := min 4096 (t.ready + 1) }
      else { t with ready := 0 }) with
      waits := if won then 0 else if could then min 4096 (y.waits + 1) else y.waits }) s

/-- The YIELD holds of the other groups of a quadrant end when a group of it issues (19 R482). -/
def endYields (s : State) (core quad : Nat) (c : Cand) : State :=
  let wake (t : Thread) : Thread := match t.hold with
    | some (.yield _) => { t with hold := none }
    | _ => t
  (s.groupsOn core quad).foldl (fun s d =>
    if (d.blk == c.blk && d.grp == c.grp) || !d.y.threads.any (fun t => wake t != t) then s
    else s.modGrp d.blk d.grp fun y => { y with threads := y.threads.map wake }) s

/-- The turn of a quadrant. -/
def quadTurn (run : Instr → State → Ans) (s : State) (core quad : Nat) : Ans :=
  let s0 := s.rotateSystem run core quad
  match s0.tryGroups run (s0.issueOrder core quad) with
  | (.next s, c) =>
    let pc := ((c.bind fun c => (s0.chosen run c).2)).getD 0
    let s := countWaits run s0 s (s0.groupsOn core quad) c pc
    let s := match c with
      | some c => s.endYields core quad c
      | none => s
    .next (match c with
      | some c => s.modCore core fun x => { x with
          lastGrp := (x.lastGrp.filter fun (k, _, _) => k != 2 * quad + (if c.y.system then 1 else 0))
            ++ [(2 * quad + (if c.y.system then 1 else 0), c.blk, c.grp)] }
      | none => s)
  | (o, _) => o

/-- The quadrants that hold a group which could issue. -/
def readyQuads (run : Instr → State → Ans) (s : State) : List (Nat × Nat) :=
  (s.groupsUp.filter (s.canIssue run)).map fun c => (c.y.core, c.y.quad)

/-- The quadrants that hold a group whose next line is still to be fetched. -/
def fetchQuads (run : Instr → State → Ans) (s : State) : List (Nat × Nat) :=
  (s.groupsUp.filter (s.uncached run)).map fun c => (c.y.core, c.y.quad)

end State

end Sys2Proof.Machine
end

