-- ==== Sys2Proof/Machine/Step.lean ====
section
/-! DEFINITION. One step: the head of the agenda acts; with an empty agenda the first quadrant or tile copy that can
issue does. Placing one instruction where the next step fetches it. -/

namespace Sys2Proof.Machine

/-- One turn of an agent. -/
def turn (t : Turn) (s : State) : Host.Outcome State Fault Refusal :=
  match t with
  | .event i => exec i { s with cur := .none }
  | .issue core quad => s.quadTurn exec core quad
  | .tile b k => s.tileTurn exec b k
  | .copy b n g => .next (s.copyTurn b n g)
  | .fabric => .next s.fabricTurn
  | .soft e => .next (s.softError e)
  | .barRead off n => .next (s.barRead off n)
  | .mgtRead reg => .next (s.mgtRead reg)
  | .mgtWrite reg v => .next (s.mgtWrite reg v)

/-- The agent that acts with an empty agenda: a quadrant that can issue, a tile copy that can, a quadrant that is to fetch,
or the first quadrant. -/
def State.idleTurn (s : State) : Turn :=
  match s.readyQuads exec, s.readyTiles, s.fetchQuads exec with
  | (c, q) :: _, _, _ => .issue c q
  | [], (b, k) :: _, _ => .tile b k
  | [], [], (c, q) :: _ => .issue c q
  | [], [], [] => .issue 0 0

/-- A group is on the quadrant that a turn is given to. -/
def Turn.holds (t : Turn) (c : Cand) : Bool :=
  match t with
  | .issue core quad => c.y.core == core && c.y.quad == quad
  | _ => false

/-- The wait counts of the groups of every quadrant but the acting one, in a cclk in which none of them issues (R110,
R113). -/
def State.ticked (t : Turn) (s0 s : State) : State :=
  State.countWaits exec s0 s (s0.groupsUp.filter fun c => !t.holds c) none 0

/-- One cclk given to an agent. -/
def cclk (t : Turn) (s : State) : Host.Outcome State Fault Refusal :=
  match turn t s with
  | .next s' => .next (State.ticked t s s')
  | o => o

/-- One step of the machine: one cclk (assumption log 1 and 2). -/
def step (s : State) : Host.Outcome State Fault Refusal :=
  match s.agenda with
  | t :: rest => cclk t { s with agenda := rest, now := s.now + 1 }
  | [] => cclk s.idleTurn { s with now := s.now + 1 }

/-- The machine with one instruction placed where the next step fetches and runs it (assumption log 10). -/
def State.withFetchWord (s : State) (nbits w : Nat) : State := s.placeWord nbits w

end Sys2Proof.Machine
end

