-- ==== Sys2Proof/Safety.lean ====
section
/-! DEFINITION. What a safe run is: no step ends in a fault or a refusal, and the memories keep their canonical form. -/

namespace Sys2Proof.Machine

/-- A step that answers a next state. -/
def completes (o : Host.Outcome State Fault Refusal) : Bool :=
  match o with
  | .next _ => true
  | _ => false

/-- Every step of a run of n steps answers a next state. -/
def State.runsSafely (s : State) : Nat → Prop
  | 0 => True
  | n + 1 => ∃ t, step s = .next t ∧ t.runsSafely n

/-- The memories of a state are in canonical form: HBM, the weight store, and each block's scratchpad. -/
def State.memoriesWf (s : State) : Bool :=
  s.mem.wf && s.wstore.wf && s.blocks.all fun (_, x) => x.scratch.wf

end Sys2Proof.Machine
end

