-- ==== Sys2Proof/Certificates/Slice0/Obligations.lean ====
section
/-! DEFINITION. What is claimed of the machine: the statements for the provers. The definitions in Sys2Proof.Claim name
what several statements say in common: when an instruction is performed, and what it leaves. -/

open Sys2Proof Sys2Proof.Machine Host

namespace Sys2Proof.Claim

/-! ### When an instruction of an issue group is performed, and what it leaves -/

/-- The issue group c of group y issues i, whose guard is g, and nothing holds it back: the group is not basting, its
threads are ready, no guard-true lane is barred by its transaction, holds a deferred record that i takes, or fails the
window, privilege and uniform checks (04 R107, R115, R116, R122, R129). -/
def Issues (s : State) (c : Cur) (y : Group) (i : Instr) (g : Guard) : Prop :=
  s.cur = .simt c ∧ s.grp? c.blk c.grp = some y ∧ y.bast = none ∧ s.ready c i = true ∧
  ∀ l ∈ s.guardTrue c g, (s.inTxn c l = true → txnAllowed i = true) ∧
    (takesDeferred i = true → s.deferredChk c l = none) ∧ s.laneChecks c i l = .pass

/-- One byte of global memory, as every agent of the package reads it. -/
def byteAt (s : State) (a : Nat) : Nat := takeSec (s.cohRead (a / 64)).bytes (a % 64) 1

/-- What lies outside the issuing group: every byte of memory and of each scratchpad, the caches, the units of the
package and what they have delivered, the barriers, collectives and tile copies of every block, and every other group,
which may at most be let start (19 R474). -/
def Beside (c : Cur) (s t : State) : Prop :=
  (∀ a, byteAt t a = byteAt s a) ∧ t.mem = s.mem ∧ t.wstore = s.wstore ∧ t.cores = s.cores ∧ t.dir = s.dir
  ∧ t.net = s.net ∧ t.out = s.out ∧ t.xlt = s.xlt ∧ t.fab = s.fab ∧ t.hom = s.hom ∧ t.mnd = s.mnd ∧ t.trp = s.trp
  ∧ t.hst = s.hst ∧ t.pkg = s.pkg ∧ t.now = s.now
  ∧ (∀ b x, s.blk? b = some x → ∃ x', t.blk? b = some x' ∧ x'.scratch = x.scratch ∧ x'.nb = x.nb ∧ x'.colls = x.colls
      ∧ x'.tiles = x.tiles)
  ∧ ∀ b g z, ¬(b = c.blk ∧ g = c.grp) → s.grp? b g = some z →
      t.grp? b g = some z ∨ t.grp? b g = some { z with started := true }

/-- n registers from index r hold x, the lower register less significant, and no other register has changed. -/
def RegsSet (v v' : List Word) (r n x : Nat) : Prop :=
  v'.length = v.length ∧ (r + n ≤ v.length → regsVal v' r n = x % 2 ^ (32 * n))
  ∧ ∀ k, k < r ∨ r + n ≤ k → v'[k]? = v[k]?

/-- A thread as the issue leaves it where its instruction changes nothing else: moved to the next instruction if it is
of the issue group. -/
def after (c : Cur) (l : Nat) (u : Thread) : Thread := if c.lanes.getLsbD l then u.moved c else u

/-- A group without its threads, its S registers and the marks of its issue. -/
def bare (y : Group) : Group :=
  { y with threads := [], s := [], waits := 0, prio := false, started := false, issued := false }

/-- The group y becomes y', with what an instruction changes beside registers and threads already in z: its threads have
moved on, and its own effect on thread u of lane l is to make it eff l u. -/
def Threads (c : Cur) (y z y' : Group) (eff : Nat → Thread → Thread) : Prop :=
  bare y' = bare z ∧ y'.waits = 0 ∧ y'.prio = false ∧ y'.issued = true
  ∧ (y'.started = y.started ∨ y'.started = true)
  ∧ ∀ l, y'.threads[l]? = (y.threads[l]?).map fun u => eff l (after c l u)

/-- The destination d of n registers takes val l in each lane l of gt, or val of the lowest of them where d is an S
register, and thread u of lane l becomes e l u beside; no other register, no predicate and no other part of any thread
changes but by moving on. -/
def Writes (c : Cur) (gt : List Nat) (d : Opnd) (n : Nat) (val : Nat → Nat) (e : Nat → Thread → Thread)
    (y z y' : Group) : Prop :=
  ∃ vs : Nat → List Word, Threads c y z y' (fun l u => { e l u with v := vs l })
  ∧ (∀ l u, y.threads[l]? = some u → match d with
      | .v r => if l ∈ gt then RegsSet u.v (vs l) r.toNat n (val l) else vs l = u.v
      | _ => vs l = u.v)
  ∧ (match d with
      | .s r => (match gt.head? with
        | some l => RegsSet y.s y'.s r.toNat n (val l)
        | none => y'.s = y.s)
      | _ => y'.s = y.s)

/-- Nothing more happens to a thread. -/
def same (_ : Nat) (u : Thread) : Thread := u

/-- The value that a function of a lane's group and thread gives. -/
def laneVal (y : Group) (f : Group → Thread → Nat → Nat) (l : Nat) : Nat :=
  match y.threads[l]? with
  | some u => f y u l
  | none => 0

end Sys2Proof.Claim
namespace Sys2Proof.Claim

/-- The integer kind of an operand of one register or two. -/
def wide (w : Bool) : Kind := .int (cond w 64 32)

/-- The forms of the integer pipe and the moves that write one destination: guard, destination, its registers, and the
value of a lane (04 R140 to R144; 05 R155 to R168; 07 R222). -/
def valueOf : Instr → Option (Guard × Opnd × Nat × (Group → Thread → Nat → Nat))
  | .iadd h it sub sat d a b => some (h.g, d, it.regs, fun y t l =>
      iaddVal it sub sat (srcVal (itKind it) h.ext y t l a) (srcVal (itKind it) h.ext y t l b))
  | .iadd3 h it d a b c => some (h.g, d, it.regs, fun y t l => iadd3Val it (srcVal (itKind it) h.ext y t l a)
      (srcVal (itKind it) h.ext y t l b) (srcVal (itKind it) h.ext y t l c))
  | .imul h it sat d a b => some (h.g, d, it.regs, fun y t l =>
      imulVal it sat (srcVal (itKind it) h.ext y t l a) (srcVal (itKind it) h.ext y t l b))
  | .imulh h it d a b => some (h.g, d, it.regs, fun y t l =>
      imulhVal it (srcVal (itKind it) h.ext y t l a) (srcVal (itKind it) h.ext y t l b))
  | .imad h it sat d a b c => some (h.g, d, 1, fun y t l =>
      imadVal it sat (src32 h.ext y t l a) (src32 h.ext y t l b) (src32 h.ext y t l c))
  | .imadW h it d a b c => some (h.g, d, 2, fun y t l =>
      imadWVal it (src32 h.ext y t l a) (src32 h.ext y t l b) (src64 h.ext y t l c))
  | .imin h it d a b => some (h.g, d, it.regs, fun y t l =>
      iminVal it false (srcVal (itKind it) h.ext y t l a) (srcVal (itKind it) h.ext y t l b))
  | .imax h it d a b => some (h.g, d, it.regs, fun y t l =>
      iminVal it true (srcVal (itKind it) h.ext y t l a) (srcVal (itKind it) h.ext y t l b))
  | .iabs h it sat d a => some (h.g, d, it.regs, fun y t l => iabsVal it sat (srcVal (itKind it) h.ext y t l a))
  | .isad h it d a b c => some (h.g, d, 1, fun y t l => isadVal it (srcVal (itKind it) h.ext y t l a)
      (srcVal (itKind it) h.ext y t l b) (src32 h.ext y t l c))
  | .log3 h table d a b c => some (h.g, d, 1, fun y t l =>
      log3Val table (src32 h.ext y t l a) (src32 h.ext y t l b) (src32 h.ext y t l c))
  | .shl h it clamp d a b => some (h.g, d, it.regs, fun y t l =>
      shiftVal .left it clamp (srcVal (itKind it) h.ext y t l a) (srcVal (amountKind it) h.ext y t l b))
  | .shr h it clamp d a b => some (h.g, d, it.regs, fun y t l =>
      shiftVal .right it clamp (srcVal (itKind it) h.ext y t l a) (srcVal (amountKind it) h.ext y t l b))
  | .sar h it clamp d a b => some (h.g, d, it.regs, fun y t l =>
      shiftVal .arith it clamp (srcVal (itKind it) h.ext y t l a) (srcVal (amountKind it) h.ext y t l b))
  | .rot h it right d a b => some (h.g, d, it.regs, fun y t l =>
      rotVal it right (srcVal (itKind it) h.ext y t l a) (src32 h.ext y t l b))
  | .fsh h right clamp d a b c => some (h.g, d, 1, fun y t l =>
      fshVal right clamp (src32 h.ext y t l a) (src32 h.ext y t l b) (src32 h.ext y t l c))
  | .bfx h it d a b => some (h.g, d, it.regs, fun y t l =>
      bfxVal it (srcVal (itKind it) h.ext y t l a) (src32 h.ext y t l b))
  | .bfi h it d a b c => some (h.g, d, it.regs, fun y t l => bfiVal it (srcVal (itKind it) h.ext y t l a)
      (srcVal (itKind it) h.ext y t l b) (src32 h.ext y t l c))
  | .prmt h d a b c => some (h.g, d, 1, fun y t l =>
      prmtVal (src32 h.ext y t l a) (src32 h.ext y t l b) (src32 h.ext y t l c))
  | .popc h w d a => some (h.g, d, 1, fun y t l => popcVal (cond w 64 32) (srcVal (wide w) h.ext y t l a))
  | .clz h w d a => some (h.g, d, 1, fun y t l => clzVal (cond w 64 32) (srcVal (wide w) h.ext y t l a))
  | .ctz h w d a => some (h.g, d, 1, fun y t l => ctzVal (cond w 64 32) (srcVal (wide w) h.ext y t l a))
  | .brev h w d a => some (h.g, d, cond w 2 1, fun y t l => brevVal (cond w 64 32) (srcVal (wide w) h.ext y t l a))
  | .lea h shift sgn d a b => some (h.g, d, 2, fun y t l =>
      leaVal shift.toNat sgn (src64 h.ext y t l a) (src32 h.ext y t l b))
  | .idp4 h sa sb sat d a b c => some (h.g, d, 1, fun y t l =>
      idpVal 8 4 0 sa sb sat (srcVal (.pint 8) h.ext y t l a) (srcVal (.pint 8) h.ext y t l b) (src32 h.ext y t l c))
  | .idp2 h sa sb hi sat d a b c => some (h.g, d, 1, fun y t l =>
      idpVal 16 2 (cond hi 2 0) sa sb sat (srcVal (.pint 16) h.ext y t l a) (srcVal (.pint 8) h.ext y t l b) (src32 h.ext y t l c))
  | .p2i h d => some (h.g, d, 1, fun _ t _ => t.p.toNat)
  | .sel h w d a b sel => some (h.g, d, cond w 2 1, fun y t l => srcVal (wide w) h.ext y t l (if t.pred sel then a else b))
  | .mov h w d a => some (h.g, d, w.regs, fun y t l => srcVal (.int (32 * w.regs)) h.ext y t l a)
  | .movi h w d => some (h.g, d, cond w 2 1, fun _ _ _ => immVal (wide w) h.ext)
  | .shfl h m seg d a b => some (h.g, d, 1, fun y t l =>
      exchVal h.ext y (shflLane m (32 / 2 ^ seg.toNat) l (src32 h.ext y t l b)) a)
  | .qswap h m d a => some (h.g, d, 1, fun y _ l => exchVal h.ext y (Nat.xor l (m.toNat + 1)) a)
  | .qbcast h q d a => some (h.g, d, 1, fun y _ l => exchVal h.ext y (l / 4 * 4 + q.toNat) a)
  | .fsetmodeRmode h d => some (h.g, d, 1, fun y _ _ => y.fpmode.toNat)
  | .fsetmodeRstat h d => some (h.g, d, 1, fun y _ _ => y.fpstat.toNat)
  | _ => none

end Sys2Proof.Claim

/-- Every integer form and move with one destination, with every operand at every kind and length, completes: each
guard-true lane's destination takes the value of the lane's sources as they were, and nothing else changes. -/
def Obligations.ValueForms : Prop :=
  ∀ (i : Instr) (g : Guard) (d : Opnd) (n : Nat) (f : Group → Thread → Nat → Nat) (s : State) (c : Cur) (y : Group),
    Claim.valueOf i = some (g, d, n, f) → Claim.Issues s c y i g →
    ∃ t y', exec i s = .next t ∧ t.cur = .none ∧ t.grp? c.blk c.grp = some y'
      ∧ Claim.Writes c (s.guardTrue c g) d n (Claim.laneVal y f) Claim.same y y y' ∧ Claim.Beside c s t
namespace Sys2Proof.Claim

/-- What a floating form does with its lanes: guard, modifiers, whether it rounds with the effective mode, destination,
registers, and the value and flags of a lane under its rounding environment (07 R211 to R232). -/
structure FltShape where
  g : Guard
  m : FMod
  rounds : Bool
  d : Opnd
  n : Nat
  f : Group → Thread → Nat → FEnv → Nat × Flags

/-- Two- and three-source arithmetic on elements read with kind k. -/
def arith (h : Hd) (m : FMod) (sp : FSpec) (k : Kind) (cnt regs : Nat) (op : FArith) (ff : FF) (sat : Bool) (d a b : Opnd)
    (c : Option Opnd) : FltShape :=
  ⟨h.g, m, true, d, regs, fun y t l en => arithVal sp cnt op ff en sat (srcVal k h.ext y t l a) (srcVal k h.ext y t l b)
    ((c.map fun c => srcVal k h.ext y t l c).getD 0)⟩

/-- Minimum and maximum. -/
def minMax (h : Hd) (m : FMod) (sp : FSpec) (k : Kind) (cnt regs : Nat) (mx : Bool) (ff : FF) (d a b : Opnd) : FltShape :=
  ⟨h.g, m, false, d, regs, fun y t l en => minMaxVal sp cnt mx ff en (srcVal k h.ext y t l a) (srcVal k h.ext y t l b)⟩

/-- One FP32 source, prepared, then a function of it; the flags of both are raised. -/
def unary (h : Hd) (m : FMod) (rounds : Bool) (ff : FF) (fn : FEnv → Nat → Nat × Flags) (d a : Opnd) : FltShape :=
  ⟨h.g, m, rounds, d, 1, fun y t l en =>
    ((fn en (fpOperand fp32S en.fzi ff.na ff.aa (srcVal (.flt .fp32) h.ext y t l a)).1).1,
      (fpOperand fp32S en.fzi ff.na ff.aa (srcVal (.flt .fp32) h.ext y t l a)).2 |||
        (fn en (fpOperand fp32S en.fzi ff.na ff.aa (srcVal (.flt .fp32) h.ext y t l a)).1).2)⟩

/-- A special function; only the reciprocal and the root round with the effective mode (R229). -/
def special (h : Hd) (m : FMod) (ff : FF) (fn : SFun) (d a : Opnd) : FltShape :=
  unary h m (fn == .rcp || fn == .sqrt) ff (fun en x => specialVal fn x en.mode en.fzo (en.draw 0)) d a

/-- The floating forms with one destination. -/
def floatOf : Instr → Option FltShape
  | .fadd h m f d a b => some (arith h m fp32S (.flt .fp32) 1 1 .add f false d a b none)
  | .fmul h m f d a b => some (arith h m fp32S (.flt .fp32) 1 1 .mul f false d a b none)
  | .ffma h m f d a b c => some (arith h m fp32S (.flt .fp32) 1 1 .fma f false d a b (some c))
  | .fmin h m f d a b => some (minMax h m fp32S (.flt .fp32) 1 1 false f d a b)
  | .fmax h m f d a b => some (minMax h m fp32S (.flt .fp32) 1 1 true f d a b)
  | .frnd h m f d a => some (unary h m true f frndVal d a)
  | .fclass h d a => some ⟨h.g, noFMod, false, d, 1, fun y t l _ => (fclassVal (srcVal (.flt .fp32) h.ext y t l a), 0)⟩
  | .dadd h m f d a b => some (arith h m fp64S (.flt .fp64) 1 2 .add f false d a b none)
  | .dmul h m f d a b => some (arith h m fp64S (.flt .fp64) 1 2 .mul f false d a b none)
  | .dfma h m f d a b c => some (arith h m fp64S (.flt .fp64) 1 2 .fma f false d a b (some c))
  | .dmin h m f d a b => some (minMax h m fp64S (.flt .fp64) 1 2 false f d a b)
  | .dmax h m f d a b => some (minMax h m fp64S (.flt .fp64) 1 2 true f d a b)
  | .hadd2 h m f d a b => some (arith h m fp16S (.pflt .fp16) 2 1 .add f false d a b none)
  | .hmul2 h m f d a b => some (arith h m fp16S (.pflt .fp16) 2 1 .mul f false d a b none)
  | .hfma2 h m f d a b c => some (arith h m fp16S (.pflt .fp16) 2 1 .fma f false d a b (some c))
  | .hmnmx2 h m f mx d a b => some (minMax h m fp16S (.pflt .fp16) 2 1 mx f d a b)
  | .badd2 h m f d a b => some (arith h m bf16S (.pflt .bf16) 2 1 .add f false d a b none)
  | .bmul2 h m f d a b => some (arith h m bf16S (.pflt .bf16) 2 1 .mul f false d a b none)
  | .bfma2 h m f d a b c => some (arith h m bf16S (.pflt .bf16) 2 1 .fma f false d a b (some c))
  | .qadd4 h m f e sat d a b => some (arith h m (qSpec e) (.pflt (qFmt e)) 4 1 .add f sat d a b none)
  | .qmul4 h m f e sat d a b => some (arith h m (qSpec e) (.pflt (qFmt e)) 4 1 .mul f sat d a b none)
  | .qfma4 h m f e sat d a b c => some (arith h m (qSpec e) (.pflt (qFmt e)) 4 1 .fma f sat d a b (some c))
  | .cvt h m fd fs pack sat d a => some ⟨h.g, m, true, d, regsOfBits (fd.bits * 2 ^ pack.toNat), fun y t l en =>
      cvtVal fd fs (2 ^ pack.toNat) sat en (srcVal (.int (32 * regsOfBits (fs.bits * 2 ^ pack.toNat))) h.ext y t l a)⟩
  | .cvtmx h m e _ d a => some ⟨h.g, m, false, d, 1, fun y _ _ en => cvtmxVal h e y en.fzi a⟩
  | .cvtmxQ h m e sat d a b => some ⟨h.g, m, true, d, 1, fun y t l en =>
      cvtmxQVal e (srcVal (.flt .fp32) h.ext y t l a) (src32 h.ext y t l b) sat en l⟩
  | .rcp h m f d a => some (special h m f .rcp d a)
  | .rsq h m f d a => some (special h m f .rsq d a)
  | .sqrt h m f d a => some (special h m f .sqrt d a)
  | .ex2 h m f d a => some (special h m f .ex2 d a)
  | .lg2 h m f d a => some (special h m f .lg2 d a)
  | .sin h m f d a => some (special h m f .sin d a)
  | .cos h m f d a => some (special h m f .cos d a)
  | .tanh h m f d a => some (special h m f .tanh d a)
  | .hrand h d a b c => some ⟨h.g, noFMod, false, d, 1, fun y t l _ =>
      ((hrandMix (BitVec.ofNat 64 (src64 h.ext y t l c)) (BitVec.ofNat 64 (src64 h.ext y t l a))
        (BitVec.ofNat 32 (src32 h.ext y t l b))).toNat, 0)⟩
  | .drop h t d a b c => some ⟨h.g, noFMod, false, d, 1, fun y u l _ =>
      (dropVal t (srcVal (dropKind t) h.ext y u l a) (src32 h.ext y u l b) (src32 h.ext y u l c), 0)⟩
  | _ => none

/-- The value and the flags of one lane of a floating form. -/
def fltLane (x : FltShape) (blkid grp : Nat) (y : Group) (l : Nat) : Nat × Flags :=
  match y.threads[l]? with
  | some u => x.f y u l (fenv y u x.m blkid grp l)
  | none => (0, 0)

/-- The flags of a list of lanes together. -/
def fltFlags (x : FltShape) (blkid grp : Nat) (y : Group) (gt : List Nat) : Flags :=
  gt.foldl (fun fl l => fl ||| (fltLane x blkid grp y l).2) 0

end Sys2Proof.Claim

/-- Every floating form with one destination completes: each guard-true lane's destination takes its value, FPSTAT takes
the flags of those lanes beside what it held, SDCNT of those lanes rises by one where the form rounds stochastically,
and nothing else changes. -/
def Obligations.FloatForms : Prop :=
  ∀ (i : Instr) (x : Claim.FltShape) (s : State) (c : Cur) (y : Group) (b : Block),
    Claim.floatOf i = some x → Claim.Issues s c y i x.g → s.blk? c.blk = some b →
    ∃ t y', exec i s = .next t ∧ t.cur = .none ∧ t.grp? c.blk c.grp = some y'
      ∧ Claim.Writes c (s.guardTrue c x.g) x.d x.n (fun l => (Claim.fltLane x b.blkid c.grp y l).1)
        (fun l u => if l ∈ s.guardTrue c x.g ∧ x.rounds = true ∧ effMode y x.m = 6 then { u with sdcnt := u.sdcnt + 1 } else u)
        y { y with fpstat := y.fpstat ||| (Claim.fltFlags x b.blkid c.grp y (s.guardTrue c x.g)).zeroExtend 32 } y'
      ∧ Claim.Beside c s t
namespace Sys2Proof.Claim

/-- A predicate set in one thread. -/
def predSet (u : Thread) (n : BitVec 3) (b : Bool) : Thread := u.setPred n b

/-- What a predicate form does: its guard, the flags it raises, and what becomes of the thread of a lane of the issue
group, given the guard-true lanes (02 R49, R50; 04 R138, R139, R143; 05 R167, R168; 07 R221). -/
structure PredShape where
  g : Guard
  flags : Group → List Nat → Flags
  e : Group → List Nat → Nat → Thread → Thread

/-- No flags. -/
def noFlags (_ : Group) (_ : List Nat) : Flags := 0

/-- An effect on the guard-true lanes only. -/
def onTrue (k : Group → List Nat → Nat → Thread → Thread) (y : Group) (gt : List Nat) (l : Nat) (u : Thread) : Thread :=
  if l ∈ gt then k y gt l u else u

/-- The compare of a lane in a floating format. -/
def fltCompare (h : Hd) (m : FMod) (sp : FSpec) (k : Fmt) (cc : Fcc) (a b : Opnd) (y : Group) (u : Thread) (l : Nat) :
    Bool × Flags :=
  fcmpVal sp cc (m.fzi || y.fpmode.getLsbD 3) (srcVal (.flt k) h.ext y u l a) (srcVal (.flt k) h.ext y u l b)

/-- A floating compare: the flags of the guard-true lanes, and the pair of every lane of the issue group. -/
def fltPair (h : Hd) (m : FMod) (sp : FSpec) (k : Fmt) (cc : Fcc) (pp : PPair) (a b : Opnd) : PredShape :=
  ⟨h.g, fun y gt => gt.foldl (fun fl l => match y.threads[l]? with
      | some u => fl ||| (fltCompare h m sp k cc a b y u l).2
      | none => fl) 0,
    fun y gt l u => u.comparePair pp (gt.contains l) (fltCompare h m sp k cc a b y u l).1⟩

/-- The predicate forms. -/
def predOf : Instr → Option PredShape
  | .icmp h it cc pp a b => some ⟨h.g, noFlags, fun y gt l u => u.comparePair pp (gt.contains l)
      (iccOk cc (elemOf it (srcVal (itKind it) h.ext y u l a) 0) (elemOf it (srcVal (itKind it) h.ext y u l b) 0))⟩
  | .fcmp h m cc pp a b => some (fltPair h m fp32S .fp32 cc pp a b)
  | .dcmp h m cc pp a b => some (fltPair h m fp64S .fp64 cc pp a b)
  | .i2p h a b => some ⟨h.g, noFlags, onTrue fun y _ l u => { u with
      p := (u.p &&& ~~~(BitVec.ofNat 8 (src32 h.ext y u l b)))
        ||| (BitVec.ofNat 8 (src32 h.ext y u l a) &&& BitVec.ofNat 8 (src32 h.ext y u l b)) }⟩
  | .plop h d a b c table => some ⟨h.g, noFlags, onTrue fun _ _ _ u =>
      predSet u d (table.getLsbD (cond (u.pred a) 4 0 + cond (u.pred b) 2 0 + cond (u.pred c) 1 0))⟩
  | .pmov h d a => some ⟨h.g, noFlags, onTrue fun _ _ _ u => predSet u d (u.pred a)⟩
  | .pmovNot h d a => some ⟨h.g, noFlags, onTrue fun _ _ _ u => predSet u d !(u.pred a)⟩
  | .voteAll h d a => some ⟨h.g, noFlags, onTrue fun y gt _ u =>
      predSet u d (gt.all fun l => ((y.threads[l]?).map (·.pred a)).getD false)⟩
  | .voteAny h d a => some ⟨h.g, noFlags, onTrue fun y gt _ u =>
      predSet u d (gt.any fun l => ((y.threads[l]?).map (·.pred a)).getD false)⟩
  | .voteUni h d a => some ⟨h.g, noFlags, onTrue fun y gt _ u =>
      predSet u d ((gt.all fun l => ((y.threads[l]?).map (·.pred a)).getD false)
        || gt.all fun l => !((y.threads[l]?).map (·.pred a)).getD false)⟩
  | _ => none

/-- The forms that write one value of the whole issue group: guard, destination and value (04 R143, R144). -/
def wholeOf : Instr → Option (Guard × Opnd × (Group → List Nat → Nat))
  | .voteBallot h d a => some (h.g, d, fun y gt =>
      (maskLanes (gt.filter fun l => ((y.threads[l]?).map (·.pred a)).getD false)).toNat)
  | .redux h op sgn d a => some (h.g, d, fun y gt =>
      reduxAll op sgn (gt.map (laneVal y fun y t l => src32 h.ext y t l a)))
  | _ => none

end Sys2Proof.Claim

/-- Every predicate form completes: the predicates of the lanes become what the form says, the flags of a floating
compare are added to FPSTAT, and nothing else changes. -/
def Sys2Proof.Claim.PredicateForms : Prop :=
  ∀ (i : Instr) (x : Claim.PredShape) (s : State) (c : Cur) (y : Group),
    Claim.predOf i = some x → Claim.Issues s c y i x.g →
    ∃ t y', exec i s = .next t ∧ t.cur = .none ∧ t.grp? c.blk c.grp = some y'
      ∧ Claim.Threads c y { y with fpstat := y.fpstat ||| (x.flags y (s.guardTrue c x.g)).zeroExtend 32 } y'
          (fun l u => if c.lanes.getLsbD l then x.e y (s.guardTrue c x.g) l u else u)
      ∧ y'.s = y.s ∧ Claim.Beside c s t

/-- VOTE.BALLOT and REDUX complete: each guard-true lane's destination takes the value of the whole issue group, and
nothing else changes. -/
def Sys2Proof.Claim.WholeGroupForms : Prop :=
  ∀ (i : Instr) (g : Guard) (d : Opnd) (f : Group → List Nat → Nat) (s : State) (c : Cur) (y : Group),
    Claim.wholeOf i = some (g, d, f) → Claim.Issues s c y i g →
    ∃ t y', exec i s = .next t ∧ t.cur = .none ∧ t.grp? c.blk c.grp = some y'
      ∧ Claim.Writes c (s.guardTrue c g) d 1 (fun _ => f y (s.guardTrue c g)) Claim.same y y y' ∧ Claim.Beside c s t

/-- The forms that write predicates, and those that give one value of the whole issue group. -/
def Obligations.PredicatesAndVotes : Prop := Claim.PredicateForms ∧ Claim.WholeGroupForms
/-- NOP, whatever its guard fields hold, moves every thread of the issue group to the next instruction and changes
nothing else. -/
def Sys2Proof.Claim.NopMovesOn : Prop :=
  ∀ (h : Hd) (s : State) (c : Cur) (y : Group), Claim.Issues s c y (.nop h) ⟨0xFF, 0, 0, 0⟩ →
    ∃ t y', exec (.nop h) s = .next t ∧ t.cur = .none ∧ t.grp? c.blk c.grp = some y'
      ∧ Claim.Threads c y y y' Claim.same ∧ y'.s = y.s ∧ Claim.Beside c s t

namespace Sys2Proof.Claim

/-- The target of a direct transfer: its own address and the signed word offset (04 R131). -/
def directTarget (c : Cur) (x : Ext) : Nat := wrapInt 64 ((c.pc : Int) + 4 * Ext.offset x)

/-- The address that a register pair gives a lane. -/
def pairTarget (y : Group) (a : Opnd) (l : Nat) : Nat := laneVal y (fun y u l => src64 .l64 y u l a) l

/-- A branch: its guard and the target of a lane. -/
def branchOf : Instr → Option (Guard × (Cur → Group → Nat → Nat))
  | .bra h => some (h.g, fun c _ _ => directTarget c h.ext)
  | .brx g a => some (g, fun _ y l => pairTarget y a l)
  | _ => none

/-- A call: its guard, its slide and the target of a lane. -/
def callOf : Instr → Option (Guard × Nat × (Cur → Group → Nat → Nat))
  | .call h k => some (h.g, k.toNat, fun c _ _ => directTarget c h.ext)
  | .callx g k a => some (g, k.toNat, fun _ y l => pairTarget y a l)
  | _ => none

/-- Every listed lane may go to its target: the target is in range, aligned, its line is there and it starts an
instruction (02 R42; 04 R131). -/
def Lands (s : State) (c : Cur) (gt : List Nat) (target : Nat → Nat) : Prop :=
  ∀ l ∈ gt, s.jumpChk c l (target l) = (s, .pass)

/-- The first n of some registers, and zeros where there are fewer. -/
def window (n : Nat) (v : List Word) : List Word := (List.range n).map fun k => v.getD k 0

/-- The register allotment of the threads of a block (19 R467). -/
def allotment (s : State) (c : Cur) : Nat := ((s.blk? c.blk).map (·.fr.regs)).getD 0

/-- The registers that a thread's on-chip frames retain (04 R123). -/
def retained (u : Thread) : Nat := (u.links.map (·.k)).sum

end Sys2Proof.Claim

/-- BRA and BRX complete: each guard-true lane goes to its target, past the header word of a line, the others go on to
the next instruction, and nothing else changes. -/
def Sys2Proof.Claim.BranchForms : Prop :=
  ∀ (i : Instr) (g : Guard) (tg : Cur → Group → Nat → Nat) (s : State) (c : Cur) (y : Group),
    Claim.branchOf i = some (g, tg) → Claim.Issues s c y i g → Claim.Lands s c (s.guardTrue c g) (tg c y) →
    ∃ t y', exec i s = .next t ∧ t.cur = .none ∧ t.grp? c.blk c.grp = some y'
      ∧ Claim.Threads c y y y' (fun l u => if l ∈ s.guardTrue c g then { u with pc := State.skipHeader (tg c y l) } else u)
      ∧ y'.s = y.s ∧ Claim.Beside c s t

/-- CALL and CALLX complete where the slide fits the window, fewer than eight frames are on chip and the target is one:
each guard-true lane pushes the frame of R124 with its first k registers, which leave its window, its call depth rises
by one, and it goes to its target; nothing else changes. -/
def Sys2Proof.Claim.CallForms : Prop :=
  ∀ (i : Instr) (g : Guard) (k : Nat) (tg : Cur → Group → Nat → Nat) (s : State) (c : Cur) (y : Group),
    Claim.callOf i = some (g, k, tg) → Claim.Issues s c y i g → Claim.Lands s c (s.guardTrue c g) (tg c y) →
    (∀ l ∈ s.guardTrue c g, ∀ u, y.threads[l]? = some u → k ≤ u.v.length ∧ u.links.length < 8) →
    ∃ t y', exec i s = .next t ∧ t.cur = .none ∧ t.grp? c.blk c.grp = some y'
      ∧ Claim.Threads c y y y' (fun l u => if l ∈ s.guardTrue c g then
          { u with
            links := u.links ++ [⟨c.npc, k, max ((u.v.length + 7) / 8) 1 - 1, u.live, u.v.take k⟩]
            v := u.v.drop k
            depth := (u.depth + 1) % 2 ^ 32
            before := none
            pc := State.skipHeader (tg c y l) } else u)
      ∧ y'.s = y.s ∧ Claim.Beside c s t

/-- RET at a call depth above 0 completes where the frame is on chip, its return address is a target and the window it
restores fits: each guard-true lane takes back the registers that the frame retained, below those of the callee, in the
caller's window, the caller's live predicate count and the return address; nothing else changes. -/
def Sys2Proof.Claim.ReturnForm : Prop :=
  ∀ (g : Guard) (s : State) (c : Cur) (y : Group) (fr : Nat → Frame),
    Claim.Issues s c y (.ret g) g → Claim.Lands s c (s.guardTrue c g) (fun l => (fr l).retpc) →
    (∀ l ∈ s.guardTrue c g, ∀ u, y.threads[l]? = some u → u.depth ≠ 0 ∧ u.links.getLast? = some (fr l)
      ∧ (u.links.length = 1 ∨ Claim.retained u - (fr l).k + 8 * ((fr l).ncode + 1) ≤ Claim.allotment s c)) →
    ∃ t y', exec (.ret g) s = .next t ∧ t.cur = .none ∧ t.grp? c.blk c.grp = some y'
      ∧ Claim.Threads c y y y' (fun l u => if l ∈ s.guardTrue c g then
          { u with
            v := Claim.window (8 * ((fr l).ncode + 1)) ((fr l).saved ++ u.v)
            live := (fr l).livep
            links := u.links.dropLast
            depth := u.depth - 1
            before := none
            pc := State.skipHeader (fr l).retpc } else u)
      ∧ y'.s = y.s ∧ Claim.Beside c s t

/-- ALLOC completes where the window fits the allotment beside what is retained: each guard-true lane's window has n
registers, those it had and zeros above them, and l live predicates; nothing else changes. -/
def Sys2Proof.Claim.AllocForm : Prop :=
  ∀ (g : Guard) (n lv : BitVec 8) (s : State) (c : Cur) (y : Group), Claim.Issues s c y (.alloc g n lv) g →
    n.toNat ≤ Claim.allotment s c →
    (∀ l ∈ s.guardTrue c g, ∀ u, y.threads[l]? = some u →
      u.links = [] ∨ Claim.retained u + n.toNat ≤ Claim.allotment s c) →
    ∃ t y', exec (.alloc g n lv) s = .next t ∧ t.cur = .none ∧ t.grp? c.blk c.grp = some y'
      ∧ Claim.Threads c y y y' (fun l u => if l ∈ s.guardTrue c g then
          { u with v := Claim.window n.toNat u.v, live := lv.toNat, before := none } else u)
      ∧ y'.s = y.s ∧ Claim.Beside c s t

/-- An ALLOC of more registers than the allotment raises SPILL_LIMIT in its guard-true lanes, and no thread performs it
(04 R126 rule 2, R129): with one such lane, the state is that of the fault taken. -/
def Sys2Proof.Claim.AllocBeyondAllotment : Prop :=
  ∀ (g : Guard) (n lv : BitVec 8) (s : State) (c : Cur) (y : Group) (l : Nat), Claim.Issues s c y (.alloc g n lv) g →
    s.guardTrue c g = [l] → Claim.allotment s c < n.toNat →
    exec (.alloc g n lv) s = .next ((s.unmark c).takeFault c.blk c.grp l
      { Flt.sync 0x0A c.pc c.npc 0 with lmask := s.doneMask c } c.pc).endTurn

/-- EXIT, and RET at depth 0, complete while another thread of the group goes on: the guard-true lanes have exited as
helper lanes, hold no transaction and are not held; nothing else changes. -/
def Sys2Proof.Claim.ExitForms : Prop :=
  ∀ (i : Instr) (g : Guard) (s : State) (c : Cur) (y : Group), (i = .exit g ∨ i = .ret g) → Claim.Issues s c y i g →
    (∀ l ∈ s.guardTrue c g, s.batchBusy c.blk c.grp l = false ∧ s.queued c.blk c.grp l = false
      ∧ s.inFlight c.blk c.grp l = 0 ∧ s.deferredChk c l = none
      ∧ ∀ u, y.threads[l]? = some u → i = .ret g → u.depth = 0) →
    (∃ j u, y.threads[j]? = some u ∧ u.exited = false ∧ j ∉ s.guardTrue c g) →
    ∃ t y', exec i s = .next t ∧ t.cur = .none ∧ t.grp? c.blk c.grp = some y'
      ∧ Claim.Threads c y y y' (fun l u => if l ∈ s.guardTrue c g then
          { u with exited := true, hold := none, txn := none, replay := [] } else u)
      ∧ y'.s = y.s ∧ Claim.Beside c s t

/-- With the last thread's EXIT the group has ended, or its block has. -/
def Sys2Proof.Claim.LastExitEnds : Prop :=
  ∀ (g : Guard) (s : State) (c : Cur) (y : Group), Claim.Issues s c y (.exit g) g → s.guardTrue c g ≠ [] →
    (∀ l ∈ s.guardTrue c g, s.batchBusy c.blk c.grp l = false ∧ s.deferredChk c l = none) →
    (∀ j u, y.threads[j]? = some u → u.exited = true ∨ j ∈ s.guardTrue c g) →
    ∃ t, exec (.exit g) s = .next t ∧ ∀ y', t.grp? c.blk c.grp = some y' → y'.ended = true

namespace Sys2Proof.Claim

/-- An instruction that changes its group by its lowest guard-true lane: guard and the group it leaves, beside the
threads that move on (07 R222; 08 R237). -/
def groupOf : Instr → Option (Guard × (Group → Nat → Group))
  | .basteOff h => some (h.g, fun y _ => { y with bastOn := false })
  | .basteOn h a => some (h.g, fun y l => { y with
      bastOn := true, bastTh := min (max (laneVal y (fun y u l => src32 h.ext y u l a) l) 16) 65535 })
  | .fsetmodeWmode h a => some (h.g, fun y l => { y with
      fpmode := fpmodeOf (laneVal y (fun y u l => src32 h.ext y u l a) l) })
  | .fsetmodeCstat h a => some (h.g, fun y l => { y with
      fpstat := y.fpstat &&& ~~~(BitVec.ofNat 32 (laneVal y (fun y u l => src32 h.ext y u l a) l % 256)) })
  | _ => none

end Sys2Proof.Claim

/-- BASTE.OFF, BASTE.ON, FSETMODE.WMODE and FSETMODE.CSTAT complete where the whole group is in the issue group: the
group's setting becomes what the lowest guard-true lane gives, and nothing else changes. -/
def Sys2Proof.Claim.GroupForms : Prop :=
  ∀ (i : Instr) (g : Guard) (f : Group → Nat → Group) (s : State) (c : Cur) (y : Group) (l : Nat),
    Claim.groupOf i = some (g, f) → Claim.Issues s c y i g → y.converged c.lanes = true →
    (s.guardTrue c g).head? = some l →
    ∃ t y', exec i s = .next t ∧ t.cur = .none ∧ t.grp? c.blk c.grp = some y'
      ∧ Claim.Threads c y (f y l) y' Claim.same ∧ y'.s = y.s ∧ Claim.Beside c s t

/-- BRK and TRAP complete by their fault (04 R137; 20 R510): where the trap unit's mask and vector name a handler and
the thread is unprivileged and in no transaction, every guard-true lane enters it in privileged mode at the handler's
first instruction, with the address of the next instruction in TRP_EPC and the record, with its code, its AUX and its
PC, in TRP_FREC. -/
def Sys2Proof.Claim.SoftwareTraps : Prop :=
  ∀ (i : Instr) (g : Guard) (code : BitVec 8) (aux : Nat) (s : State) (c : Cur) (y : Group) (b : Block),
    ((∃ h n, i = .brk h n ∧ g = h.g ∧ code = 0x31 ∧ aux = n.toNat) ∨ ∃ n, i = .trap g n ∧ code = 0x30 ∧ aux = n.toNat) →
    Claim.Issues s c y i g → s.blk? c.blk = some b →
    s.trp.hmask.getLsbD code.toNat = true → s.trp.hvec ≠ 0 →
    (∀ l ∈ s.guardTrue c g, ∀ u, y.threads[l]? = some u → u.priv = false ∧ u.txn = none) →
    ∃ t, exec i s = .next t ∧ t.cur = .none ∧ ∀ l ∈ s.guardTrue c g, ∃ u', t.thr? c.blk c.grp l = some u'
      ∧ u'.priv = true ∧ u'.epc = c.npc ∧ u'.pc = State.skipHeader (s.trp.hvec.toNat % 2 ^ 56 / 128 * 128)
      ∧ u'.frec = recWords (Flt.word { Flt.sync code c.pc c.npc 0 with aux := aux } 3 0 b.asid b.gridid b.blkid c.grp l y.core)

/-- ERET in privileged mode completes: a lane without replay records returns to the PC of TRP_EPC, past the header word
of a line, in unprivileged mode, or in privileged mode where its ASID is 0 (20 R510). -/
def Sys2Proof.Claim.EretReturns : Prop :=
  ∀ (g : Guard) (s : State) (c : Cur) (y : Group) (b : Block), Claim.Issues s c y (.eret g) g → s.blk? c.blk = some b →
    (∀ l ∈ s.guardTrue c g, ∀ u, y.threads[l]? = some u → u.replay = []) →
    ∃ t y', exec (.eret g) s = .next t ∧ t.cur = .none ∧ t.grp? c.blk c.grp = some y'
      ∧ Claim.Threads c y y y' (fun l u => if l ∈ s.guardTrue c g then
          { u with pc := State.skipHeader u.epc, priv := b.asid == 0, replay := [] } else u)
      ∧ y'.s = y.s ∧ Claim.Beside c s t

/-- ERET, HALT, TLBI and the writes of privileged registers raise PRIVILEGE in an unprivileged lane, and no thread
performs them (20 R512, R516): with one guard-true lane, the state is that of the fault taken. -/
def Sys2Proof.Claim.PrivilegedForms : Prop :=
  ∀ (i : Instr) (g : Guard) (s : State) (c : Cur) (y : Group) (l : Nat) (u : Thread),
    ((∃ h a, i = .swr h a ∧ g = h.g ∧ swrFree (sysRegNum h.ext) = false) ∨ i = .eret g ∨ i = .halt g
      ∨ (∃ h a b, i = .tlbiPage h a b ∧ g = h.g) ∨ (∃ h b, i = .tlbiAsid h b ∧ g = h.g) ∨ ∃ h, i = .tlbiAll h ∧ g = h.g) →
    s.cur = .simt c → s.grp? c.blk c.grp = some y → y.bast = none → s.ready c i = true →
    s.guardTrue c g = [l] → y.threads[l]? = some u → u.priv = false → u.txn = none → u.deferred = none →
    exec i s = .next ((s.unmark c).takeFault c.blk c.grp l
      { Flt.sync 0x05 c.pc c.npc 0 with lmask := s.doneMask c } c.pc).endTurn

/-- The forms that only move the PC: NOP, branches, calls and returns. -/
def Obligations.ControlTransfers : Prop := Claim.NopMovesOn ∧ Claim.BranchForms ∧ Claim.CallForms ∧ Claim.ReturnForm

/-- ALLOC, and the forms that change the modes of a whole group. -/
def Obligations.WindowAndModeForms : Prop := Claim.AllocForm ∧ Claim.AllocBeyondAllotment ∧ Claim.GroupForms

/-- EXIT, and the end of a block with its last thread. -/
def Obligations.ThreadsEnd : Prop := Claim.ExitForms ∧ Claim.LastExitEnds

/-- Software traps, the return from a handler, and what an unprivileged thread may not run. -/
def Obligations.TrapForms : Prop := Claim.SoftwareTraps ∧ Claim.EretReturns ∧ Claim.PrivilegedForms

namespace Sys2Proof.Claim

/-- No access of the group is in flight, and every access has a number below the next one. -/
def Quiet (s : State) (c : Cur) : Prop :=
  s.haltedGrp c.blk c.grp = false ∧ ∀ a ∈ s.accs, a.id < s.nextId ∧ ¬(a.blk = c.blk ∧ a.grp = c.grp)

/-- Some lane is guard-true, and no guard-true lane has exited. -/
def Live (s : State) (c : Cur) (y : Group) (g : Guard) : Prop :=
  s.guardTrue c g ≠ [] ∧ ∀ l ∈ s.guardTrue c g, ∀ u, y.threads[l]? = some u → u.exited = false

/-- A load that is bound in two halves: 128 bits wide, of global memory or the scratchpad (06 R193). -/
def halved : Instr → Bool
  | .ld _ w _ _ _ _ _ _ | .ldv _ w _ _ _ _ _ => w.bytes == 16
  | _ => false

/-- The next access of a group has an entry of its core's pending-store buffer to take: fewer than two of the group's
reserved entries are taken, nothing waits for one, and no request under way bears the access's number (06 R180). -/
def PoolFree (s : State) (core b g : Nat) : Prop :=
  (s.poolFree core (b, g)).1 = true ∧ (s.core core).poolWait = []
  ∧ (∀ r ∈ s.fab.unacked, ∀ l, r.owner ≠ .lane s.nextId l) ∧ ∀ r ∈ s.hst.reqs, ∀ l, r.owner ≠ .lane s.nextId l

/-- A load: its guard, width, destination and the address of a lane (06 R192, R193; 09 R267; 12 R331). -/
def loadOf : Instr → Option (Guard × Wid × Opnd × (Group → Thread → Nat → Nat))
  | .ld h w _ sp _ _ d a => if sp = .w then none else some (h.g, w, d, fun y u l => effAddr sp h.ext y u l a)
  | .ldv h w sp _ _ d a => if sp = .w then none else some (h.g, w, d, fun y u l =>
      (effAddr sp h.ext y u l a + l * w.bytes) % 2 ^ (if sp = .g then 64 else 32))
  | .ldw h w _ _ d a => some (h.g, w, d, fun y u l => effAddr .w h.ext y u l a)
  | .lda h w _ sp _ _ d a => if sp = .w then none else some (h.g, w, d, fun y u l => effAddr sp h.ext y u l a)
  | _ => none

/-- What a load of n bytes reads at an on-chip address that it may read: of its block's scratchpad, or, by LDW, of the
weight store, where the grid reads it and its bank group is not refreshing (06 R175; 12 R331 to R338). -/
def onChip (s : State) (c : Cur) (i : Instr) (a n : Nat) : Option Nat :=
  match s.blk? c.blk with
  | none => none
  | some x =>
    match retSpc i with
    | .s => if a % n = 0 ∧ a + n ≤ x.fr.scratch then some (x.scratch.num a n) else none
    | .w => if a % n = 0 ∧ a < 2 ^ 30 ∧ x.fr.ws = true ∧ (s.wsPoison.all fun p => p.1 != a / 128) = true ∧ s.refreshing a = false then
        some (s.wstore.num a n) else none
    | .g => none

/-- A load of n bytes at a virtual address hits sector sec of the L1, in the state e, under its own name, and nothing
stands before it: no pending store, no other thread's transaction, no tag, no poison. -/
def Hits (s : State) (w : Agent) (a n sec : Nat) (e : L1E) : Prop :=
  a % n = 0 ∧ a < 2 ^ 56 ∧ s.leaseOk w.blk w.priv a n false = true ∧ s.l1Name w.core w.asid a = some (sec, e)
  ∧ s.l1? w.core sec = some e ∧ e.st.stable = true ∧ e.val.psn = false ∧ e.val.tag = none ∧ e.baste = none
  ∧ find? sec (s.core w.core).pend = none ∧ s.conflicts sec false (some (w.blk, w.grp, w.lane)) = []

/-- A read of a virtual address finds no sector under its name in the L1; the TLB of the cluster leads it to sector sec of
cacheable memory homed here, of which the L1 holds nothing and no store is pending. -/
def Misses (s : State) (w : Agent) (a sec : Nat) : Prop :=
  a < 2 ^ 56 ∧ s.l1Name w.core w.asid a = none ∧ s.l1? w.core sec = none ∧ find? sec (s.core w.core).pend = none
  ∧ ∃ e, (getD [] s.xlt.tlb (w.core / 4)).find? (fun e => e.asid == w.asid && e.vpage ≤ a && a < e.vpage + e.size) = some e
    ∧ e.broken = false ∧ e.r = true ∧ e.priv = false ∧ e.mode = 0 ∧ gpaHome e.pa = s.self ∧ gpaOff e.pa < 2 ^ 51
    ∧ gpaOff (e.phys a) < 2 ^ 51 ∧ e.phys a / 64 = sec

/-- A store or RED: its guard, space, bytes, whether it is a release, its replacement hint, and the address and the effect
of a lane (06 R193, R194, R198; 09 R267; 10 R289). -/
def storeOf : Instr → Option (Guard × Spc × Nat × Bool × BitVec 2 × (Group → Thread → Nat → Nat) × (Group → Thread → Nat → StKind))
  | .st h w sp hnt a b => some (h.g, sp, w.bytes, false, hnt, fun y u l => effAddr sp h.ext y u l a, fun y u l =>
      .store w.bytes (BitVec.ofNat 128 (srcVal (.int (32 * w.regs)) h.ext y u l b % 2 ^ (8 * w.bytes))))
  | .strel h w sp _ hnt a b => some (h.g, sp, w.bytes, true, hnt, fun y u l => effAddr sp h.ext y u l a, fun y u l =>
      .store w.bytes (BitVec.ofNat 128 (srcVal (.int (32 * w.regs)) h.ext y u l b % 2 ^ (8 * w.bytes))))
  | .red h op ty ord _ sp a b c => some (h.g, sp, 4 * ty.regs, ord == .rel, 0, fun y u l => effAddr sp h.ext y u l a,
      fun y u l => .atom op ty (BitVec.ofNat 64 (srcVal (.int (32 * ty.regs)) .l64 y u l b))
        (BitVec.ofNat 64 (srcVal (.int (32 * ty.regs)) .l64 y u l c)))
  | _ => none

/-- An atomic with return: guard, space, order, bytes, and the address, the effect and the two operands of a lane (06 R195
to R199). -/
def atomOf : Instr → Option (Guard × Spc × Ord × Nat × (Group → Thread → Nat → Nat) × (Group → Thread → Nat → StKind)
    × (Group → Thread → Nat → QWord × QWord))
  | .atom h op ty ord _ sp _ a b c =>
    let v (o : Opnd) (y : Group) (u : Thread) (l : Nat) : Nat := srcVal (.int (32 * ty.regs)) .l64 y u l o
    some (h.g, sp, ord, 4 * ty.regs, fun y u l => effAddr sp h.ext y u l a,
      fun y u l => .atom op ty (BitVec.ofNat 64 (v b y u l)) (BitVec.ofNat 64 (v c y u l)),
      fun y u l => (BitVec.ofNat 128 (v b y u l), BitVec.ofNat 128 (v c y u l)))
  | .atomf h op bf ord _ sp _ a b =>
    let v (y : Group) (u : Thread) (l : Nat) : Nat := srcVal (if bf then .pflt .bf16 else .flt .fp32) .l64 y u l b
    some (h.g, sp, ord, 4, fun y u l => effAddr sp h.ext y u l a, fun y u l => .atomf op bf (BitVec.ofNat 32 (v y u l)),
      fun y u l => (BitVec.ofNat 128 (v y u l), 0))
  | .cas h w ord _ sp _ a b c =>
    let v (o : Opnd) (y : Group) (u : Thread) (l : Nat) : QWord := BitVec.ofNat 128 (srcVal (.int (cond w 64 32)) .l64 y u l o)
    some (h.g, sp, ord, cond w 8 4, fun y u l => effAddr sp h.ext y u l a,
      fun y u l => .cas (cond w 8 4) (v b y u l) (v c y u l), fun y u l => (v b y u l, v c y u l))
  | .cas128 h ord _ sp _ a b c =>
    let v (o : Opnd) (y : Group) (u : Thread) (l : Nat) : QWord := BitVec.ofNat 128 (srcVal (.int 128) .l64 y u l o)
    some (h.g, sp, ord, 16, fun y u l => effAddr sp h.ext y u l a,
      fun y u l => .cas 16 (v b y u l) (v c y u l), fun y u l => (v b y u l, v c y u l))
  | _ => none

/-- What a function of a lane's group and thread gives in each listed lane. -/
def perLane {α : Type} (y : Group) (gt : List Nat) (f : Group → Thread → Nat → α) : List α :=
  gt.filterMap fun l => (y.threads[l]?).map fun u => f y u l

end Sys2Proof.Claim

/-- A load of the scratchpad (LD, LDV, LDA) that is not 128 bits wide, or of the weight store (LDW), completes at its issue
where its lanes may read their addresses and nothing of the group is in flight: each guard-true lane's destination takes the bytes that lie there,
extended by its form, and nothing else changes. -/
def Sys2Proof.Claim.OnChipLoads : Prop :=
  ∀ (i : Instr) (g : Guard) (w : Wid) (d : Opnd) (f : Group → Thread → Nat → Nat) (s : State) (c : Cur) (y : Group)
    (v : Nat → Nat), Claim.loadOf i = some (g, w, d, f) → Claim.Issues s c y i g → Claim.Quiet s c → Claim.Live s c y g →
    y.storeQ = [] → Claim.halved i = false →
    (∀ l ∈ s.guardTrue c g, ∀ u, y.threads[l]? = some u → Claim.onChip s c i (f y u l) w.bytes = some (v l)) →
    ∃ t y', exec i s = .next t ∧ t.cur = .none ∧ t.grp? c.blk c.grp = some y'
      ∧ Claim.Writes c (s.guardTrue c g) d w.regs (fun l => retExt i (v l)) Claim.same y y y' ∧ Claim.Beside c s t

/-- A load of global memory (LD, LDV, LDA) that is not 128 bits wide completes at its issue where its lanes hit the L1: each guard-true lane's
destination takes the bytes of the sector, extended by its form, and nothing else changes. -/
def Sys2Proof.Claim.CachedLoads : Prop :=
  ∀ (i : Instr) (g : Guard) (w : Wid) (d : Opnd) (f : Group → Thread → Nat → Nat) (s : State) (c : Cur) (y : Group)
    (v : Nat → Nat), Claim.loadOf i = some (g, w, d, f) → retSpc i = .g → Claim.Issues s c y i g → Claim.Quiet s c →
    Claim.Live s c y g → y.storeQ = [] → Claim.halved i = false →
    (∀ l ∈ s.guardTrue c g, ∀ u, y.threads[l]? = some u → u.txn = none ∧ ∃ sec e,
      Claim.Hits s (s.agent c.blk c.grp l) (f y u l) w.bytes sec e ∧ v l = takeSec e.val.bytes (f y u l % 64) w.bytes) →
    ∃ t y', exec i s = .next t ∧ t.cur = .none ∧ t.grp? c.blk c.grp = some y'
      ∧ Claim.Writes c (s.guardTrue c g) d w.regs (fun l => retExt i (v l)) Claim.same y y y' ∧ Claim.Beside c s t

/-- A 128-bit LD or LDV whose lanes may read their addresses in the scratchpad, or hit the L1, binds one aligned half of
each lane at its issue, the upper or the lower as the model's choice has it (assumption log 55): the threads go on, the
access stays in flight with the other half to bind, and nothing else changes (06 R193). -/
def Sys2Proof.Claim.WideLoads : Prop :=
  ∀ (i : Instr) (g : Guard) (w : Wid) (d : Opnd) (f : Group → Thread → Nat → Nat) (s : State) (c : Cur) (y : Group)
    (v : Nat → Nat), Claim.loadOf i = some (g, w, d, f) → Claim.Issues s c y i g → Claim.Quiet s c → Claim.Live s c y g →
    y.storeQ = [] → Claim.halved i = true → (∀ l, v l < 2 ^ 128) →
    (∀ l ∈ s.guardTrue c g, ∀ u, y.threads[l]? = some u → Claim.onChip s c i (f y u l) 16 = some (v l)
      ∨ (retSpc i = .g ∧ u.txn = none ∧ ∃ sec e, Claim.Hits s (s.agent c.blk c.grp l) (f y u l) 16 sec e
        ∧ v l = takeSec e.val.bytes (f y u l % 64) 16)) →
    ∃ t y', exec i s = .next t ∧ t.cur = .none ∧ t.grp? c.blk c.grp = some y' ∧ Claim.Threads c y y y' Claim.same
      ∧ y'.s = y.s ∧ Claim.Beside c s t
      ∧ (t.acc? s.nextId).map (fun a => (a.ins, a.lanes.map fun z => (z.lane, z.st))) = some (i,
          (s.guardTrue c g).filterMap fun l => (y.threads[l]?).map fun _ => (l, if Config.upperFirst s.now = true then
            .half false (BitVec.ofNat 64 (v l / 2 ^ 64)) else .half true (BitVec.ofNat 64 (v l % 2 ^ 64))))

/-- A load of global memory that misses the L1 in its one guard-true lane, with an entry of the pending-store buffer to
take, asks the slice for the sector by GETS, stays in flight with its lane waiting, and lets the threads of its issue group go
on (10 R287; 06 R180, R549). -/
def Sys2Proof.Claim.LoadMissAsks : Prop :=
  ∀ (i : Instr) (g : Guard) (w : Wid) (d : Opnd) (f : Group → Thread → Nat → Nat) (s : State) (c : Cur) (y : Group)
    (l : Nat) (u : Thread) (sec : Nat), Claim.loadOf i = some (g, w, d, f) → retSpc i = .g → Claim.Issues s c y i g →
    Claim.Quiet s c → Claim.Live s c y g → y.storeQ = [] → s.guardTrue c g = [l] → y.threads[l]? = some u → u.txn = none →
    f y u l % w.bytes = 0 → s.leaseOk c.blk u.priv (f y u l) w.bytes false = true →
    Claim.Misses s (s.agent c.blk c.grp l) (f y u l) sec → s.conflicts sec false (some (c.blk, c.grp, l)) = [] →
    Claim.PoolFree s y.core c.blk c.grp →
    ∃ t y', exec i s = .next t ∧ t.cur = .none ∧ t.grp? c.blk c.grp = some y' ∧ Claim.Threads c y y y' Claim.same
      ∧ y'.s = y.s ∧ t.mem = s.mem ∧ t.net = s.net ++ [⟨.gets, y.core, sec, SecVal.zero, 0, 0, .core y.core⟩]
      ∧ (t.l1? y.core sec).map (·.st) = some .isd
      ∧ (t.acc? s.nextId).map (fun a => (a.ins, a.lanes.map fun z => (z.lane, z.va, z.st))) = some (i, [(l, f y u l, .todo)])

/-- ST, STREL and RED complete at their issue where their lanes are aligned and, for .S, in range: one entry with the
address and the effect of each guard-true lane enters the group's store queue; no byte of memory and no register changes. -/
def Sys2Proof.Claim.StoreForms : Prop :=
  ∀ (i : Instr) (g : Guard) (sp : Spc) (n : Nat) (rel : Bool) (hnt : BitVec 2) (f : Group → Thread → Nat → Nat)
    (k : Group → Thread → Nat → StKind) (s : State) (c : Cur) (y : Group) (x : Block),
    Claim.storeOf i = some (g, sp, n, rel, hnt, f, k) → Claim.Issues s c y i g → Claim.Live s c y g → s.blk? c.blk = some x →
    (∀ l ∈ s.guardTrue c g, ∀ u, y.threads[l]? = some u → f y u l % n = 0 ∧ (sp = .s → f y u l + n ≤ x.fr.scratch)) →
    ∃ t y', exec i s = .next t ∧ t.cur = .none ∧ t.grp? c.blk c.grp = some y'
      ∧ Claim.Threads c y { y with storeQ := y.storeQ ++ [⟨s.nextId, c.pc, sp == .s, rel, false, none, [], hnt, [],
          Claim.perLane y (s.guardTrue c g) fun y u l => ⟨l, f y u l, k y u l, false, none, u.priv⟩⟩] } y' Claim.same
      ∧ y'.s = y.s ∧ Claim.Beside c s t

/-- CZERO completes at its issue: one entry with the base and the length of each guard-true lane whose length is above 0
enters the group's store queue, and nothing else changes (10 R297). -/
def Sys2Proof.Claim.ZeroForm : Prop :=
  ∀ (h : Hd) (a b : Opnd) (s : State) (c : Cur) (y : Group), Claim.Issues s c y (.czero h a b) h.g →
    (∃ l ∈ s.guardTrue c h.g, ∃ u, y.threads[l]? = some u ∧ src32 h.ext y u l b ≠ 0) →
    ∃ t y', exec (.czero h a b) s = .next t ∧ t.cur = .none ∧ t.grp? c.blk c.grp = some y'
      ∧ Claim.Threads c y { y with storeQ := y.storeQ ++ [⟨s.nextId, c.pc, false, false, false, none, [], 0, [],
          (Claim.perLane y (s.guardTrue c h.g) fun y u l =>
            (⟨l, src64 .l64 y u l a, .zero (src32 h.ext y u l b) false, false, none, u.priv⟩ : StLane)).filter fun z =>
              z.kind != .zero 0 false⟩] } y' Claim.same
      ∧ y'.s = y.s ∧ Claim.Beside c s t

/-- ATOM, ATOMF, CAS and CAS128 complete their issue where their lanes are aligned, in range and within the lease: one
entry of the group's store queue holds the effect of each guard-true lane, under the order of the form, with the access in
flight that will return the old values; nothing else changes. -/
def Sys2Proof.Claim.AtomicForms : Prop :=
  ∀ (i : Instr) (g : Guard) (sp : Spc) (ord : Ord) (n : Nat) (f : Group → Thread → Nat → Nat)
    (k : Group → Thread → Nat → StKind) (bc : Group → Thread → Nat → QWord × QWord) (s : State) (c : Cur) (y : Group)
    (x : Block), Claim.atomOf i = some (g, sp, ord, n, f, k, bc) → Claim.Issues s c y i g → Claim.Quiet s c →
    Claim.Live s c y g → s.blk? c.blk = some x → y.pmask = 0 →
    (∀ l ∈ s.guardTrue c g, ∀ u, y.threads[l]? = some u → f y u l % n = 0 ∧ (sp = .s → f y u l + n ≤ x.fr.scratch)
      ∧ (sp = .g → f y u l < 2 ^ 56 ∧ s.leaseOk c.blk u.priv (f y u l) n true = true)) →
    ∃ t y', exec i s = .next t ∧ t.cur = .none ∧ t.grp? c.blk c.grp = some y'
      ∧ Claim.Threads c y { y with storeQ := y.storeQ ++ [⟨s.nextId, c.pc, sp == .s, ord == .rel || ord == .ar,
          ord == .acq || ord == .ar, some s.nextId, [], 0, [],
          Claim.perLane y (s.guardTrue c g) fun y u l => ⟨l, f y u l, k y u l, false, none, u.priv⟩⟩] } y' Claim.same
      ∧ y'.s = y.s ∧ Claim.Beside c s t
      ∧ t.acc? s.nextId = some ⟨s.nextId, s.nextId, c.blk, c.grp, c.pc, c.npc, i, .atomic, s.now, c.lanes, 0, [],
          Claim.perLane y (s.guardTrue c g) fun y u l => ⟨l, f y u l, (bc y u l).1, (bc y u l).2, .todo, u.priv⟩⟩

/-- A load, store or atomic whose one guard-true lane is not aligned to its size raises ALIGN with the lane's address, and
no thread performs it (06 R185). -/
def Sys2Proof.Claim.MisalignedForms : Prop :=
  ∀ (i : Instr) (g : Guard) (f : Group → Thread → Nat → Nat) (n : Nat) (s : State) (c : Cur) (y : Group) (l : Nat)
    (u : Thread),
    ((∃ w d, Claim.loadOf i = some (g, w, d, f) ∧ n = w.bytes ∧ retSpc i ≠ .w)
      ∨ (∃ sp rel hnt k, Claim.storeOf i = some (g, sp, n, rel, hnt, f, k))
      ∨ ∃ sp ord k bc, Claim.atomOf i = some (g, sp, ord, n, f, k, bc)) →
    Claim.Issues s c y i g → s.guardTrue c g = [l] → y.threads[l]? = some u → f y u l % n ≠ 0 →
    exec i s = .next ((s.unmark c).takeFault c.blk c.grp l
      { Flt.sync 0x08 c.pc c.npc (f y u l) with lmask := s.doneMask c } c.pc).endTurn

/-- STORE_QUEUE_RETIRE performs a store of n bytes of one lane to the scratchpad, at the address that its entry holds: the
entry leaves the queue, the bytes from that address on are the value's, every other byte of the scratchpad is as it was,
and so are HBM, the caches, the directory and the mesh (06 R181). -/
def Sys2Proof.Claim.SharedStoreRetires : Prop :=
  ∀ (b g : Nat) (s : State) (x : Block) (y : Group) (e : StEntry) (z : StLane) (n : Nat) (val : QWord),
    s.blk? b = some x → x.groups[g]? = some y → y.ended = false → y.storeQ = [e] → e.lanes = [z] → e.shared = true →
    e.rel = false → e.acc = none → z.done = false → z.fail = none → z.kind = .store n val → (∀ a ∈ s.accs, a.blk ≠ b) →
    x.scratch.wf = true →
    ∃ t x' y', exec (.storeQueueRetire b g) s = .next t ∧ t.blk? b = some x' ∧ t.grp? b g = some y' ∧ y'.storeQ = []
      ∧ (∀ k, k < n → x'.scratch.byte (z.va + k) = BitVec.ofNat 8 (val.toNat / 2 ^ (8 * k)))
      ∧ (∀ a, a < z.va ∨ z.va + n ≤ a → x'.scratch.byte a = x.scratch.byte a) ∧ x'.scratch.wf = true
      ∧ y'.threads = y.threads ∧ y'.s = y.s ∧ t.mem = s.mem ∧ t.cores = s.cores ∧ t.dir = s.dir ∧ t.net = s.net

/-- STORE_QUEUE_RETIRE performs an atomic of one lane on the scratchpad: the location takes the new value of the old one,
or stays where the atomic writes nothing, the destination takes the old value, the entry and the access have ended, and
every other byte of the scratchpad is as it was (06 R195, R196, R198). -/
def Sys2Proof.Claim.SharedAtomicRetires : Prop :=
  ∀ (b g : Nat) (s : State) (x : Block) (y : Group) (e : StEntry) (z : StLane) (q : Acc) (p : AccLane) (u : Thread)
    (r : BitVec 7) (n : Nat),
    s.blk? b = some x → x.groups[g]? = some y → y.bast = none → y.storeQ = [e] → e.lanes = [z] → e.shared = true →
    e.rel = false → e.acc = some q.id → s.accs = [q] → q.blk = b → q.grp = g → q.kind = .atomic → q.seq = e.seq →
    q.lanes = [p] → p.lane = z.lane → p.st = .todo → retDst q.ins = some (.v r, n) → y.threads[z.lane]? = some u →
    s.haltedGrp b g = false → z.done = false → z.fail = none → z.plain = false →
    ∃ t x' y', exec (.storeQueueRetire b g) s = .next t ∧ t.blk? b = some x' ∧ t.grp? b g = some y' ∧ y'.storeQ = []
      ∧ t.accs = []
      ∧ x'.scratch = (match opNew (z.kind.homeOp z.va) (x.scratch.num z.va z.span.1) with
          | some v => x.scratch.setNum z.va z.span.1 v
          | none => x.scratch)
      ∧ (∃ u', y'.threads[z.lane]? = some u' ∧ Claim.RegsSet u.v u'.v r.toNat n
          (retExt q.ins (x.scratch.num z.va z.span.1 % 2 ^ 128)))
      ∧ (∀ l, l ≠ z.lane → y'.threads[l]? = y.threads[l]?)
      ∧ t.mem = s.mem ∧ t.cores = s.cores ∧ t.dir = s.dir ∧ t.net = s.net

/-- STORE_QUEUE_RETIRE performs a store of one lane to a sector that the L1 holds in M or E, at the address to which its
name leads: the sector is M, the bytes stored to are the value's, and every other byte of the sector, every other sector of
the caches, HBM, the directory and the mesh are as they were (06 R181; 10 R287). -/
def Sys2Proof.Claim.OwnedStoreRetires : Prop :=
  ∀ (b g : Nat) (s : State) (x : Block) (y : Group) (u : Thread) (e : StEntry) (z : StLane) (n : Nat) (val : QWord)
    (sec : Nat) (le : L1E),
    s.blk? b = some x → x.groups[g]? = some y → y.ended = false → y.storeQ = [e] → e.lanes = [z] →
    y.threads[z.lane]? = some u → u.txn = none → e.shared = false → e.rel = false → e.acc = none → z.done = false → z.fail = none →
    z.kind = .store n val → z.va % n = 0 → (n = 1 ∨ n = 2 ∨ n = 4 ∨ n = 8) → z.va < 2 ^ 56 →
    (∀ a ∈ s.accs, a.blk ≠ b) → s.leaseOk b z.priv z.va n true = true → s.l1Name y.core x.asid z.va = some (sec, le) →
    s.l1? y.core sec = some le → (le.st = .m ∨ le.st = .e) → le.wok = true → le.val.psn = false →
    find? sec (s.core y.core).pend = none → s.conflicts sec true (some (b, g, z.lane)) = [] →
    ∃ t y' le', exec (.storeQueueRetire b g) s = .next t ∧ t.grp? b g = some y' ∧ y'.storeQ = []
      ∧ y'.threads = y.threads ∧ t.l1? y.core sec = some le' ∧ le'.st = .m
      ∧ (∀ k, k < 64 → takeSec le'.val.bytes k 1 = if z.va % 64 ≤ k ∧ k < z.va % 64 + n then
          val.toNat / 2 ^ (8 * (k - z.va % 64)) % 256 else takeSec le.val.bytes k 1)
      ∧ (∀ k q, ¬(k = y.core ∧ q = sec) → t.l1? k q = s.l1? k q) ∧ t.mem = s.mem ∧ t.dir = s.dir ∧ t.net = s.net

/-- STORE_QUEUE_RETIRE performs one aligned half of a 128-bit store of one lane to a sector that the L1 holds in M or E, the
upper or the lower as the model's choice has it (assumption log 55): its eight bytes are the value's, every other byte of the
sector, every other sector of the caches, HBM, the directory and the mesh are as they were, and the entry is left with the
other half to store (06 R194). -/
def Sys2Proof.Claim.WideStoreRetires : Prop :=
  ∀ (b g : Nat) (s : State) (x : Block) (y : Group) (u : Thread) (e : StEntry) (z : StLane) (val : QWord)
    (sec : Nat) (le : L1E),
    s.blk? b = some x → x.groups[g]? = some y → y.ended = false → y.storeQ = [e] → e.lanes = [z] →
    y.threads[z.lane]? = some u → u.txn = none → e.shared = false → e.rel = false → e.acc = none → z.done = false → z.fail = none →
    z.kind = .store 16 val → z.va % 16 = 0 → z.va < 2 ^ 56 →
    (∀ a ∈ s.accs, a.blk ≠ b) → s.leaseOk b z.priv z.va 16 true = true → s.l1Name y.core x.asid z.va = some (sec, le) →
    s.l1? y.core sec = some le → (le.st = .m ∨ le.st = .e) → le.wok = true → le.val.psn = false →
    find? sec (s.core y.core).pend = none → s.conflicts sec true (some (b, g, z.lane)) = [] →
    ∃ t y' le', exec (.storeQueueRetire b g) s = .next t ∧ t.grp? b g = some y' 
      ∧ (y'.storeQ.map fun q => (q.seq, q.lanes)) = [(e.seq, [if Config.upperFirst s.now = true
          then { z with kind := .half false (BitVec.ofNat 64 (val.toNat % 2 ^ 64)) }
          else { z with va := z.va + 8, kind := .half true (BitVec.ofNat 64 (val.toNat / 2 ^ 64)) }])]
      ∧ y'.threads = y.threads ∧ t.l1? y.core sec = some le' ∧ le'.st = .m
      ∧ (∀ k, k < 64 → takeSec le'.val.bytes k 1 = if Config.upperFirst s.now = true then
          (if z.va % 64 + 8 ≤ k ∧ k < z.va % 64 + 16 then val.toNat / 2 ^ (8 * (k - z.va % 64)) % 256
            else takeSec le.val.bytes k 1)
        else if z.va % 64 ≤ k ∧ k < z.va % 64 + 8 then val.toNat / 2 ^ (8 * (k - z.va % 64)) % 256 else takeSec le.val.bytes k 1)
      ∧ (∀ k q, ¬(k = y.core ∧ q = sec) → t.l1? k q = s.l1? k q) ∧ t.mem = s.mem ∧ t.dir = s.dir ∧ t.net = s.net

/-- A store to a sector that the L1 does not hold becomes a pending-store entry, where there is one to take, and its core
asks the slice for ownership by GETX (06 R180, R181; 10 R287). -/
def Sys2Proof.Claim.StoreMissPends : Prop :=
  ∀ (s : State) (w : Agent) (e : StEntry) (z : StLane) (sec : Nat) (wok : Bool) (mode : BitVec 2),
    find? sec (s.core w.core).pend = none → s.l1? w.core sec = none → s.txnOn w = false → z.part.1 ≠ -1 → mode = 0 →
    s.conflicts sec true (some (w.blk, w.grp, w.lane)) = [] → Claim.PoolFree s w.core w.blk w.grp →
    ∃ t, s.retireStore w e [z] sec wok mode = (t, .done 0 none)
      ∧ t.net = s.net ++ [⟨.getx, w.core, sec, SecVal.zero, 0, 0, .core w.core⟩]
      ∧ find? sec (t.core w.core).pend
        = some ⟨z.part.1, mergeSec 0 z.part.1 z.part.2, (s.core w.core).rseq, [(w.blk, w.grp, z.lane, e.pc, z.addr)]⟩
      ∧ (t.l1? w.core sec).map (·.st) = some .imd ∧ t.mem = s.mem ∧ ∀ b g l, t.thr? b g l = s.thr? b g l

/-- The loads: from the scratchpad, the weight store and the L1, and one that misses. -/
def Obligations.LoadForms : Prop := Claim.OnChipLoads ∧ Claim.CachedLoads ∧ Claim.WideLoads ∧ Claim.LoadMissAsks

/-- Stores, zero stores and atomics enter the store queue. -/
def Obligations.StoresIssue : Prop := Claim.StoreForms ∧ Claim.ZeroForm ∧ Claim.AtomicForms

/-- The head of a store queue takes effect, or waits for its sector. -/
def Obligations.StoresRetire : Prop :=
  Claim.SharedStoreRetires ∧ Claim.SharedAtomicRetires ∧ Claim.OwnedStoreRetires ∧ Claim.WideStoreRetires
    ∧ Claim.StoreMissPends

/-- A misaligned access faults. -/
def Obligations.Misaligned : Prop := Claim.MisalignedForms

/-- PREF completes in its one guard-true lane where its address leads to a sector that the L1 does not hold and, for an L1
prefetch, the pending-store buffer has an entry to take: an L1 prefetch asks the slice by GETS, an LLC prefetch joins the sector's queue at the slice where it holds no data of it; no register
and no byte of memory changes (06 R200). -/
def Sys2Proof.Claim.PrefetchForms : Prop :=
  ∀ (h : Hd) (llc : Bool) (hnt : BitVec 2) (a : Opnd) (s : State) (c : Cur) (y : Group) (l : Nat) (u : Thread) (sec : Nat),
    Claim.Issues s c y (.pref h llc hnt a) h.g → s.guardTrue c h.g = [l] → y.threads[l]? = some u →
    s.leaseOk c.blk u.priv (effAddr .g h.ext y u l a) 1 false = true →
    Claim.Misses s (s.agent c.blk c.grp l) (effAddr .g h.ext y u l a) sec →
    (llc = true ∨ Claim.PoolFree s y.core c.blk c.grp) → (s.dirE sec).lv = false → .pref hnt ∉ (s.dirE sec).fifo → (s.dirE sec).req ≠ some (.pref hnt) →
    ∃ t y', exec (.pref h llc hnt a) s = .next t ∧ t.cur = .none ∧ t.grp? c.blk c.grp = some y'
      ∧ Claim.Threads c y y y' Claim.same ∧ y'.s = y.s ∧ t.mem = s.mem
      ∧ (if llc then t.cores = s.cores ∧ t.net = s.net
            ∧ t.dirE sec = { s.dirE sec with fifo := (s.dirE sec).fifo ++ [.pref hnt] }
          else t.dir = s.dir ∧ t.net = s.net ++ [⟨.gets, y.core, sec, SecVal.zero, 0, 0, .core y.core⟩]
            ∧ (t.l1? y.core sec).map (·.st) = some .isd)

/-- XBEG completes where its handler is a target and the core's transactions stay within 64: each guard-true thread is in
a transaction with empty sets whose status register reads 0, and whose handler is the target (06 R201, R207). -/
def Sys2Proof.Claim.TransactionBegins : Prop :=
  ∀ (h : Hd) (d : BitVec 7) (s : State) (c : Cur) (y : Group), Claim.Issues s c y (.xbeg h d) h.g →
    Claim.Lands s c (s.guardTrue c h.g) (fun _ => Claim.directTarget c h.ext) →
    s.txnCount y.core + (s.guardTrue c h.g).length ≤ 64 →
    ∃ t y', exec (.xbeg h d) s = .next t ∧ t.cur = .none ∧ t.grp? c.blk c.grp = some y'
      ∧ Claim.Threads c y y y' (fun l u => if l ∈ s.guardTrue c h.g then
          { u with v := u.v.set d.toNat 0, txn := some ⟨d, State.skipHeader (Claim.directTarget c h.ext), [], [], s.now⟩ }
          else u)
      ∧ y'.s = y.s ∧ Claim.Beside c s t

/-- XEND completes: a guard-true thread outside a transaction reads 2, one whose transaction has written nothing leaves it
and reads 1; nothing else changes (06 R201). -/
def Sys2Proof.Claim.TransactionEnds : Prop :=
  ∀ (h : Hd) (d : BitVec 7) (s : State) (c : Cur) (y : Group), Claim.Issues s c y (.xend h d) h.g →
    (∀ l ∈ s.guardTrue c h.g, ∀ u, y.threads[l]? = some u → ∀ x, u.txn = some x → x.writes = []) →
    ∃ t y', exec (.xend h d) s = .next t ∧ t.cur = .none ∧ t.grp? c.blk c.grp = some y'
      ∧ Claim.Threads c y y y' (fun l u => if l ∈ s.guardTrue c h.g then
          { u with v := u.v.set d.toNat (if u.txn.isSome then 1 else 2), txn := none } else u)
      ∧ y'.s = y.s ∧ Claim.Beside c s t

/-- XEND commits the write set of its one guard-true thread: each sector, which the L1 holds in M or E, is M with the bytes
that the transaction wrote, and the thread leaves the transaction and reads 1 (06 R204). -/
def Sys2Proof.Claim.TransactionCommits : Prop :=
  ∀ (h : Hd) (d : BitVec 7) (s : State) (c : Cur) (y : Group) (l : Nat) (u : Thread) (x : Txn),
    Claim.Issues s c y (.xend h d) h.g → s.guardTrue c h.g = [l] → y.threads[l]? = some u → u.txn = some x →
    x.writes.Pairwise (fun a b => a.1 < b.1) →
    (∀ q ∈ x.writes, ∃ e, s.l1? y.core q.1 = some e ∧ (e.st = .m ∨ e.st = .e)) →
    ∃ t u', exec (.xend h d) s = .next t ∧ t.cur = .none ∧ t.thr? c.blk c.grp l = some u' ∧ u'.txn = none
      ∧ u'.v = u.v.set d.toNat 1 ∧ u'.pc = c.npc
      ∧ (∀ q ∈ x.writes, (t.l1? y.core q.1).map (fun e => (e.st, e.val.bytes)) = some (.m, q.2.bytes))
      ∧ t.mem = s.mem ∧ t.dir = s.dir ∧ t.net = s.net

namespace Sys2Proof.Claim

/-- A store-queue entry whose lanes of a set are done. -/
def doneIn (p : Nat → Bool) (e : StEntry) : StEntry :=
  { e with lanes := e.lanes.map fun (z : StLane) => if p z.lane then { z with done := true } else z }

end Sys2Proof.Claim

/-- XABT completes: each guard-true thread in a transaction, which has written nothing yet, leaves it, its status register
holds cause 0x12 with the code, its PC is the handler, and what its stores had queued is gone; a thread outside a transaction
goes on; no byte of memory changes (06 R206). -/
def Sys2Proof.Claim.TransactionAborts : Prop :=
  ∀ (h : Hd) (code : BitVec 8) (s : State) (c : Cur) (y : Group), Claim.Issues s c y (.xabt h code) h.g →
    (∀ l ∈ s.guardTrue c h.g, ∀ u, y.threads[l]? = some u → ∀ x, u.txn = some x → x.writes = []) →
    ∃ t y', exec (.xabt h code) s = .next t ∧ t.cur = .none ∧ t.grp? c.blk c.grp = some y'
      ∧ Claim.Threads c y { y with storeQ := y.storeQ.map (Claim.doneIn fun l => (s.guardTrue c h.g).contains l && s.inTxn c l) } y'
        (fun l u => match u.txn with
          | some x => if l ∈ s.guardTrue c h.g then
              { u with
                txn := none
                v := u.v.set x.status.toNat (0x12#32 ||| code.zeroExtend 32 <<< 8)
                pc := x.handler } else u
          | none => u)
      ∧ y'.s = y.s ∧ Claim.Beside c s t

/-- XABT of one guard-true thread whose transaction has written sectors that the L1 owns: the thread is at its handler outside
the transaction, and every such sector is given up by PUTC, so that none of the written bytes is seen (06 R206; assumption log
54). -/
def Sys2Proof.Claim.TransactionDiscards : Prop :=
  ∀ (h : Hd) (code : BitVec 8) (s : State) (c : Cur) (y : Group) (l : Nat) (u : Thread) (x : Txn),
    Claim.Issues s c y (.xabt h code) h.g → s.guardTrue c h.g = [l] → y.threads[l]? = some u → u.txn = some x →
    x.writes.Pairwise (fun a b => a.1 < b.1) →
    (∀ q ∈ x.writes, ∃ e, s.l1? y.core q.1 = some e ∧ (e.st = .m ∨ e.st = .e)) →
    ∃ t u', exec (.xabt h code) s = .next t ∧ t.cur = .none ∧ t.thr? c.blk c.grp l = some u' ∧ u'.txn = none
      ∧ u'.v = u.v.set x.status.toNat (0x12#32 ||| code.zeroExtend 32 <<< 8) ∧ u'.pc = x.handler
      ∧ (∀ q ∈ x.writes, (t.l1? y.core q.1).map (·.st) = some .eia)
      ∧ t.net = s.net ++ x.writes.map (fun q => ⟨.putc, y.core, q.1, SecVal.zero, 1, 0, .core y.core⟩)
      ∧ t.mem = s.mem ∧ t.dir = s.dir

namespace Sys2Proof.Claim

/-- A fence: guard, scope, and whether it acquires and releases (09 R267). -/
def fenceOf : Instr → Option (Guard × Scp × Bool × Bool)
  | .fenceAcq g scp => some (g, scp, true, false)
  | .fenceRel g scp => some (g, scp, false, true)
  | .fenceAr g scp => some (g, scp, true, true)
  | _ => none

end Sys2Proof.Claim

/-- A fence completes where no load of its lanes is in flight and, in a wide scope, what it releases is published and what
it acquires is known: the met tags of a wide acquiring fence's lanes are gone, and nothing else changes (09 R267, R268). -/
def Sys2Proof.Claim.FenceForms : Prop :=
  ∀ (i : Instr) (g : Guard) (scp : Scp) (acq rel : Bool) (s : State) (c : Cur) (y : Group),
    Claim.fenceOf i = some (g, scp, acq, rel) → Claim.Issues s c y i g →
    (∀ l ∈ s.guardTrue c g, ∀ u, y.threads[l]? = some u → s.inFlight c.blk c.grp l = 0 ∧ (scp = .grp ∨ scp = .blk ∨
      ((rel = true → u.published = true ∧ u.seals = [])
        ∧ (acq = true → u.metFault = none ∧ ∀ m ∈ u.met, s.tagLive y.core m = false)))) →
    ∃ t y', exec i s = .next t ∧ t.cur = .none ∧ t.grp? c.blk c.grp = some y'
      ∧ Claim.Threads c y y y' (fun l u =>
          if l ∈ s.guardTrue c g ∧ acq = true ∧ scp ≠ .grp ∧ scp ≠ .blk then { u with met := [] } else u)
      ∧ y'.s = y.s ∧ Claim.Beside c s t

/-- A wide releasing fence of one thread whose core has nothing pending publishes at once: the core's PW rises to its
RSEQ, and the thread goes on (09 R259, R267). -/
def Sys2Proof.Claim.FencePublishes : Prop :=
  ∀ (g : Guard) (scp : Scp) (s : State) (c : Cur) (y : Group) (l : Nat) (u : Thread), scp ≠ .grp → scp ≠ .blk →
    Claim.Issues s c y (.fenceRel g scp) g → s.guardTrue c g = [l] → y.threads[l]? = some u →
    s.inFlight c.blk c.grp l = 0 → u.seals = [] → u.published = false → (s.core y.core).drain = none →
    (s.core y.core).pend = [] → (s.core y.core).posted = [] →
    ∃ t y', exec (.fenceRel g scp) s = .next t ∧ t.cur = .none ∧ t.grp? c.blk c.grp = some y'
      ∧ Claim.Threads c y y y' Claim.same ∧ y'.s = y.s ∧ t.mem = s.mem
      ∧ (t.core y.core).pw = (if seqAbove (s.core y.core).rseq (s.core y.core).pw then (s.core y.core).rseq
          else (s.core y.core).pw)
      ∧ (t.core y.core).l1 = (s.core y.core).l1

namespace Sys2Proof.Claim

/-- A CFLUSH or CINV: its form, its operands and whether it invalidates (10 R293). -/
def maintOf : Instr → Option (Hd × Opnd × Opnd × Bool)
  | .cflush h a b => some (h, a, b, false)
  | .cinv h a b => some (h, a, b, true)
  | _ => none

end Sys2Proof.Claim

/-- CFLUSH and CINV complete once every sector of each guard-true lane's range has had its step: the threads go on, and
nothing else changes (10 R294). -/
def Sys2Proof.Claim.MaintenanceForms : Prop :=
  ∀ (i : Instr) (h : Hd) (a b : Opnd) (inv : Bool) (s : State) (c : Cur) (y : Group),
    Claim.maintOf i = some (h, a, b, inv) → Claim.Issues s c y i h.g →
    (∀ l ∈ s.guardTrue c h.g, ∀ u, y.threads[l]? = some u → src32 h.ext y u l b = 0 ∨
      ∃ m, u.maint = some m ∧ m.fail = none ∧ m.sent = false ∧ m.base + m.len ≤ m.next) →
    ∃ t y', exec i s = .next t ∧ t.cur = .none ∧ t.grp? c.blk c.grp = some y'
      ∧ Claim.Threads c y y y' Claim.same ∧ y'.s = y.s ∧ Claim.Beside c s t

/-- The step of a CFLUSH or CINV for a sector that its one lane's L1 holds: CFLQ or CINVQ goes to the slice, CINV first
gives the sector up by PUTM where it is dirty, else by PUTC, and the group waits (10 R294, R296). -/
def Sys2Proof.Claim.MaintenanceSteps : Prop :=
  ∀ (i : Instr) (h : Hd) (a b : Opnd) (inv : Bool) (s : State) (c : Cur) (y : Group) (l : Nat) (u : Thread) (sec : Nat)
    (e : L1E), Claim.maintOf i = some (h, a, b, inv) → Claim.Issues s c y i h.g → s.guardTrue c h.g = [l] →
    y.threads[l]? = some u → u.maint = none → (s.core y.core).posted = [] → src32 h.ext y u l b ≠ 0 →
    src64 .l64 y u l a % 64 + src32 h.ext y u l b ≤ 64 → src64 .l64 y u l a < 2 ^ 56 →
    s.leaseOk c.blk u.priv (src64 .l64 y u l a) (src32 h.ext y u l b) false = true →
    s.l1Name y.core (s.agent c.blk c.grp l).asid (src64 .l64 y u l a) = some (sec, e) → s.l1? y.core sec = some e →
    e.st.stable = true → find? sec (s.core y.core).pend = none →
    ∃ t, exec i s = .next t ∧ t.cur = s.cur ∧ t.mem = s.mem ∧ t.dir = s.dir
      ∧ t.net = s.net ++ (if inv then [⟨if e.st = .m ∨ e.st = .o then .putm else .putc, y.core, sec, e.val,
          if s.lastHolder y.core sec then 1 else 0, 0, .core y.core⟩] else [])
        ++ [⟨if inv then .cinvq else .cflq, y.core, sec, SecVal.zero, 0, 0, .core y.core⟩]
      ∧ ∃ u', t.thr? c.blk c.grp l = some u' ∧ u'.maint = some ⟨src64 .l64 y u l a, src32 h.ext y u l b,
          src64 .l64 y u l a / 64 * 64, true, none⟩

/-- A bounded transaction begins, ends, commits and aborts. -/
def Obligations.Transactions : Prop :=
  Claim.TransactionBegins ∧ Claim.TransactionEnds ∧ Claim.TransactionCommits ∧ Claim.TransactionAborts
    ∧ Claim.TransactionDiscards

/-- PREF, and the fences. -/
def Obligations.PrefetchAndFences : Prop := Claim.PrefetchForms ∧ Claim.FenceForms ∧ Claim.FencePublishes

/-- CFLUSH and CINV at their issue, and line by line. -/
def Obligations.Maintenance : Prop := Claim.MaintenanceForms ∧ Claim.MaintenanceSteps

namespace Sys2Proof.Claim

/-- A collective instruction: its guard, whether it multicasts, its barrier, DST and hint fields, and what a lane supplies
(11 R302, R306, R310). -/
def copyOf : Instr → Option (Guard × Bool × Option (BitVec 4) × BitVec 16 × BitVec 2
    × (Group → Thread → Nat → CopyArgs))
  | .cpy g dspc sspc bar dist hnt a b c => some (g, false, bar, dist, hnt, fun y u l =>
      ⟨false, dspc, sspc, bar, dist, hnt, copyAddr dspc y u l a, copyAddr sspc y u l b, src32 .l64 y u l c, 0⟩)
  | .cpym g sspc bar len a b c => some (g, true, bar, 0, 0, fun y u l =>
      ⟨true, .s, sspc, bar, 0, 0, copyAddr .s y u l a, copyAddr sspc y u l b, len.toNat, BitVec.ofNat 64 (src64 .l64 y u l c)⟩)
  | _ => none

/-- A copy of at least one unit whose operands pass the checks of R306 and R310. -/
def Copyable (x : Block) (a : CopyArgs) : Prop :=
  a.len ≠ 0 ∧ a.daddr % 16 = 0 ∧ a.saddr % 16 = 0 ∧ a.len % 16 = 0 ∧ a.dspc ≠ .w
  ∧ (a.dspc = .s → a.daddr + a.len ≤ x.fr.scratch) ∧ (a.sspc = .s → a.saddr + a.len ≤ x.fr.scratch)
  ∧ (a.sspc = .w → a.saddr + a.len ≤ 2 ^ 30 ∧ x.fr.ws = true)
  ∧ (a.multi = true → a.mask ≠ 0 ∧ ∀ k ∈ maskClusters a.mask, k ∈ x.partition)

/-- Every batch that a thread of the block has sealed is still in progress (11 R314). -/
def Unsettled (s : State) (b : Nat) : Prop :=
  ∀ g l u n, s.thr? b g l = some u → n ∈ u.seals → s.batchLive b g l n = true

/-- Global memory, the caches, the directory and the mesh are as they were. -/
def MemorySame (s t : State) : Prop :=
  (∀ a, byteAt t a = byteAt s a) ∧ t.mem = s.mem ∧ t.wstore = s.wstore ∧ t.dir = s.dir ∧ t.net = s.net

end Sys2Proof.Claim

/-- CPY and CPYM complete their issue as the first of their block's collective: the collective of the group's count begins
with the slice that the lowest guard-true lane supplies, in the open batch of each guard-true thread, the count rises by
one, and no byte is moved yet (11 R302, R303, R314). -/
def Sys2Proof.Claim.CopyForms : Prop :=
  ∀ (i : Instr) (g : Guard) (multi : Bool) (bar : Option (BitVec 4)) (dist : BitVec 16) (hnt : BitVec 2)
    (f : Group → Thread → Nat → CopyArgs) (s : State) (c : Cur) (y : Group) (x : Block) (l : Nat) (u : Thread),
    Claim.copyOf i = some (g, multi, bar, dist, hnt, f) → Claim.Issues s c y i g → Claim.Live s c y g →
    s.blk? c.blk = some x → x.colls = [] → x.abandoned = false → Claim.Unsettled s c.blk →
    (∀ z ∈ x.groups, z.ended = false ∧ z.cc.toNat ≤ y.cc.toNat) → (s.guardTrue c g).head? = some l →
    y.threads[l]? = some u → Claim.Copyable x (f y u l) →
    ∃ t y' x', exec i s = .next t ∧ t.cur = .none ∧ t.grp? c.blk c.grp = some y' ∧ t.blk? c.blk = some x'
      ∧ Claim.Threads c y { y with cc := y.cc + 1 } y' Claim.same ∧ y'.s = y.s
      ∧ x'.colls = [⟨y.cc.toNat, multi, bar, c.pc,
          [⟨s.nextId, c.grp, l, c.pc, (f y u l).dspc, (f y u l).sspc, (f y u l).daddr, (f y u l).saddr, (f y u l).len,
            (f y u l).len, (f y u l).mask, u.priv, false, false, dist, hnt⟩],
          Claim.perLane y (s.guardTrue c g) fun _ u l => (c.grp, l, u.ob), false⟩]
      ∧ x'.scratch = x.scratch ∧ x'.nb = x.nb ∧ Claim.MemorySame s t ∧ t.cores = s.cores

/-- COPY_SLICE_DONE performs the last unit of a slice between two places of the scratchpad that do not meet: its sixteen
bytes lie at the destination, every other byte of the scratchpad is as it was, and the slice is done; no other memory
changes (11 R307). -/
def Sys2Proof.Claim.CopySliceUnit : Prop :=
  ∀ (b n g : Nat) (s : State) (x : Block) (y : Group) (k : Coll) (z : Slice),
    s.blk? b = some x → x.groups = [y] → y.storeQ = [] → g = 0 → x.colls = [k] → k.num = n → k.slices = [z] → z.grp = g →
    k.multi = false → k.bar = none → k.closed = false → z.done = false → z.fixed = false → z.rem = 16 → z.len = 16 →
    z.dspc = .s → z.sspc = .s → (z.saddr + 16 ≤ z.daddr ∨ z.daddr + 16 ≤ z.saddr) → x.fixups = [] → x.halting = [] →
    (∀ a ∈ s.accs, a.blk ≠ b) → (s.core y.core).pend = [] → (s.core y.core).posted = [] →
    ∃ t x', exec (.copySliceDone b n g) s = .next t ∧ t.blk? b = some x'
      ∧ (∀ j, j < 16 → x'.scratch.byte (z.daddr + j) = x.scratch.byte (z.saddr + j))
      ∧ (∀ a, a < z.daddr ∨ z.daddr + 16 ≤ a → x'.scratch.byte a = x.scratch.byte a)
      ∧ x'.colls = [] ∧ x'.nb = x.nb ∧ Claim.MemorySame s t ∧ t.cores = s.cores

/-- CRDPTR and CFIXQ complete: each guard-true lane's destination takes the write pointer, or the word of the fix-up list,
the replay and the collectives in flight; nothing else changes (11 R313, R327). -/
def Sys2Proof.Claim.CopyStateForms : Prop :=
  ∀ (i : Instr) (g : Guard) (d : Opnd) (v : Nat) (s : State) (c : Cur) (y : Group) (x : Block),
    ((∃ h n, i = .crdptr h n d ∧ g = h.g ∧ v = (x.cwp.getD n.toNat 0).toNat)
      ∨ ∃ h, i = .cfixq h d ∧ g = h.g ∧ v = min 1024 x.fixups.length + (if x.replaying then 2 ^ 11 else 0)
        + min 15 (x.colls.countP fun k => !k.closed) * 2 ^ 12) →
    Claim.Issues s c y i g → s.blk? c.blk = some x →
    ∃ t y', exec i s = .next t ∧ t.cur = .none ∧ t.grp? c.blk c.grp = some y'
      ∧ Claim.Writes c (s.guardTrue c g) d 1 (fun _ => v) Claim.same y y y' ∧ Claim.Beside c s t

/-- CSEAL completes where each lane has fewer than eight sealed batches: its destination takes the number of the open
batch, which is sealed where it is still in progress, and the next batch is open, past number 0 (11 R315). -/
def Sys2Proof.Claim.SealForm : Prop :=
  ∀ (h : Hd) (d : Opnd) (s : State) (c : Cur) (y : Group), Claim.Issues s c y (.cseal h d) h.g →
    Claim.Unsettled s c.blk → (∀ l ∈ s.guardTrue c h.g, ∀ u, y.threads[l]? = some u → u.seals.length < 8) →
    ∃ t y', exec (.cseal h d) s = .next t ∧ t.cur = .none ∧ t.grp? c.blk c.grp = some y'
      ∧ Claim.Writes c (s.guardTrue c h.g) d 1 (Claim.laneVal y fun _ u _ => u.ob.toNat)
          (fun l u => if l ∈ s.guardTrue c h.g then
            { u with
              seals := u.seals ++ (if s.batchLive c.blk c.grp l u.ob then [u.ob] else [])
              ob := if u.ob + 1 = 0 then 1 else u.ob + 1 } else u) y y y'
      ∧ Claim.Beside c s t

/-- CWAIT completes where every batch up to its operand has completed in each guard-true lane, and no lane holds a deferred
record: the threads go on and nothing else changes (11 R316). -/
def Sys2Proof.Claim.BatchWaitForm : Prop :=
  ∀ (h : Hd) (a : Opnd) (s : State) (c : Cur) (y : Group), Claim.Issues s c y (.cwait h a) h.g →
    (∀ l ∈ s.guardTrue c h.g, ∀ u, y.threads[l]? = some u → u.deferred = none ∧
      ∀ m ∈ u.seals, seqAbove m (BitVec.ofNat 32 (src32 h.ext y u l a)) = true) →
    ∃ t y', exec (.cwait h a) s = .next t ∧ t.cur = .none ∧ t.grp? c.blk c.grp = some y'
      ∧ Claim.Threads c y y y' Claim.same ∧ y'.s = y.s ∧ Claim.Beside c s t

/-- BARI completes: the barrier of the lowest guard-true lane's operands is initialised, with its count between 1 and 256,
where its count or its byte count differs, and is left alone where both agree; every other barrier is as it was (11
R320). -/
def Sys2Proof.Claim.BarrierInit : Prop :=
  ∀ (h : Hd) (n : BitVec 4) (a b : Opnd) (s : State) (c : Cur) (y : Group) (x : Block) (z : Barrier) (l : Nat) (u : Thread),
    Claim.Issues s c y (.bari h n a b) h.g → s.blk? c.blk = some x → x.nb[n.toNat]? = some z →
    (s.guardTrue c h.g).head? = some l → y.threads[l]? = some u →
    ∃ t y' x', exec (.bari h n a b) s = .next t ∧ t.cur = .none ∧ t.grp? c.blk c.grp = some y' ∧ t.blk? c.blk = some x'
      ∧ Claim.Threads c y y y' Claim.same ∧ y'.s = y.s
      ∧ x'.nb = x.nb.set n.toNat (
          let k := min (max (src32 h.ext y u l a) 1) 256
          let e : Word := BitVec.ofNat 32 (src32 h.ext y u l b)
          if z.cnt = k ∧ z.eb = e then z else ⟨z.ph, k, k, e.toNat, e, z.aseq⟩)
      ∧ x'.scratch = x.scratch ∧ x'.colls = x.colls ∧ Claim.MemorySame s t ∧ t.cores = s.cores

namespace Sys2Proof.Claim

/-- A barrier after an arrival with k bytes by core i of its block, whose release has sequence q: it counts down, its bytes
outstanding are a signed number of 40 bits, and the phase ends where neither arrivals nor bytes are outstanding (11 R318,
R321, R323). -/
def arrived (z : Barrier) (k i : Nat) (q : Word) : Barrier :=
  if z.cnt = 0 then z
  else if z.arr - 1 = 0 ∧ (BitVec.ofInt 40 (z.txb + k)).toInt = 0 then ⟨z.ph + 1, z.cnt, z.cnt, z.eb.toNat, z.eb, z.aseq.set i q⟩
  else ⟨z.ph, z.cnt, z.arr - 1, (BitVec.ofInt 40 (z.txb + k)).toInt, z.eb, z.aseq.set i q⟩

end Sys2Proof.Claim

/-- BARA and BARX complete where RSEQ has room and no guard-true lane holds a deferred record: the group's token takes the
phase, the core's RSEQ advances, and the barrier counts the arrival with the bytes of the lowest guard-true lane; memory is
as it was (11 R321; 09 R271). -/
def Sys2Proof.Claim.BarrierArrivals : Prop :=
  ∀ (i : Instr) (h : Hd) (n : BitVec 4) (k : Nat) (s : State) (c : Cur) (y : Group) (x : Block) (z : Barrier) (l : Nat)
    (u : Thread), (i = .bara h n ∧ k = 0 ∨ ∃ b, i = .barx h n b ∧ k = src32 h.ext y u l b) →
    Claim.Issues s c y i h.g → s.blk? c.blk = some x → x.nb[n.toNat]? = some z → (s.guardTrue c h.g).head? = some l →
    y.threads[l]? = some u → s.rseqRoom y.core = true → (∀ j ∈ s.guardTrue c h.g, s.deferredChk c j = none) →
    ∃ t y' x', exec i s = .next t ∧ t.cur = .none ∧ t.grp? c.blk c.grp = some y' ∧ t.blk? c.blk = some x'
      ∧ y'.tok = y.tok.set n.toNat z.ph ∧ y'.s = y.s
      ∧ (∀ j u', y.threads[j]? = some u' → c.lanes.getLsbD j = true →
          (y'.threads[j]?).map (fun v => (v.pc, v.v, v.p)) = some (c.npc, u'.v, u'.p))
      ∧ x'.nb = x.nb.set n.toNat (Claim.arrived z k y.cidx ((s.core y.core).rseq + 1))
      ∧ x'.scratch = x.scratch ∧ x'.colls = x.colls ∧ (t.core y.core).rseq = (s.core y.core).rseq + 1
      ∧ (∀ k q, t.l1? k q = s.l1? k q) ∧ t.mem = s.mem ∧ t.dir = s.dir ∧ t.net = s.net

/-- BARW completes where the barrier's phase has left the group's token, or it counts no arrivals, and the arrivals of the
block's other cores are published: the threads go on and nothing else changes (11 R322; 09 R271). -/
def Sys2Proof.Claim.BarrierWaitEnds : Prop :=
  ∀ (h : Hd) (n : BitVec 4) (s : State) (c : Cur) (y : Group) (x : Block) (z : Barrier),
    Claim.Issues s c y (.barw h n) h.g → s.blk? c.blk = some x → x.nb[n.toNat]? = some z →
    (z.cnt = 0 ∨ z.ph ≠ y.tok.getD n.toNat 0) →
    (∀ q ∈ x.cores.zipIdx, q.1 = y.core ∨ seqAbove (z.aseq.getD q.2 0) (s.core q.1).rseq = true
      ∨ s.tagLive y.core ⟨s.pkg.id, BitVec.ofNat 8 q.1, z.aseq.getD q.2 0, false⟩ = false) →
    ∃ t y', exec (.barw h n) s = .next t ∧ t.cur = .none ∧ t.grp? c.blk c.grp = some y'
      ∧ Claim.Threads c y y y' Claim.same ∧ y'.s = y.s ∧ Claim.Beside c s t

/-- BARW at a barrier whose phase is still the group's token holds its one guard-true thread there, and the group does not
issue (11 R322). -/
def Sys2Proof.Claim.BarrierWaitHolds : Prop :=
  ∀ (h : Hd) (n : BitVec 4) (s : State) (c : Cur) (y : Group) (x : Block) (z : Barrier) (l : Nat) (u : Thread),
    Claim.Issues s c y (.barw h n) h.g → s.blk? c.blk = some x → x.nb[n.toNat]? = some z → z.cnt ≠ 0 →
    z.ph = y.tok.getD n.toNat 0 → s.guardTrue c h.g = [l] → y.threads[l]? = some u →
    ∃ t, exec (.barw h n) s = .next t ∧ t.cur = s.cur ∧ t.thr? c.blk c.grp l = some { u with hold := some (.barrier n) }
      ∧ Claim.MemorySame s t

/-- CPY and CPYM enter the copy engine, which moves their bytes. -/
def Obligations.Copies : Prop := Claim.CopyForms ∧ Claim.CopySliceUnit

/-- The forms that read or change the state of copies and batches. -/
def Obligations.CopyState : Prop := Claim.CopyStateForms ∧ Claim.SealForm ∧ Claim.BatchWaitForm

/-- Named barriers: made, arrived at, and waited for. -/
def Obligations.Barriers : Prop :=
  Claim.BarrierInit ∧ Claim.BarrierArrivals ∧ Claim.BarrierWaitEnds ∧ Claim.BarrierWaitHolds

namespace Sys2Proof.Claim

/-- A bulk fabric form: its guard, kind, combining operator, format, collective and operands (15 R396, R397, R400). -/
def bulkOf : Instr → Option (Guard × Nat × FOp3 × Fmt × BitVec 16 × Opnd × Opnd × Opnd)
  | .fput g a b n => some (g, 0, .add, .fp32, 0, a, b, n)
  | .fget g a b n => some (g, 1, .add, .fp32, 0, a, b, n)
  | .fred g op fmt id a b n => some (g, 2, op, fmt, id, a, b, n)
  | _ => none

/-- A signal: its guard, whether it adds, and its operands (15 R398). -/
def signalOf : Instr → Option (Guard × Bool × Opnd × Opnd)
  | .fsigSet g a b => some (g, false, a, b)
  | .fsigAdd g a b => some (g, true, a, b)
  | _ => none

end Sys2Proof.Claim

/-- FPUT, FGET and FRED complete their issue where the one guard-true lane's addresses are aligned, fewer than four of its
transfers are unsent, and this package is a member of FRED's collective: the threads go on, a transfer with the lane's
operands in its open batch is handed to the fabric engine, which works on it at once (15 R397, R400). -/
def Sys2Proof.Claim.BulkForms : Prop :=
  ∀ (i : Instr) (g : Guard) (k : Nat) (op : FOp3) (fmt : Fmt) (id : BitVec 16) (a b n : Opnd) (s : State) (c : Cur)
    (y : Group) (l : Nat) (u : Thread), Claim.bulkOf i = some (g, k, op, fmt, id, a, b, n) → Claim.Issues s c y i g →
    s.guardTrue c g = [l] → y.threads[l]? = some u → src32 .l64 y u l n ≠ 0 → src64 .l64 y u l a % 16 = 0 →
    src64 .l64 y u l b % 16 = 0 → (k ≠ 2 → src32 .l64 y u l n % 16 = 0 ∧ s.unsent c.blk c.grp l < 4) →
    (k = 2 → ∃ z, s.collective? id = some z ∧ s.self ∈ z.members) →
    ∃ (m : State) (y' : Group), exec i s = .next (m.bulkPump (s.nextId + 1)).endTurn ∧ m.grp? c.blk c.grp = some y'
      ∧ Claim.Threads c y y y' Claim.same ∧ y'.s = y.s ∧ m.mem = s.mem ∧ m.cores = s.cores ∧ m.dir = s.dir ∧ m.net = s.net
      ∧ m.fab.bulks = s.fab.bulks ++ [⟨s.nextId + 1, c.blk, c.grp, l, c.pc, k, src64 .l64 y u l a, src64 .l64 y u l b,
          src32 .l64 y u l n, u.ob, ((s.collective? id).map (·.rounds)).getD 0, op, fmt, id,
          if k = 2 then src32 .l64 y u l n else 0, [], [], u.priv⟩]
      ∧ m.fab.unacked = s.fab.unacked

/-- FSIG.SET and FSIG.ADD complete where each guard-true lane's address is aligned to eight bytes and its FPUTs are sent:
one entry with each lane's address and value enters the group's store queue, and nothing else changes (15 R398). -/
def Sys2Proof.Claim.SignalForms : Prop :=
  ∀ (i : Instr) (g : Guard) (add : Bool) (a b : Opnd) (s : State) (c : Cur) (y : Group),
    Claim.signalOf i = some (g, add, a, b) → Claim.Issues s c y i g → s.guardTrue c g ≠ [] →
    (∀ l ∈ s.guardTrue c g, ∀ u, y.threads[l]? = some u → src64 .l64 y u l a % 8 = 0) →
    (∀ k ∈ s.fab.bulks, k.blk = c.blk → k.grp = c.grp → k.kind = 0 → k.rem = 0) →
    ∃ t y', exec i s = .next t ∧ t.cur = .none ∧ t.grp? c.blk c.grp = some y'
      ∧ Claim.Threads c y { y with storeQ := y.storeQ ++ [⟨s.nextId, c.pc, false, false, false, none, [], 0, [],
          Claim.perLane y (s.guardTrue c g) fun y u l =>
            ⟨l, src64 .l64 y u l a, .signal add (BitVec.ofNat 64 (src64 .l64 y u l b)), false, none, u.priv⟩⟩] } y' Claim.same
      ∧ y'.s = y.s ∧ Claim.Beside c s t

/-- FATOM of one lane on a sector homed here, which the TLB maps, no other package holds and no tag or poison marks,
completes at its issue: the location takes the new value of the old one, the destination takes the old value, and the other
bytes of the sector are as they were (15 R396, R403). -/
def Sys2Proof.Claim.FatomAtHome : Prop :=
  ∀ (g : Guard) (op : Aop) (ty : Aty) (ord : Ord) (scp : Scp) (r : BitVec 7) (a b k : Opnd) (s : State) (c : Cur)
    (y : Group) (l : Nat) (u : Thread) (va pa : Nat) (e : Tlb),
    Claim.Issues s c y (.fatom g op ty ord scp (.v r) a b k) g → Claim.Quiet s c → s.guardTrue c g = [l] →
    y.threads[l]? = some u → va = src64 .l64 y u l a → va % (4 * ty.regs) = 0 → va < 2 ^ 56 →
    s.leaseOk c.blk u.priv va (4 * ty.regs) true = true → s.l1Name y.core (s.agent c.blk c.grp l).asid va = none →
    (getD [] s.xlt.tlb (y.core / 4)).find? (fun e => e.asid == (s.agent c.blk c.grp l).asid && e.vpage ≤ va
      && va < e.vpage + e.size) = some e →
    e.broken = false → e.r = true → e.w = true → e.priv = false → e.dirty = true → e.mode = 0 → gpaHome e.pa = s.self →
    gpaOff e.pa < 2 ^ 51 → pa = e.phys va → pa % 64 = va % 64 → gpaOff pa < 2 ^ 51 → pa % 64 + 4 * ty.regs ≤ 64 → s.homed (pa / 64) = true →
    s.l1? y.core (pa / 64) = none → (s.core y.core).posted = [] → (s.core y.core).pend = [] → s.hom.pod = [] →
    (s.cohRead (pa / 64)).tag = none → (s.cohRead (pa / 64)).psn = false → s.conflicts (pa / 64) true none = [] →
    s.mem.wf = true →
    let old := takeSec (s.cohRead (pa / 64)).bytes (pa % 64) (4 * ty.regs)
    let q : QWord := BitVec.ofNat 128 (srcVal (.int (32 * ty.regs)) .l64 y u l b)
    let p : QWord := BitVec.ofNat 128 (srcVal (.int (32 * ty.regs)) .l64 y u l k)
    ∃ t u', exec (.fatom g op ty ord scp (.v r) a b k) s = .next t ∧ t.cur = .none ∧ t.thr? c.blk c.grp l = some u'
      ∧ u'.pc = c.npc ∧ u'.p = u.p ∧ Claim.RegsSet u.v u'.v r.toNat ty.regs old
      ∧ (∀ j, j < 64 → takeSec (t.cohRead (pa / 64)).bytes j 1 =
          match opNew (fatomOp (.fatom g op ty ord scp (.v r) a b k) pa q p) old with
          | some v => if pa % 64 ≤ j ∧ j < pa % 64 + 4 * ty.regs then v / 2 ^ (8 * (j - pa % 64)) % 256
              else takeSec (s.cohRead (pa / 64)).bytes j 1
          | none => takeSec (s.cohRead (pa / 64)).bytes j 1)

namespace Sys2Proof.Claim

/-- What a wait of a fixed time does to a thread: YIELD holds it for 64 cclk, SLEEP for as many as it names (19 R482,
R484). -/
def waitOf (now : Nat) (y : Group) : Instr → Option (Guard × (Nat → Thread → Thread))
  | .yield h => some (h.g, fun _ u => { u with hold := some (.yield (now + 64)) })
  | .sleep h a => some (h.g, fun l u =>
      let n := laneVal y (fun y u l => src32 h.ext y u l a) l
      if n = 0 then u else { u with hold := some (.sleep (now + n)) })
  | _ => none

end Sys2Proof.Claim

/-- YIELD and SLEEP complete: the threads move on, each guard-true one held as its form says, and nothing else changes. -/
def Sys2Proof.Claim.WaitForms : Prop :=
  ∀ (i : Instr) (g : Guard) (f : Nat → Thread → Thread) (s : State) (c : Cur) (y : Group),
    Claim.waitOf s.now y i = some (g, f) → Claim.Issues s c y i g →
    ∃ t y', exec i s = .next t ∧ t.cur = .none ∧ t.grp? c.blk c.grp = some y'
      ∧ Claim.Threads c y y y' (fun l u => if l ∈ s.guardTrue c g then f l u else u)
      ∧ y'.s = y.s ∧ Claim.Beside c s t

/-- WAITMEM of one lane that hits the L1 completes where the word meets its condition: the thread goes on and nothing else
changes; where it does not, the thread is held for 2,048 cclk or until its sector changes, and the wait stays in flight (19
R483). -/
def Sys2Proof.Claim.WaitmemForm : Prop :=
  ∀ (h : Hd) (cc : WCond) (a b : Opnd) (s : State) (c : Cur) (y : Group) (l : Nat) (u : Thread) (sec : Nat) (e : L1E),
    Claim.Issues s c y (.waitmem h cc a b) h.g → Claim.Quiet s c → s.guardTrue c h.g = [l] → y.threads[l]? = some u →
    y.storeQ = [] → u.txn = none → u.hold = none →
    Claim.Hits s (s.agent c.blk c.grp l) (src64 h.ext y u l a) 4 sec e →
    ∃ t y', exec (.waitmem h cc a b) s = .next t ∧ t.cur = .none ∧ t.grp? c.blk c.grp = some y' ∧ Claim.Beside c s t
      ∧ (if wcondOk cc (takeSec e.val.bytes (src64 h.ext y u l a % 64) 4) (src32 h.ext y u l b) = true then
          Claim.Threads c y y y' Claim.same ∧ t.acc? s.nextId = none
        else Claim.Threads c y y y' (fun j v => if j = l then
            { v with hold := some (.waitmem (src64 h.ext y u l a) (s.now + 2048)) } else v)
          ∧ (t.acc? s.nextId).map (·.lanes.map (·.st)) = some [.todo])

/-- SPAWN of one lane completes where what it releases is published, its record has been read, and its queue takes pushes
from its address space and has room: TAIL of the queue rises by one, and the thread goes on (19 R480, R481). -/
def Sys2Proof.Claim.SpawnForm : Prop :=
  ∀ (h : Hd) (a b : Opnd) (s m : State) (c : Cur) (y : Group) (l : Nat) (u : Thread) (q : Nat) (bs : List Byte) (d : Queue),
    Claim.Issues s c y (.spawn h a b) h.g → s.guardTrue c h.g = [l] → y.threads[l]? = some u →
    (s.doneMask c).getLsbD l = false → s.inFlight c.blk c.grp l = 0 → u.published = true → u.seals = [] → u.txn = none →
    src64 h.ext y u l a % 32 = 0 → q = src32 h.ext y u l b → q ≤ 1023 →
    s.takesPush q (s.agent c.blk c.grp l).asid = true →
    s.readRange (s.agent c.blk c.grp l) (.spill c.blk c.grp l) (src64 h.ext y u l a) 32 = (m, .bytes bs) →
    m.thr? c.blk c.grp l = some u → m.queueOf q = d → d.room = true →
    ∃ t, exec (.spawn h a b) s = .next t ∧ t.cur = .none ∧ t.thr? c.blk c.grp l = some (u.moved c)
      ∧ find? q t.dsp.queues = some { d with tail := (d.tail + 1) % 2 ^ 22 }

/-- SRD completes: each guard-true lane's destination takes what the register it names reads, one word or two; nothing else
changes (20 R511). -/
def Sys2Proof.Claim.SrdForm : Prop :=
  ∀ (h : Hd) (d : Opnd) (s : State) (c : Cur) (y : Group) (x : Block), Claim.Issues s c y (.srd h d) h.g →
    s.blk? c.blk = some x →
    ∃ t y', exec (.srd h d) s = .next t ∧ t.cur = .none ∧ t.grp? c.blk c.grp = some y'
      ∧ Claim.Writes c (s.guardTrue c h.g) d (sysRegRegs h.ext)
          (Claim.laneVal y (t.laneRead x c.grp (sysRegNum h.ext))) Claim.same y y y'
      ∧ Claim.Beside c s t

/-- The identity registers read the lane, its quad, the group, the block, the grid, the core's index, the cluster, the core,
the package and its cell, or 64 where the cell table does not list it (20 R511). -/
def Sys2Proof.Claim.IdentityRegisters : Prop :=
  ∀ (s : State) (x : Block) (g : Nat) (y : Group) (u : Thread) (l : Nat),
    (List.range 10).map (fun n => s.laneRead x g n y u l) =
      [l, l / 4, g, x.blkid, x.gridid, y.cidx, x.cluster, y.core, s.pkg.id.toNat, (s.cellOf s.pkg.id.toNat).getD 64]

namespace Sys2Proof.Claim

/-- The registers that a write sets whole, with the bits that hold. -/
def rwMask (n : Nat) : Option Word :=
  [(0x120, 0xFFFFFF80#32), (0x121, 0xFFFFFF), (0x122, -1), (0x123, -1), (0x124, 0x3FF), (0x380, 0xFFFF), (0x381, 0x3FFFFFF),
    (0x382, 0xFFFFFFC0), (0x3A3, -1), (0x3A4, -1), (0x3A5, 0xFFFF), (0x3A6, 0xFFFF), (0x3C1, 0xFFFFF), (0x3E0, 0xFFFFC000),
    (0x3E1, 0x3FFFFFFF), (0x3E2, -1), (0x3E3, 0xFFFFFF), (0x400, 0xFFFFF000), (0x401, 0x3FFFFFFF), (0x402, 0xFFFFF000),
    (0x403, 0x3FFFFFFF), (0x405, 0x7FF), (0x408, -1), (0x602, 0xFFFFF), (0x603, 0xFFFFFFC0), (0x604, 0x3FFFF), (0x606, -1),
    (0x607, -1), (0x608, 0xFFFFF000), (0x609, 0x3FFFFFFF), (0x721, 0xFFF)].findSome? fun (k, m) =>
      if k = n then some m else none

end Sys2Proof.Claim

/-- SWR of one lane to a register that a write sets whole completes: the register reads back the bits of the value that it
has, every other register of the package, memory, the caches and every register of the threads are as they were, and the
threads go on (00 R5; 20 R512). -/
def Sys2Proof.Claim.SwrForm : Prop :=
  ∀ (h : Hd) (a : Opnd) (m : Word) (s : State) (c : Cur) (y : Group) (l : Nat) (u : Thread),
    Claim.rwMask (sysRegNum h.ext) = some m → Claim.Issues s c y (.swr h a) h.g → s.guardTrue c h.g = [l] →
    y.threads[l]? = some u →
    ∃ t y', exec (.swr h a) s = .next t ∧ t.cur = .none ∧ t.grp? c.blk c.grp = some y'
      ∧ Claim.Threads c y y y' Claim.same ∧ y'.s = y.s
      ∧ t.pkgRead (sysRegNum h.ext) = (BitVec.ofNat 32 (srcVal (.int 32) .l64 y u l a) &&& m).toNat
      ∧ (∀ k, k ≠ sysRegNum h.ext → t.pkgRead k = s.pkgRead k)
      ∧ t.mem = s.mem ∧ t.cores = s.cores ∧ t.dir = s.dir ∧ t.net = s.net ∧ t.out = s.out

/-- HALT completes in privileged mode where no load of its lanes is in flight and what it publishes and acquires is done:
every thread of the group that has not exited is halted, and nothing else changes (20 R514). -/
def Sys2Proof.Claim.HaltForm : Prop :=
  ∀ (g : Guard) (s : State) (c : Cur) (y : Group), Claim.Issues s c y (.halt g) g → s.guardTrue c g ≠ [] →
    (∀ l ∈ s.guardTrue c g, ∀ u, y.threads[l]? = some u → s.inFlight c.blk c.grp l = 0 ∧ u.published = true
      ∧ u.seals = [] ∧ u.metFault = none ∧ ∀ m ∈ u.met, s.tagLive y.core m = false) →
    ∃ t y', exec (.halt g) s = .next t ∧ t.cur = .none ∧ t.grp? c.blk c.grp = some y'
      ∧ Claim.Threads c y y y' (fun l u => { u with
          met := if l ∈ s.guardTrue c g then [] else u.met
          halted := u.halted || !u.exited })
      ∧ y'.s = y.s ∧ Claim.Beside c s t

namespace Sys2Proof.Claim

/-- A TLBI: its form, its kind, and the address and the ASID that a lane names (20 R515). -/
def tlbiOf (y : Group) (u : Thread) (l : Nat) : Instr → Option (Hd × ShKind × Nat × Nat)
  | .tlbiPage h a b => some (h, .page, src64 .l64 y u l a, src32 h.ext y u l b % 2 ^ 11)
  | .tlbiAsid h b => some (h, .asid, 0, src32 h.ext y u l b % 2 ^ 11)
  | .tlbiAll h => some (h, .all, 0, 0)
  | _ => none

end Sys2Proof.Claim

/-- A TLBI of one lane completes once the shootdown that it started is done: the thread goes on and nothing else changes (20
R515). -/
def Sys2Proof.Claim.TlbiForms : Prop :=
  ∀ (i : Instr) (h : Hd) (k : ShKind) (va asid : Nat) (s : State) (c : Cur) (y : Group) (l : Nat) (u : Thread),
    Claim.tlbiOf y u l i = some (h, k, va, asid) → Claim.Issues s c y i h.g → s.guardTrue c h.g = [l] →
    y.threads[l]? = some u → s.inFlight c.blk c.grp l = 0 → u.published = true → u.seals = [] → va < 2 ^ 56 →
    u.shot = true →
    ∃ t y', exec i s = .next t ∧ t.cur = .none ∧ t.grp? c.blk c.grp = some y'
      ∧ Claim.Threads c y y y' Claim.same ∧ y'.s = y.s ∧ Claim.Beside c s t

/-- A TLBI of one lane starts its shootdown where none is in progress, and the group waits: the translation engines are busy
with the kind, the address space and the page that it names, for its thread, and no TLB holds an unpinned entry that it
names (18 R457; 20 R515). -/
def Sys2Proof.Claim.TlbiStarts : Prop :=
  ∀ (i : Instr) (h : Hd) (k : ShKind) (va asid : Nat) (s : State) (c : Cur) (y : Group) (l : Nat) (u : Thread),
    Claim.tlbiOf y u l i = some (h, k, va, asid) → Claim.Issues s c y i h.g → s.guardTrue c h.g = [l] →
    y.threads[l]? = some u → s.inFlight c.blk c.grp l = 0 → u.published = true → u.seals = [] → va < 2 ^ 56 →
    u.shot = false → s.xlt.busy = false →
    ∃ t, exec i s = .next t ∧ t.cur = s.cur ∧ t.xlt.busy = true
      ∧ t.xlt.shoot.map (fun z => (z.kind, z.asid, z.va, z.asker)) = some (k, asid, va, some (c.blk, c.grp, l))
      ∧ ∀ cl e, e ∈ getD [] t.xlt.tlb cl →
          (match k with
            | .page => e.asid = asid ∧ e.vpage ≤ va ∧ va < e.vpage + e.size
            | .asid => e.asid = asid
            | .all => True) → e.pins ≠ 0

/-- FPUT, FGET, FRED, FSIG and FATOM. -/
def Obligations.FabricForms : Prop := Claim.BulkForms ∧ Claim.SignalForms ∧ Claim.FatomAtHome

/-- YIELD, SLEEP, WAITMEM and SPAWN. -/
def Obligations.WaitsAndSpawn : Prop := Claim.WaitForms ∧ Claim.WaitmemForm ∧ Claim.SpawnForm

/-- SRD, SWR and HALT. -/
def Obligations.SystemRegisters : Prop := Claim.SrdForm ∧ Claim.IdentityRegisters ∧ Claim.SwrForm ∧ Claim.HaltForm

/-- TLBI waits for its shootdown, or starts it. -/
def Obligations.Tlbi : Prop := Claim.TlbiForms ∧ Claim.TlbiStarts

namespace Sys2Proof.Claim

/-- Copy k of block b, which is t, has issued the instruction at stream address pc, and n is the position after it. -/
def TileIssues (s : State) (b k pc n : Nat) (x : Block) (t : Tile) : Prop :=
  s.cur = .tile b k pc n ∧ s.blk? b = some x ∧ x.tiles[k]? = some t ∧ t.tiles.length = 16

/-- A copy that has moved on to position n, at which nothing has issued (13 R348, R365). -/
def stepped (t : Tile) (n : Nat) : Tile := { t with spc := n, retries := 0, wait := .none, issued := false }

/-- From s to m, copy k of block b becomes u; every other copy, every group, barrier and other block, the scratchpad, HBM,
the caches, the directory, the mesh and the issue turn are as they were. -/
def TileOnly (s m : State) (b k : Nat) (x : Block) (u : Tile) : Prop :=
  (∃ x', m.blk? b = some x' ∧ x'.tiles = x.tiles.set k u ∧ x'.scratch = x.scratch ∧ x'.nb = x.nb ∧ x'.groups = x.groups)
  ∧ (∀ b', b' ≠ b → m.blk? b' = s.blk? b') ∧ m.mem = s.mem ∧ m.cores = s.cores ∧ m.dir = s.dir ∧ m.net = s.net
  ∧ m.cur = s.cur

/-- What a tile form makes of its copy, where that is a function of the copy, its block, its address and the position
after it (13 R350, R351, R358). -/
def tileOf (x : Block) (t : Tile) (pc n : Nat) : Instr → Option Tile
  | .tileNop _ => some (stepped t n)
  | .tswr c v =>
    if c.toNat < 16 ∧ shapeBad v.toNat = true then none
    else some { stepped t n with ctl := putD 0 c.toNat (v &&& ctlMask c.toNat) t.ctl }
  | .tsrd c o =>
    let p := portion x.fr.scratch x.cores.length
    let v : Word := BitVec.ofNat 32 (x.scratch.num (t.cidx * p + o.toNat) 4)
    if o.toNat % 4 ≠ 0 ∨ p < o.toNat + 4 ∨ x.fr.scratch < t.cidx * p + o.toNat + 4 ∨ (c.toNat < 16 ∧ shapeBad v.toNat = true)
    then none
    else some { stepped t n with ctl := putD 0 c.toNat (v &&& ctlMask c.toNat) t.ctl }
  | .tloop r off trip =>
    let c := t.ctlReg (0x40 + r.toNat) + 1
    if c.toNat < max trip.toNat 1 then
      (t.target ((pc : Int) + 4 * off.toInt)).map fun q => { stepped t q with ctl := putD 0 (0x40 + r.toNat) c t.ctl }
    else some { stepped t n with ctl := putD 0 (0x40 + r.toNat) 0 t.ctl }
  | .tbra off => (t.target ((pc : Int) + 4 * off.toInt)).map (stepped t)
  | _ => none

end Sys2Proof.Claim

/-- NOP, TSWR, TSRD, TLOOP and TBRA of the tile stream complete where their operands and their target are legal: the copy
has the control register that the form writes, and stands at the position that it goes to; nothing else changes. -/
def Sys2Proof.Claim.TileControlForms : Prop :=
  ∀ (i : Instr) (b k pc n : Nat) (s : State) (x : Block) (t u : Tile), Claim.TileIssues s b k pc n x t →
    Claim.tileOf x t pc n i = some u → ∃ m, exec i s = .next m ∧ Claim.TileOnly s m b k x u

/-- TZERO and TMOV complete: the extent of the destination tile holds zeros, or the bytes of the source's extent with zeros
after them, every byte beyond the extent and every other tile are as they were, no byte of the extent
bears an error, and the copy moves on (13 R356). -/
def Sys2Proof.Claim.TileMoveForms : Prop :=
  ∀ (i : Instr) (d : BitVec 4) (f : Nat → Byte) (b k pc n : Nat) (s : State) (x : Block) (t : Tile),
    Claim.TileIssues s b k pc n x t →
    ((i = .tzero d ∧ f = fun _ => 0) ∨ ∃ a : BitVec 4, i = .tmov d a
      ∧ f = fun j => if j < shapeExtent (t.shape a.toNat) then (t.slot a.toNat).byte j else 0) →
    ∃ m u, exec i s = .next m ∧ Claim.TileOnly s m b k x u
      ∧ { u with tiles := t.tiles, bad := t.bad } = Claim.stepped t n
      ∧ u.bad = t.bad.filter (fun (i, o) => !(i == d.toNat && decide (o < shapeExtent (t.shape d.toNat))))
      ∧ (∀ j, (u.slot d.toNat).byte j = if j < shapeExtent (t.shape d.toNat) then f j else (t.slot d.toNat).byte j)
      ∧ ∀ j, j ≠ d.toNat → u.slot j = t.slot j

/-- TLD completes where its address and its stride are aligned, its ranges lie in the scratchpad, and, for .G, its bytes
have been read under its hint once its issue was counted: each byte of the extent is that of its range, the ranges being
rows, or columns where the form transposes; nothing else of the copy changes but its position (13 R354, R355; 10 R289). -/
def Sys2Proof.Claim.TileLoadForm : Prop :=
  ∀ (d : BitVec 4) (hnt : BitVec 2) (tr : Bool) (addr stride : Word) (b k pc n : Nat) (s q r : State) (x : Block) (t : Tile)
    (g : Bool) (a : Nat) (bs : List Byte), Claim.TileIssues s b k pc n x t → t.tileAddr d.toNat addr = (g, a) →
    tileCheck x (t.shape d.toNat) tr g a stride.toNat = none →
    q = s.tileIssue b k t →
    (if g then q.readParts { q.tileAgent b k with use := .ofHint hnt } (.tile b k)
        ((tileLines (t.shape d.toNat) tr a stride.toNat).flatMap fun (p, n) => partsOf p n)
      else (q, .bytes ((tileLines (t.shape d.toNat) tr a stride.toNat).flatMap fun (p, n) => x.scratch.bytes p n)))
      = (r, .bytes bs) →
    r.blk? b = q.blk? b → r.cur = s.cur →
    ∃ m u, exec (.tld d hnt tr addr stride) s = .next m ∧ Claim.TileOnly r m b k x u
      ∧ { u with tiles := t.tiles, bad := t.bad } = Claim.stepped t n
      ∧ u.bad = t.bad.filter (fun (i, o) => !(i == d.toNat && decide (o < shapeExtent (t.shape d.toNat))))
      ∧ (∀ j, (u.slot d.toNat).byte j = if j < shapeExtent (t.shape d.toNat) then
          bs.getD (linePos (t.shape d.toNat) tr j) 0 else (t.slot d.toNat).byte j)
      ∧ ∀ j, j ≠ d.toNat → u.slot j = t.slot j

namespace Sys2Proof.Claim

/-- From the state s, the rows in the list of a TST from tile m of copy k have been written one after the other, and r is
the state after them: none waited and none faulted, and the block and the issue turn are as they were. -/
def rowsWritten (b k : Nat) (t : Tile) (m : Nat) (tr : Bool) (p stride : Nat) : State → List Nat → State → Prop
  | s, [], r => r = s
  | s, i :: rows, r => ∃ z l, s.writeAll (s.tileAgent b k) (.tile b k)
        ((t.slot m).bytes (i * shapeRow (t.shape m)) (shapeRow (t.shape m))) (State.tileRow (t.shape m) tr p stride i) = (z, .bytes l)
      ∧ z.blk? b = s.blk? b ∧ z.cur = s.cur
      ∧ rowsWritten b k t m tr p stride ((z.dropAnswers (.tile b k)).bump 9 2 t.core (shapeRow (t.shape m))) rows r

end Sys2Proof.Claim

/-- TST to the scratchpad, not transposed, completes where its address and its stride are aligned and its rows lie in the
scratchpad and do not meet: each byte of a row is that of the tile, every byte outside the rows is as it was, and the copy
moves on (13 R353 to R355). -/
def Sys2Proof.Claim.TileStoreShared : Prop :=
  ∀ (a : BitVec 4) (addr stride : Word) (b k pc n : Nat) (s : State) (x : Block) (t : Tile) (p : Nat),
    Claim.TileIssues s b k pc n x t → t.tileAddr a.toNat addr = (false, p) →
    tileCheck x (t.shape a.toNat) false false p stride.toNat = none → shapeRow (t.shape a.toNat) ≤ stride.toNat →
    x.scratch.wf = true →
    ∃ m x', exec (.tst a false addr stride) s = .next m ∧ m.blk? b = some x' ∧ m.cur = s.cur
      ∧ (∀ r j, r < shapeRows (t.shape a.toNat) → j < shapeRow (t.shape a.toNat) →
          x'.scratch.byte (p + r * stride.toNat + j) = (t.slot a.toNat).byte (r * shapeRow (t.shape a.toNat) + j))
      ∧ (∀ q, (∀ r, r < shapeRows (t.shape a.toNat) → q < p + r * stride.toNat
          ∨ p + r * stride.toNat + shapeRow (t.shape a.toNat) ≤ q) → x'.scratch.byte q = x.scratch.byte q)
      ∧ (∃ u, m.tile? b k = some u ∧ u.spc = n ∧ u.tiles = t.tiles ∧ u.ctl = t.ctl) ∧ x'.groups = x.groups
      ∧ m.mem = s.mem ∧ m.cores = s.cores ∧ m.dir = s.dir ∧ m.net = s.net

/-- TST to global memory completes where its rows, one after the other, are written, each byte of row i going to its
address, or to that of its column where the form transposes: the copy moves on, and nothing else changes with that (13 R354,
R355). -/
def Sys2Proof.Claim.TileStoreGlobal : Prop :=
  ∀ (a : BitVec 4) (tr : Bool) (addr stride : Word) (b k pc n : Nat) (s r : State) (x : Block) (t : Tile) (p : Nat),
    Claim.TileIssues s b k pc n x t → t.tileAddr a.toNat addr = (true, p) →
    tileCheck x (t.shape a.toNat) tr true p stride.toNat = none → t.rowp = none → x.halting.contains t.core = false →
    Claim.rowsWritten b k t a.toNat tr p stride.toNat (s.tileIssue b k t) (List.range (shapeRows (t.shape a.toNat))) r →
    ∃ m, exec (.tst a tr addr stride) s = .next m
      ∧ Claim.TileOnly r m b k x { Claim.stepped t n with rowBusy := false }

/-- TSEND and TRECV complete their issue where a core of the block's partition lies beyond the port: the copy waits for its
partner, and nothing else changes (13 R360). -/
def Sys2Proof.Claim.TileLinkForms : Prop :=
  ∀ (i : Instr) (port : BitVec 2) (w : TWait) (b k pc n : Nat) (s : State) (x : Block) (t : Tile) (q : Nat × Nat),
    (∃ a, (i = .tsend port a ∧ w = .send port a) ∨ (i = .trecv port a ∧ w = .recv port a)) →
    Claim.TileIssues s b k pc n x t → s.cuffPeer x t.core port.toNat = some q →
    ∃ m, exec i s = .next m ∧ Claim.TileOnly s m b k x { t with wait := w, issued := true }

/-- TARRIVE and TEND complete where the copy holds no deferred record: TARRIVE takes the phase as the copy's token and
counts an arrival without bytes and without a release, TEND ends the copy, where its block still runs (13 R342, R357). -/
def Sys2Proof.Claim.TileEndForms : Prop :=
  ∀ (b k pc n : Nat) (s : State) (x : Block) (t : Tile), Claim.TileIssues s b k pc n x t → t.deferred = none →
    (∀ (j : BitVec 4) (z : Barrier), x.nb[j.toNat]? = some z →
      ∃ m x', exec (.tarrive j) s = .next m ∧ m.blk? b = some x'
        ∧ x'.tiles = x.tiles.set k { Claim.stepped t n with stok := t.stok.set j.toNat z.ph }
        ∧ x'.nb = x.nb.set j.toNat (
            if z.cnt = 0 then z
            else if z.arr - 1 = 0 ∧ z.txb = 0 then ⟨z.ph + 1, z.cnt, z.cnt, z.eb.toNat, z.eb, z.aseq⟩
            else ⟨z.ph, z.cnt, z.arr - 1, z.txb, z.eb, z.aseq⟩)
        ∧ x'.scratch = x.scratch ∧ m.mem = s.mem ∧ m.cores = s.cores ∧ m.dir = s.dir ∧ m.net = s.net)
    ∧ ((∃ y ∈ x.groups, y.ended = false) →
      ∃ m, exec .tend s = .next m ∧ Claim.TileOnly s m b k x { Claim.stepped t n with ended := true })

/-- TARRIVE and TEND of a copy that holds a deferred record raise it instead, precise here, and the record is gone (13 R357
rule 1). -/
def Sys2Proof.Claim.TileTakesRecord : Prop :=
  ∀ (i : Instr) (b k pc n : Nat) (s : State) (x : Block) (t : Tile) (r : Deferred), ((∃ j, i = .tarrive j) ∨ i = .tend) →
    Claim.TileIssues s b k pc n x t → t.deferred = some r →
    ∃ m, exec i s = .next m ∧ Claim.TileOnly s m b k x
      { t with deferred := none, fault := some ⟨r.pc, r.va, r.code, r.count, true, false, false⟩, issued := true }

/-- TWAIT completes where the phase has left the copy's token, the barrier counts, and the arrivals of the block's other
cores are published: the token takes the phase, the scale cache is empty, and the copy moves on (13 R357; 14 R372). -/
def Sys2Proof.Claim.TileWaitForm : Prop :=
  ∀ (j : BitVec 4) (b k pc n : Nat) (s : State) (x : Block) (t : Tile) (z : Barrier),
    Claim.TileIssues s b k pc n x t → x.nb[j.toNat]? = some z → z.cnt ≠ 0 → z.ph ≠ t.stok.getD j.toNat 0 →
    s.twaitNeeds x t.core j.toNat = [] →
    ∃ m, exec (.twait j) s = .next m
      ∧ Claim.TileOnly s m b k x { Claim.stepped t n with stok := t.stok.set j.toNat z.ph, scale := [] }

namespace Sys2Proof.Claim

/-- The forms of the matrix array (14 R374). -/
def isMatrix : Instr → Bool
  | .tmma _ _ _ _ _ _ _ | .tmmax _ _ _ _ _ _ _ _ | .tmmas _ _ _ _ _ _ _ _ | .tadd _ _ _ _ | .tscale _ _ _ _ _
  | .tcvt _ _ _ _ _ _ => true
  | _ => false

end Sys2Proof.Claim

/-- A form of the matrix array completes its issue where its shapes and its scale addresses pass the checks of R375 and no
throttling refuses it: the array takes it up from its first k-block, and nothing else changes (14 R375; 22 R541). -/
def Sys2Proof.Claim.MatrixForms : Prop :=
  ∀ (i : Instr) (b k pc n : Nat) (s : State) (x : Block) (t : Tile), Claim.isMatrix i = true →
    Claim.TileIssues s b k pc n x t → t.wait = .none → s.refuses = false → matrixFault x t i = none →
    ∃ m, exec i s = .next m ∧ Claim.TileOnly s m b k x { t with wait := .matrix i 0, partials := [], issued := true }

/-- A form whose shapes and scale addresses pass their checks, but which reads a tile byte with an error that ECC cannot
correct, raises POISON: the copy stops at it and its tiles are as they were (14 R375 rule 5). -/
def Sys2Proof.Claim.MatrixPoison : Prop :=
  ∀ (i : Instr) (b k pc n : Nat) (s : State) (x : Block) (t : Tile) (slot off : Nat), Claim.isMatrix i = true →
    Claim.TileIssues s b k pc n x t → t.wait = .none → s.refuses = false → shapeFault x t i = none →
    (slot, off) ∈ t.bad → slot ∈ formReads i → off < shapeExtent (t.shape slot) →
    ∃ m, exec i s = .next m ∧ Claim.TileOnly s m b k x { t with fault := some ⟨pc, 0, 0x18, 0, false, false, false⟩, issued := true }

/-- MATRIX_FORM_COMPLETE ends the product that a copy's array has in flight: each byte of the destination's extent is that
of the accumulators, each rounded to the accumulator format after its k-blocks in ascending order, from the tile's own
elements where the form accumulates and from zero otherwise; every other tile is as it was, and the copy moves on (03 R98;
14 R376 to R379). -/
def Sys2Proof.Claim.MatrixCompletes : Prop :=
  ∀ (b k : Nat) (s : State) (x : Block) (t : Tile) (i : Instr) (f : MForm), s.blk? b = some x → x.tiles[k]? = some t →
    t.tiles.length = 16 → t.wait = .matrix i 0 → mform? i = some f → s.tileReady b k = true → formBad t i = false →
    ∃ m u, exec (.matrixFormComplete b k) s = .next m ∧ m.tile? b k = some u ∧ u.wait = .none ∧ u.spc = (t.framed t.spc).1
      ∧ (∀ j, j < shapeExtent (t.shape f.d) → (u.slot f.d).byte j = packByte f.facc
          ((List.range (f.m t * f.n t)).map fun e => toAcc f.facc (BitVec.ofNat 32
            ((List.range (f.blocks t)).foldl (f.step x t (e / f.n t) (e % f.n t)) (f.start t (e / f.n t) (e % f.n t))))) j)
      ∧ (∀ j, j ≠ f.d → u.slot j = t.slot j) ∧ m.mem = s.mem ∧ (∀ j, ∃ n, m.core j = { s.core j with macs := n })
      ∧ m.dir = s.dir ∧ m.net = s.net

/-- CUFF_TRANSFER_COMPLETE performs a TSEND and the TRECV that waits for it beyond the port: the extent of the receiver's
tile takes the bytes of the sender's extent, with zeros after them, and both copies move on (13 R361). -/
def Sys2Proof.Claim.CuffTransfers : Prop :=
  ∀ (core port b k d j peer : Nat) (p q : BitVec 2) (a e : BitVec 4) (s : State) (x : Block) (t u : Tile),
    s.blockOnCore core = some (b, k, t) → s.blk? b = some x → t.wait = .send p a → p.toNat = port →
    s.tileReady b k = true → s.cuffPeer x core port = some (d, peer) → s.copyOn d peer = some (j, u) →
    u.wait = .recv q e → q.toNat = (port + 2) % 4 → s.tileReady d j = true → ¬(d = b ∧ j = k) → u.tiles.length = 16 →
    s.tile? b k = some t → s.tile? d j = some u →
    ∃ m t' u', exec (.cuffTransferComplete core port) s = .next m ∧ m.tile? b k = some t' ∧ m.tile? d j = some u'
      ∧ t' = Claim.stepped t (t.framed t.spc).1 ∧ u'.wait = .none ∧ u'.spc = (u.framed u.spc).1
      ∧ (∀ i, i < shapeExtent (u.shape e.toNat) → (u'.slot e.toNat).byte i
          = if i < shapeExtent (t.shape a.toNat) then (t.slot a.toNat).byte i else 0)
      ∧ (∀ i, i ≠ e.toNat → u'.slot i = u.slot i) ∧ m.mem = s.mem ∧ m.cores = s.cores ∧ m.dir = s.dir ∧ m.net = s.net

/-- The control and the move forms of a tile stream. -/
def Obligations.TileControlAndMoves : Prop := Claim.TileControlForms ∧ Claim.TileMoveForms

/-- TLD and TST. -/
def Obligations.TileMemory : Prop := Claim.TileLoadForm ∧ Claim.TileStoreShared ∧ Claim.TileStoreGlobal

/-- TSEND and TRECV, and the transfer of a pair. -/
def Obligations.TileLinks : Prop := Claim.TileLinkForms ∧ Claim.CuffTransfers

/-- TARRIVE, TWAIT and TEND. -/
def Obligations.TileSynchronisation : Prop := Claim.TileEndForms ∧ Claim.TileTakesRecord ∧ Claim.TileWaitForm

/-- The matrix forms, and the completion of one in flight. -/
def Obligations.Matrix : Prop := Claim.MatrixForms ∧ Claim.MatrixPoison ∧ Claim.MatrixCompletes

/-! ### Events of the mesh and of the issue engine -/

namespace Sys2Proof.Claim

/-- A table whose keys rise. -/
def Rising {α : Type} (t : Tab α) : Prop := t.Pairwise fun a b => a.1 < b.1

/-- Flit f has moved from a router by an output channel: it stands at the neighbour, its packet holds the channel unless it
was the tail, a downstream buffer is taken, and nothing else has changed. -/
def Forwarded (router : Nat) (cls : MsgClass) (s : State) (f : Flit) (p : Nat) (esc : Bool) (t : State) : Prop :=
  t = { s with flits := t.flits, credits := t.credits, vcs := t.vcs }
  ∧ t.flits = s.flits.erase f ++ [{ f with at_ := neighbour router p, esc := esc, inPort := arrivalPort p }]
  ∧ t.freeBuffers router p cls esc = s.freeBuffers router p cls esc - 1
  ∧ t.holder (channelKey router p cls esc) = (if f.idx = f.len then 0 else f.pkt + 1)
  ∧ ∀ k, k ≠ channelKey router p cls esc → getD 0 t.credits k = getD 0 s.credits k ∧ t.holder k = s.holder k

/-- The one flit of its class at a router that has reached its destination, those of its packet before it having been sunk,
is sunk; nothing else changes (01 R21, R22). -/
def FlitArrives : Prop :=
  ∀ (router : Nat) (cls : MsgClass) (s : State) (f : Flit),
    (s.flits.filter fun z => z.at_ == router && z.cls == cls) = [f] → f.dst = router →
    (∀ z ∈ s.flits, z.pkt = f.pkt → f.idx ≤ z.idx) →
    exec (.routeHeadFlit router cls) s = .next { s with flits := s.flits.erase f }

/-- The header that is the one flit of its class at a router moves by the output that its route gives it, where no packet
holds the channel: to the neighbour, on the channel chosen, which its packet holds until its tail has passed, one downstream
buffer fewer being free (01 R21 to R25). -/
def FlitMoves : Prop :=
  ∀ (router : Nat) (cls : MsgClass) (s : State) (f : Flit) (p : Nat) (esc : Bool),
    (s.flits.filter fun z => z.at_ == router && z.cls == cls) = [f] → f.dst ≠ router → f.idx = 0 →
    s.routeOf f = some (p, esc) → s.holder (channelKey router p cls esc) = 0 → Rising s.vcs →
    ∃ t, exec (.routeHeadFlit router cls) s = .next t ∧ Claim.Forwarded router cls s f p esc t

/-- A payload flit that is the one flit of its class at a router follows the flit before it by the channel that its packet
holds, where that has a free buffer; behind the tail the channel is free (01 R21, R23). -/
def PayloadFollows : Prop :=
  ∀ (router : Nat) (cls : MsgClass) (s : State) (f : Flit) (p : Nat) (esc : Bool),
    (s.flits.filter fun z => z.at_ == router && z.cls == cls) = [f] → f.dst ≠ router → f.idx ≠ 0 →
    (∀ z ∈ s.flits, z.pkt = f.pkt → z.at_ = router → f.idx ≤ z.idx) → s.heldBy router cls f.pkt = some (p, esc) → 0 < s.freeBuffers router p cls esc → Rising s.vcs →
    ∃ t, exec (.routeHeadFlit router cls) s = .next t ∧ Claim.Forwarded router cls s f p esc t

/-- A buffer that the downstream router has freed is counted as free again (01 R23). -/
def CreditComesBack : Prop :=
  ∀ (router port : Nat) (cls : MsgClass) (esc : Bool) (s : State), 1 < getD 0 s.credits (channelKey router port cls esc) →
    (s.flits.countP fun f => f.at_ == neighbour router port && f.inPort == arrivalPort port && f.cls == cls
      && f.esc == esc) < getD 0 s.credits (channelKey router port cls esc) →
    ∃ t, exec (.creditReturn router port cls esc) s = .next t ∧ t = { s with credits := t.credits }
      ∧ getD 0 t.credits (channelKey router port cls esc) + 1 = getD 0 s.credits (channelKey router port cls esc)
      ∧ ∀ k, k ≠ channelKey router port cls esc → getD 0 t.credits k = getD 0 s.credits k

/-- An eligible thread whose wait count has reached 4,096 becomes the favoured thread where the group has none: the one
of those threads with the lowest PC, ties to the lowest lane (04 R110, R111). -/
def WaitFavours : Prop :=
  ∀ (b g : Nat) (s : State) (y : Group) (l : Nat) (u : Thread), s.grp? b g = some y → y.fav = none →
    l ∈ s.eligible b y → y.threads[l]? = some u → 4096 ≤ u.ready →
    (∀ j ∈ s.eligible b y, ∀ z, y.threads[j]? = some z → 4096 ≤ z.ready → u.pc < z.pc ∨ (u.pc = z.pc ∧ l ≤ j)) →
    ∃ t, exec (.readyWaitFavour b g) s = .next t ∧ t = { s with blocks := t.blocks }
      ∧ t.grp? b g = some { y with fav := some l }

/-- A group whose wait count has reached 4,096 is marked to issue first (04 R113). -/
def WaitRaises : Prop :=
  ∀ (b g : Nat) (s : State) (y : Group), s.grp? b g = some y → 4096 ≤ y.waits →
    ∃ t, exec (.groupWaitPriority b g) s = .next t ∧ t = { s with blocks := t.blocks }
      ∧ t.grp? b g = some { y with prio := true }

/-- The oldest on-chip frame of a thread whose instruction would break a limit goes to the spill area: its registers, then
its link entry, once no store before it to those bytes is queued or pending, and the spill address moves past it (04 R125;
06 R183). -/
def FrameSpills : Prop :=
  ∀ (b g l : Nat) (s s1 s2 : State) (i : Instr) (npc : Nat) (x : Block) (u : Thread) (f : Frame) (rest : List Frame),
    s.insAt b g l = some (i, npc) → s.blk? b = some x → s.thr? b g l = some u → u.links = f :: rest →
    spillNeed x.fr.regs u i = true → s.atFrame b g l npc u i = true →
    u.spill + frameBytes f.k ≤ spillBase x g l + x.fr.spillsz → s.frameBusy b g l u.spill (frameBytes f.k) = false →
    s.writeRange (s.agent b g l) (.spill b g l) u.spill (f.saved.flatMap fun w => toBytes 4 w.toNat) = (s1, .bytes []) →
    s1.writeRange (s.agent b g l) (.spill b g l) (u.spill + frameBytes f.k - 16) (toBytes 16 (f.retpc % 2 ^ 56
      + f.k % 128 * 2 ^ 64 + f.ncode % 16 * 2 ^ 72 + f.livep % 16 * 2 ^ 76)) = (s2, .bytes []) →
    ∃ t, exec (.spillFrame b g l) s = .next t ∧ t = { s2 with blocks := t.blocks, fab := t.fab, hst := t.hst }
      ∧ t.thr? b g l = (s2.thr? b g l).map fun z =>
          { z with links := z.links.tail, spill := z.spill + frameBytes f.k, before := z.framesAt }

/-- The frame that a RET needs comes back from the spill area, with the slide, the code and the live count of its link
entry and the registers below it (04 R125). -/
def FrameFills : Prop :=
  ∀ (b g l : Nat) (s s1 s2 : State) (i : Instr) (npc : Nat) (x : Block) (u : Thread) (e k : Nat) (rs : List Byte),
    s.insAt b g l = some (i, npc) → s.blk? b = some x → s.thr? b g l = some u → fillNeed u i = true →
    s.atFrame b g l npc u i = true → s.frameBusy b g l (spillBase x g l) (u.spill - spillBase x g l) = false →
    k = e / 2 ^ 64 % 128 → e < 2 ^ 128 →
    s.readRange (s.agent b g l) (.spill b g l) (u.spill - 16) 16 = (s1, .bytes (toBytes 16 e)) →
    spillBase x g l + frameBytes k ≤ u.spill →
    s1.readRange (s.agent b g l) (.spill b g l) (u.spill - frameBytes k) (4 * k) = (s2, .bytes rs) →
    ∃ t, exec (.fillFrame b g l) s = .next t ∧ t = { s2 with blocks := t.blocks, fab := t.fab, hst := t.hst }
      ∧ t.thr? b g l = (s2.thr? b g l).map fun z => { z with
          links := [⟨e % 2 ^ 56, k, e / 2 ^ 72 % 16, min 8 (e / 2 ^ 76 % 16),
            (List.range k).map fun j => BitVec.ofNat 32 (ofBytes ((rs.drop (4 * j)).take 4))⟩]
          spill := z.spill - frameBytes k
          before := z.framesAt }

/-! ### Basting -/

/-- A group enters basting on the load that its next instruction waits for: what the end restores is recorded as it
stands, and the destination of every load in flight takes slots marked invalid (08 R238, R240). -/
def BastingEnters : Prop :=
  ∀ (b g : Nat) (s : State) (x : Block) (y : Group) (a : Acc), s.blk? b = some x → s.grp? b g = some y →
    y.bast = none → y.bastOn = true → y.ended = false → y.core ∉ x.halting → (s.core y.core).haltReq = none →
    (∀ u ∈ y.threads, u.txn = none) → s.triggerOf b g y = some a →
    (∀ l, l < 32 → (y.threads[l]?).any (fun u => !u.exited) = true →
      y.freeSlots (s.basteRecord y a) x.fr.regs l ≠ 0
        ∧ ((s.basteSlots b g (s.basteRecord y a)).slotV.getD l []).length
            + (s.basteSlots b g (s.basteRecord y a)).slotS.length ≤ y.freeSlots (s.basteRecord y a) x.fr.regs l) →
    ∃ t z, exec (.bastingEntry b g) s = .next t ∧ t = { s with blocks := t.blocks, counters := t.counters }
      ∧ t.grp? b g = some { y with bast := some z } ∧ z.trigger = a.id ∧ z.since = s.now
      ∧ z.pcs = y.threads.map (·.pc) ∧ z.vs = y.threads.map (·.v) ∧ z.ps = y.threads.map (·.p)
      ∧ z.sds = y.threads.map (·.sdcnt) ∧ z.s = y.s ∧ z.fpstat = y.fpstat
      ∧ z.invV = z.slotV ∧ z.invS = z.slotS

/-- Basting ends where the load that began it is gone, and none of the group's other accesses has ended: the PCs, windows, predicates and store counts of the threads, the S
registers and FPSTAT are as recorded at entry (08 R244, R245). -/
def BastingEnds : Prop :=
  ∀ (b g : Nat) (s : State) (y : Group) (z : Baste), s.grp? b g = some y → y.bast = some z → s.acc? z.trigger = none →
    (∀ a ∈ s.accs, a.blk = b → a.grp = g → a.lanes.any (·.st.open_) = true) → z.pcs.length = y.threads.length → z.vs.length = y.threads.length → z.ps.length = y.threads.length →
    z.sds.length = y.threads.length →
    ∃ t y', exec (.bastingEnd b g) s = .next t ∧ t = { s with blocks := t.blocks, counters := t.counters }
      ∧ t.grp? b g = some y' ∧ y'.bast = none ∧ y'.s = z.s ∧ y'.fpstat = z.fpstat ∧ y'.lastTrig = some z.trigger
      ∧ y'.threads.map (·.pc) = z.pcs ∧ y'.threads.map (·.v) = z.vs ∧ y'.threads.map (·.p) = z.ps
      ∧ y'.threads.map (·.sdcnt) = z.sds ∧ y'.storeQ = y.storeQ ∧ y'.fpmode = y.fpmode

/-- The data of a basting prefetch fills the L1 as a clean copy in S, and the core answers DONE (08 R243). -/
def PrefetchFills : Prop :=
  ∀ (core sec : Nat) (s : State) (e : L1E) (m : Msg), s.l1? core sec = some e → e.baste.isSome = true → e.st = .isd →
    s.msg? .dataS core sec = some m → (∀ q ∈ s.net, q.kind ≠ .dataE) → s.l1Room core (sec / 2) = true →
    ∃ t, exec (.nonbindingReadFill core sec) s = .next t
      ∧ t = { s with cores := t.cores, net := t.net, flits := t.flits, pkts := t.pkts, repl := { s.repl with l1 := t.repl.l1 } }
      ∧ t.l1? core sec = some { e with st := .s, val := m.val }
      ∧ t.net = s.net.erase m ++ [⟨.done, core, sec, SecVal.zero, 0, 0, .core core⟩]

end Sys2Proof.Claim

/-- The routers and the issue engine's counts: flits are sunk or forwarded, buffers are counted, threads and groups that
have waited 4,096 cclk come first, and frames go to and come from the spill area. -/
def Obligations.IssueEvents : Prop :=
  Claim.FlitArrives ∧ Claim.FlitMoves ∧ Claim.PayloadFollows ∧ Claim.CreditComesBack ∧ Claim.WaitFavours ∧ Claim.WaitRaises
    ∧ Claim.FrameSpills ∧ Claim.FrameFills

/-- The basting unit enters, fills and leaves. -/
def Obligations.BastingEvents : Prop := Claim.BastingEnters ∧ Claim.BastingEnds ∧ Claim.PrefetchFills

/-! ### Events of the load/store engine, the publish engine and the weight store -/

namespace Sys2Proof.Claim

/-- The acknowledgement of a posted entry frees it, and its block's progress timer returns to 0 (06 R181 rule 3). -/
def PostedFreed : Prop :=
  ∀ (core id : Nat) (s : State) (p : Posted) (v : SecVal), Rising s.cores →
    (s.core core).posted.find? (fun q => q.id == id) = some p → s.postedResult core id = some (.ok, v) →
    (s.core core).drain = none →
    ∃ t, exec (.postedAck core id) s = .next t
      ∧ t = { s with cores := t.cores, fab := t.fab, hst := t.hst, blocks := t.blocks }
      ∧ t.core core = { s.core core with posted := (s.core core).posted.filter (·.id != id) }
      ∧ (∀ k, k ≠ core → t.core k = s.core k)
      ∧ t.fab = { s.fab with unacked := s.fab.unacked.filter (·.owner != .posted core id) }
      ∧ t.hst = { s.hst with reqs := s.hst.reqs.filter (·.owner != .posted core id) }
      ∧ t.blk? p.blk = (s.blk? p.blk).map (fun x => { x with timer := s.now, heldMark := false })
      ∧ ∀ b, b ≠ p.blk → t.blk? b = s.blk? b

/-- A posted entry that faulted, but not on a lease, is freed, and its thread holds the deferred record of the first such
fault: PC, address, code and how many more have followed (06 R187). -/
def PostedFaults : Prop :=
  ∀ (core id : Nat) (code : BitVec 8) (s : State) (p : Posted) (v : SecVal) (u : Thread), code ≠ 0x12 → Rising s.cores →
    (s.core core).posted.find? (fun q => q.id == id) = some p → s.postedResult core id = some (.fault code, v) →
    (s.core core).drain = none → s.thr? p.blk p.grp p.lane = some u →
    ∃ t, exec (.storeFaultDeferred core id code) s = .next t
      ∧ t = { s with cores := t.cores, fab := t.fab, hst := t.hst, blocks := t.blocks }
      ∧ (t.core core).posted = (s.core core).posted.filter (·.id != id)
      ∧ t.thr? p.blk p.grp p.lane = some { u with deferred := some (match u.deferred with
          | some d => { d with count := min 255 (d.count + 1) }
          | none => ⟨p.pc, p.va, code, 0⟩) }
      ∧ ∀ b g l, ¬(b = p.blk ∧ g = p.grp ∧ l = p.lane) → t.thr? b g l = s.thr? b g l

/-- A load of the scratchpad in flight whose turn has come takes what lies at its address, and ends: its destination holds
the value, extended by its form; one of 128 bits that has bound a half takes the other half, and holds both (06 R175, R186,
R192, R193). -/
def LoadReturns : Prop :=
  ∀ (s : State) (a : Acc) (z : AccLane) (x : Block) (y : Group) (u : Thread) (r : BitVec 7) (n v : Nat),
    s.acc? a.id = some a → a.lanes = [z] →
    (z.st = .todo ∧ retBytes a.ins ≠ 16 ∧ v = x.scratch.num z.va (retBytes a.ins)
      ∨ retBytes a.ins = 16 ∧ ∃ q : DWord, z.st = .half false q ∧ v = x.scratch.num z.va 8 + q.toNat * 2 ^ 64
      ∨ retBytes a.ins = 16 ∧ ∃ q : DWord, z.st = .half true q ∧ v = q.toNat + x.scratch.num (z.va + 8) 8 * 2 ^ 64) →
    a.kind = .load → retSpc a.ins = .s →
    retDst a.ins = some (.v r, n) → s.haltedGrp a.blk a.grp = false → s.boundBefore a.blk a.grp z.lane a.seq = true →
    s.blk? a.blk = some x → s.grp? a.blk a.grp = some y → y.bast = none → y.storeQ = [] →
    y.threads[z.lane]? = some u → (∀ q ∈ s.accs, q.id = a.id → q = a) →
    ∃ t u', exec (.loadDataReturn a.id) s = .next t ∧ t = { s with accs := t.accs, blocks := t.blocks }
      ∧ t.accs = s.accs.filter (·.id != a.id) ∧ t.thr? a.blk a.grp z.lane = some u' ∧ u' = { u with v := u'.v }
      ∧ RegsSet u.v u'.v r.toNat n (retExt a.ins v)
      ∧ ∀ b g l, ¬(b = a.blk ∧ g = a.grp ∧ l = z.lane) → t.thr? b g l = s.thr? b g l

/-- 16,384 cclk after its XBEG a transaction aborts with cause 0x15: the thread stands at the handler, its status register
says why, its sets are gone, and the sectors that it has written in its L1 are being given up (06 R205, R206). -/
def TransactionTimesOut : Prop :=
  ∀ (b g l : Nat) (s : State) (y : Group) (u : Thread) (x : Txn), s.grp? b g = some y → s.thr? b g l = some u → u.txn = some x →
    x.began + 16384 ≤ s.now →
    ∃ t, exec (.transactionTimeout b g l) s = .next t
      ∧ t = { s with
          blocks := t.blocks, accs := t.accs, counters := t.counters, cores := t.cores, net := t.net, flits := t.flits
          pkts := t.pkts }
      ∧ (x.writes = [] → t.cores = s.cores ∧ t.net = s.net)
      ∧ (∀ q ∈ x.writes, ∀ e, s.l1? y.core q.1 = some e → e.st = .m ∨ e.st = .e →
          (t.l1? y.core q.1).map (·.st) = some .eia)
      ∧ t.thr? b g l = some { u with txn := none, v := u.v.set x.status.toNat 0x15#32, pc := x.handler }
      ∧ ∀ a ∈ t.accs, a.blk = b → a.grp = g → ∀ z ∈ a.lanes, z.lane ≠ l

/-- A request for another carve-out starts a change; for the present one it is done at once; for an absent core or one in
the middle of a change it is an error (06 R176, R177). -/
def CarveAsked : Prop :=
  ∀ (v : Word) (s : State), v.getLsbD 31 = true →
    ∃ t, exec (.carveRequest v) s = .next t ∧ t = { s with cores := t.cores }
      ∧ (t.core (v.toNat % 256)) = { s.core (v.toNat % 256) with carve :=
          if v.toNat % 256 ∉ s.pkg.caps.cores ∨ (s.core (v.toNat % 256)).carve.busy then
            { (s.core (v.toNat % 256)).carve with err := true }
          else if v.toNat / 256 % 8 = (s.core (v.toNat % 256)).carve.cur.toNat then
            { (s.core (v.toNat % 256)).carve with tgt := (s.core (v.toNat % 256)).carve.cur, done := true }
          else { (s.core (v.toNat % 256)).carve with tgt := BitVec.ofNat 3 (v.toNat / 256 % 8), busy := true } }
      ∧ ∀ k, k ≠ v.toNat % 256 → t.core k = s.core k

/-- A change of the carve-out completes once the ways that it takes hold no line, or the ways that it gives back hold no
portion of a block (06 R177). -/
def CarveDone : Prop :=
  ∀ (core : Nat) (s : State), (s.core core).carve.busy = true →
    (if (s.core core).carve.cur.toNat < (s.core core).carve.tgt.toNat then
        ∀ line w k, (w, k) ∈ s.l1Lines core line → w < 8 - (s.core core).carve.tgt.toNat
      else ∀ b x, (b, x) ∈ s.blocks → core ∉ x.cores) →
    ∃ t, exec (.carveComplete core) s = .next t ∧ t = { s with cores := t.cores }
      ∧ t.core core = { s.core core with carve :=
          { (s.core core).carve with cur := (s.core core).carve.tgt, busy := false, done := true } }
      ∧ ∀ k, k ≠ core → t.core k = s.core k

/-- A publish request of this package whose sequence is not in its core's window is answered at once with the watermark,
its message taken off the mesh (09 R263). -/
def PublishAnswered : Prop :=
  ∀ (core c : Nat) (seq : Word) (s : State) (m : Msg),
    s.net.find? (fun m => m.kind == .pubReq && m.core == core && m.sec == pubKey seq && m.who == .core c && s.landed m) = some m →
    (s.core core).inWindow seq = false →
    ∃ t, exec (.pubReq core (.core c) seq) s = .next t ∧ t = { s with net := t.net, flits := t.flits, pkts := t.pkts, counters := t.counters }
      ∧ t.net = s.net.erase m ++ [⟨.pubAck, core, pubKey seq, SecVal.zero, 0, (s.core core).pw, .core c⟩]

/-- A publish request in the window of a core with stores pending starts a drain of every pending sector whose epoch it
covers and of every posted entry, which records the requester (09 R259, R263). -/
def PublishDrains : Prop :=
  ∀ (core c : Nat) (seq : Word) (s : State) (m : Msg),
    s.net.find? (fun m => m.kind == .pubReq && m.core == core && m.sec == pubKey seq && m.who == .core c && s.landed m) = some m →
    (s.core core).inWindow seq = true → (s.core core).drain = none → (s.core core).posted ≠ [] →
    ∃ t, exec (.pubReq core (.core c) seq) s = .next t
      ∧ t = { s with net := s.net.erase m, cores := t.cores, counters := t.counters }
      ∧ (t.core core).drain = some
          ⟨(s.core core).pend.filterMap fun (q : Nat × Pend) => if seqAbove seq q.2.epoch then some q.1 else none,
            (s.core core).posted.map (·.id), seq, [⟨.core c, seq⟩], []⟩
      ∧ ({ t.core core with drain := none } : Machine.Core) = s.core core ∧ ∀ k, k ≠ core → t.core k = s.core k

/-- A peer's publish request at a package that is not open is answered PEER_DOWN (16 R409). -/
def PublishRefused : Prop :=
  ∀ (core pkg c : Nat) (seq : Word) (s : State), s.hom.ctl.getLsbD 0 = false →
    exec (.pubReq core (.peer pkg c) seq) s = .next { s with out := s.out ++ [.pubAck pkg core 0 (.fault 0x1C)] }

/-- The acknowledgement of a publish with a watermark, of which one message has arrived, reaches the core that asked: its
message is gone, and where it covers the sequence asked for the core knows the watermark; no thread of the core that stands
at a wide acquiring fence holds the tag as met (09 R258, R264, R268). -/
def PublishLearnt : Prop :=
  ∀ (core c : Nat) (n : Word) (s : State) (m : Msg),
    (s.net.filter fun q => q.kind == .pubAck && q.core == core && q.seq == m.seq && s.landed q) = [m] → m.who = .core c →
    m.sec = pubKey n → seqAbove n m.seq = false → s.accs = [] →
    ∃ t, exec (.pubAck s.self core m.seq .ok) s = .next t
      ∧ t = { s with net := s.net.erase m, cores := t.cores, blocks := t.blocks }
      ∧ ⟨s.self, core, m.seq⟩ ∈ (t.core c).known
      ∧ (∀ k, (t.l1? c k).map (·.val.bytes) = (s.l1? c k).map (·.val.bytes))
      ∧ ∀ (b g : Nat) (x : Block) (y : Group) (l : Nat) (u : Thread), t.blk? b = some x → t.grp? b g = some y →
          y.core = c → y.threads[l]? = some u → (s.cachedAt c x.asid u.pc).any isAcqFence = true →
          ∀ q ∈ u.met, ¬(q.pkg.toNat = s.self ∧ q.core.toNat = core ∧ q.seq = n)

/-- A write of the weight store by an I/O core while no grid reads it, in accesses aligned to their size, is accepted, and
its completion follows; one of another agent, past the store's end or while a grid reads it completes with WS_ACCESS, and an
unaligned one with ALIGN. The oldest write accepted reaches the store when it completes, and the bytes that it writes are no
longer poisoned (12 R331, R332, R334). -/
def WeightAccepted : Prop :=
  (∀ (addr n : Nat) (v : List Byte) (s : State), s.wsReaders = 0 → addr + v.length ≤ 2 ^ 30 → addr % max 1 n = 0 →
    exec (.weightStoreWrite true addr n v) s
      = .next { s with wsWrite := s.wsWrite ++ [(addr, v)], out := s.out ++ [.svc .ok 0] })
  ∧ (∀ (io : Bool) (addr n : Nat) (v : List Byte) (s : State),
    io = false ∨ 2 ^ 30 < addr + v.length ∨ s.wsReaders ≠ 0 ∧ addr % max 1 n = 0 →
    exec (.weightStoreWrite io addr n v) s = .next { s with out := s.out ++ [.svc (.fault 0x28) 0] })
  ∧ (∀ (addr n : Nat) (v : List Byte) (s : State), addr + v.length ≤ 2 ^ 30 → addr % max 1 n ≠ 0 →
    exec (.weightStoreWrite true addr n v) s = .next { s with out := s.out ++ [.svc (.fault 0x08) 0] })
  ∧ (∀ (addr : Nat) (bs : List Byte) (ws : List (Nat × List Byte)) (s : State), s.wsWrite = (addr, bs) :: ws →
    Memory.wf s.wstore = true → Rising s.wsPoison →
    ∃ t, exec .weightStoreWriteComplete s = .next t
      ∧ t = { s with wsWrite := ws, wstore := t.wstore, wsPoison := t.wsPoison, counters := t.counters }
      ∧ (∀ j (b : Byte), bs[j]? = some b → t.wstore.byte (addr + j) = b)
      ∧ (∀ a, a < addr ∨ addr + bs.length ≤ a → t.wstore.byte a = s.wstore.byte a)
      ∧ ∀ k i, i < 128 → (getD 0 t.wsPoison k).getLsbD i = ((getD 0 s.wsPoison k).getLsbD i
          && !(decide (addr ≤ 128 * k + i) && decide (128 * k + i < addr + bs.length))))

/-- A refresh window begins without any other effect; at its end the reads of the weight store that waited for it are
served, so with none waiting nothing changes (12 R336, R338). -/
def RefreshWindows : Prop :=
  (∀ (die group : Nat) (s : State), exec (.refreshWindowStart die group) s = .next s)
  ∧ (∀ (die group : Nat) (s : State), (∀ a ∈ s.accs, a.kind ≠ .ldw) → exec (.refreshWindowEnd die group) s = .next s)
  ∧ (∀ (die group : Nat) (s : State) (a : Acc) (z : AccLane) (x : Block) (y : Group) (u : Thread) (r : BitVec 7)
      (n : Nat), s.accs = [a] → a.kind = .ldw → a.lanes = [z] → z.st = .todo →
    z.va / 2 ^ 28 % 4 = die → z.va / 2 ^ 25 % 8 = group → s.refreshing z.va = false → z.va < 2 ^ 30 →
    z.va % retBytes a.ins = 0 →
    s.wsBad z.va (retBytes a.ins) = false → retDst a.ins = some (.v r, n) → s.haltedGrp a.blk a.grp = false →
    s.blk? a.blk = some x → x.fr.ws = true → s.grp? a.blk a.grp = some y → y.bast = none →
    y.threads[z.lane]? = some u →
    ∃ t u', exec (.refreshWindowEnd die group) s = .next t
      ∧ t = { s with accs := [], blocks := t.blocks, counters := t.counters }
      ∧ t.thr? a.blk a.grp z.lane = some u'
      ∧ RegsSet u.v u'.v r.toNat n (retExt a.ins (s.wstore.num z.va (retBytes a.ins))))

end Sys2Proof.Claim

/-- The load/store engine's events: posted entries end, loads return, transactions time out, carve-outs change. -/
def Obligations.AccessEvents : Prop :=
  Claim.PostedFreed ∧ Claim.PostedFaults ∧ Claim.LoadReturns ∧ Claim.TransactionTimesOut ∧ Claim.CarveAsked
    ∧ Claim.CarveDone

/-- The publish engine's messages, and the weight store's writes and refresh windows. -/
def Obligations.PublishAndStoreEvents : Prop :=
  Claim.PublishAnswered ∧ Claim.PublishDrains ∧ Claim.PublishRefused ∧ Claim.PublishLearnt ∧ Claim.WeightAccepted
    ∧ Claim.RefreshWindows

/-! ### The slice directory and the L1s -/

namespace Sys2Proof.Claim

/-- A message between an L1 and a slice. -/
def note (k : MKind) (core sec : Nat) (v : SecVal) (flag : Nat) : Msg := ⟨k, core, sec, v, flag, 0, .core core⟩

/-- The entry e of a sector homed here is stable with its data in the LLC, nothing waits there, no other package and not the
host has a copy, and no walk is in progress. -/
def Near (s : State) (sec : Nat) (e : DirE) : Prop :=
  s.mnd.walks = [] ∧ s.far sec = false ∧ s.podFind sec = none ∧ s.dirE sec = e ∧ e.trans = .stable ∧ e.fifo = []
  ∧ e.held = none ∧ e.lv = true ∧ e.keeps = false

/-- What a step of a slice changes: entry e' of its sector, messages after those that stay on the mesh, and the order of
the LLC's sets. -/
def SliceStep (s t : State) (sec : Nat) (e' : DirE) (net : List Msg) : Prop :=
  t = { s with
    dir := t.dir, net := net, flits := t.flits, pkts := t.pkts, counters := t.counters
    repl := { s.repl with llc := t.repl.llc, pins := t.repl.pins } } ∧ t.dirE sec = e' ∧ ∀ k, k ≠ sec → t.dirE k = s.dirE k

/-- The replacement hint of the access for which a core asks. -/
def hintOf (s : State) (core sec : Nat) : BitVec 2 := ((s.l1? core sec).map (·.hnt)).getD 0

/-- GETS of a load at a slice: with no copy recorded DATA_E, with clean or shared copies DATA_S, with another owner in X a forward
(10 R285). -/
def GetsRows : Prop :=
  ∀ (core sec : Nat) (s : State) (m : Msg) (e : DirE), s.msg? .gets core sec = some m →
    s.nonBinding core sec = false → Near s sec e → s.llcRoom (sec / 2) = true →
    ∃ t, exec (.gets core sec) s = .next t ∧ match e.st with
      | .i => SliceStep s t sec { e with
          trans := .bD, req := some (.gets core), clv := clvBit (core / 4), grant := some ⟨core, .x, core⟩ }
          (s.net.erase m ++ [note .dataE core sec e.val 0])
      | .x => if e.owner = core then SliceStep s t sec { e with
            st := .i, trans := .bD, req := some (.gets core), clv := clvBit (core / 4), grant := some ⟨core, .x, core⟩ }
            (s.net.erase m ++ [note .dataE core sec e.val 0])
          else SliceStep s t sec { e with trans := .bF, req := some (.gets core) }
            (s.net.erase m ++ [note .fwdGets e.owner sec SecVal.zero 0])
      | st => SliceStep s t sec { e with
          trans := .bD, req := some (.gets core), clv := e.clv ||| clvBit (core / 4), grant := some ⟨core, st, e.owner⟩ }
          (s.net.erase m ++ [note .dataS core sec e.val 0])

/-- The invalidations of some clusters, each but for a core that keeps its copy. -/
def invs (sec : Nat) (cls : List Nat) (but : Option Nat) : List Msg :=
  cls.map fun cl => note .inv cl sec SecVal.zero (match but with
    | some c => if c / 4 = cl then c + 1 else 0
    | none => 0)

/-- The requests for ownership. -/
def ownReqs (core sec : Nat) : List (Instr × MKind × DReq) :=
  [(.getx core sec, .getx, .getx core), (.getz core sec, .getz, .getz core), (.upg core sec, .upg, .upg core)]

/-- GETX, GETZ and UPG at a slice: with no copy DATA_M; shared copies are invalidated first, but for the copy of an UPG's own
cluster member; another owner is forwarded to, and beside an owner in O the sharers are invalidated. Where CLV names no
cluster there is none to wait for, and the grant follows (10 R285). -/
def OwnRows : Prop :=
  ∀ (core sec : Nat) (i : Instr) (k : MKind) (r : DReq) (s : State) (m : Msg) (e : DirE), (i, k, r) ∈ ownReqs core sec →
    s.msg? k core sec = some m → Near s sec e → s.llcRoom (sec / 2) = true →
    ∃ t, exec i s = .next t ∧ match e.st with
      | .i => SliceStep s t sec { e with
          trans := .bD, req := some r, clv := clvBit (core / 4), grant := some ⟨core, .x, core⟩ }
          (s.net.erase m ++ [note .dataM core sec e.val 0])
      | .s => if e.clusters = [] then SliceStep s t sec { e with
            st := .i, trans := .bD, req := some r, acks := 0, clv := clvBit (core / 4), grant := some ⟨core, .x, core⟩ }
            (s.net.erase m ++ [note .dataM core sec e.val 0])
          else SliceStep s t sec { e with
          trans := .bI, req := some r, acks := e.clusters.length, keeps := k == .upg && e.clv.getLsbD (core / 4) }
          (s.net.erase m ++ invs sec e.clusters (if k = .upg ∧ e.clv.getLsbD (core / 4) = true then some core else none))
      | .x => if e.owner = core then SliceStep s t sec { e with
            trans := .bD, req := some r, keeps := k == .upg, clv := clvBit (core / 4), grant := some ⟨core, .x, core⟩ }
            (s.net.erase m ++ [if k = .upg then note .upgAck core sec SecVal.zero 0 else note .dataM core sec e.val 0])
          else SliceStep s t sec { e with trans := .bF, req := some r }
            (s.net.erase m ++ [note .fwdGetx e.owner sec SecVal.zero 0])
      | .o => if e.owner = core ∧ e.clusters = [] then SliceStep s t sec { e with
            st := .i, trans := .bD, req := some r, acks := 0, keeps := k == .upg, clv := clvBit (core / 4)
            grant := some ⟨core, .x, core⟩ }
            (s.net.erase m ++ [if k = .upg then note .upgAck core sec SecVal.zero 0 else note .dataM core sec e.val 0])
          else if e.owner = core then SliceStep s t sec { e with
            trans := .bI, req := some r, acks := e.clusters.length, keeps := k == .upg }
            (s.net.erase m ++ invs sec e.clusters (some core))
          else SliceStep s t sec { e with trans := .bFI, req := some r, acks := e.clusters.length }
            (s.net.erase m ++ [note .fwdGetx e.owner sec SecVal.zero 0] ++ invs sec e.clusters (some e.owner))

/-- CFLQ and CINVQ at a slice: an owner is asked for its data; CINVQ has every other copy invalidated; with neither the step
at memory begins. PIN is cleared (10 R285). -/
def FlushRows : Prop :=
  (∀ (core sec : Nat) (s : State) (m : Msg) (e : DirE), s.msg? .cflq core sec = some m → Near s sec e →
    ∃ t, exec (.cflq core sec) s = .next t ∧ (∀ x ∈ t.llcLines (sec / 2), x.line = sec / 2 → x.pin = none)
      ∧ if e.st = .x ∨ e.st = .o then SliceStep s t sec { e with trans := .bF, req := some (.cflq core), acks := 0 }
          (s.net.erase m ++ [note .fwdWb e.owner sec SecVal.zero 0])
        else SliceStep s t sec { e with trans := .bW, req := some (.cflq core) } (s.net.erase m))
  ∧ ∀ (core sec : Nat) (s : State) (m : Msg) (e : DirE), s.msg? .cinvq core sec = some m → Near s sec e →
    ∃ t, exec (.cinvq core sec) s = .next t ∧ (∀ x ∈ t.llcLines (sec / 2), x.line = sec / 2 → x.pin = none) ∧ match e.st with
      | .x => SliceStep s t sec { e with trans := .bF, req := some (.cinvq core), acks := 0 }
          (s.net.erase m ++ [note .fwdWbi e.owner sec SecVal.zero 0])
      | .o => if e.clusters = [] then SliceStep s t sec { e with trans := .bF, req := some (.cinvq core), acks := 0 }
            (s.net.erase m ++ [note .fwdWbi e.owner sec SecVal.zero 0])
          else SliceStep s t sec { e with trans := .bFI, req := some (.cinvq core), acks := e.clusters.length }
          (s.net.erase m ++ [note .fwdWbi e.owner sec SecVal.zero 0] ++ invs sec e.clusters (some e.owner))
      | _ => if e.clusters = [] then SliceStep s t sec { e with
            st := .i, trans := .bW, req := some (.cinvq core), acks := 0, clv := 0, owner := 0 } (s.net.erase m)
          else SliceStep s t sec { e with trans := .bI, req := some (.cinvq core), acks := e.clusters.length }
            (s.net.erase m ++ invs sec e.clusters none)

/-- A request for a sector whose entry is transient, or for which others wait, joins the sector's FIFO where fewer than 64
requests are queued at its slice, and stays on the mesh where as many are (10 R284). -/
def RequestsWait : Prop :=
  ∀ (core sec : Nat) (i : Instr) (k : MKind) (r : DReq) (s : State) (m : Msg),
    (i, k, r) ∈ ownReqs core sec ++ [(.gets core sec, .gets, .gets core), (.cflq core sec, .cflq, .cflq core),
      (.cinvq core sec, .cinvq, .cinvq core)] →
    s.msg? k core sec = some m → s.nonBinding core sec = false →
    (s.dirE sec).trans ≠ .stable ∨ (s.dirE sec).fifo ≠ [] →
    (s.fifoCount sec < 64 → ∃ t, exec i s = .next t
      ∧ SliceStep s t sec { s.dirE sec with fifo := (s.dirE sec).fifo ++ [r] } (s.net.erase m) ∧ t.repl = s.repl)
    ∧ (64 ≤ s.fifoCount sec → exec i s = .next s)

/-- A request for whose line its set of the LLC has no way waits at the head of the sector's FIFO, where fewer than 64
requests are queued at its slice (10 R284, R290). -/
def NoWayWaits : Prop :=
  ∀ (core sec : Nat) (i : Instr) (k : MKind) (r : DReq) (s : State) (m : Msg),
    (i, k, r) ∈ ownReqs core sec ++ [(.gets core sec, .gets, .gets core)] → s.msg? k core sec = some m →
    s.mnd.walks = [] → (s.dirE sec).trans = .stable → (s.dirE sec).fifo = [] → (s.dirE sec).held = none →
    s.llcRoom (sec / 2) = false → s.nonBinding core sec = false → s.fifoCount sec < 64 →
    ∃ t, exec i s = .next t ∧ SliceStep s t sec { s.dirE sec with fifo := [r] } (s.net.erase m) ∧ t.repl = s.repl

/-- A GETS whose line is not in the LLC gives it a free way, with the RRPV and the PIN of the access's hint; one that hits
sets RRPV to 0 except under .STREAM, and under .PIN sets PIN; at most eight lines of a set are pinned (10 R289, R290). -/
def HintActs : Prop :=
  ∀ (core sec : Nat) (s : State) (m : Msg) (t : State), s.msg? .gets core sec = some m → s.mnd.walks = [] →
    s.far sec = false → s.podFind sec = none → (s.dirE sec).trans = .stable → (s.dirE sec).fifo = [] →
    (s.dirE sec).held = none → (s.dirE sec).st = .i → ((s.llcLines (sec / 2)).filter (·.pin.isSome)).length < 8 →
    s.nonBinding core sec = false → exec (.gets core sec) s = .next t →
    (s.llcHolds (sec / 2) = false → (s.llcLines (sec / 2)).length < 16 →
      ∃ x, t.llcLines (sec / 2) = s.llcLines (sec / 2) ++ [x] ∧ x.line = sec / 2 ∧ x.way < 16
        ∧ (∀ y ∈ s.llcLines (sec / 2), y.way ≠ x.way)
        ∧ x.rrpv = (if hintOf s core sec = 1 then 3 else if hintOf s core sec = 0 then 2 else 0)
        ∧ x.pin = if hintOf s core sec = 3 then some s.repl.pins else none)
    ∧ ((s.dirE sec).lv = true → (s.llcLines (sec / 2)).any (·.line == sec / 2) = true →
      t.llcLines (sec / 2) = (s.llcLines (sec / 2)).map fun x => if x.line = sec / 2 then { x with
          rrpv := if hintOf s core sec = 1 then x.rrpv else 0
          pin := if x.pin = none ∧ hintOf s core sec = 3 then some s.repl.pins else x.pin } else x)

/-- A ninth pin of a set takes PIN from its earliest-pinned line, which keeps RRPV 0; no other line changes (10 R290). -/
def NinthPin : Prop :=
  ∀ (xs : List LlcLine) (x : LlcLine) (n : Nat), (xs.filter (·.pin.isSome)).length = 9 →
    (xs.filterMap (·.pin)).Nodup → x ∈ xs → x.pin = some n → (∀ y ∈ xs, ∀ k, y.pin = some k → n ≤ k) →
    pinLimit xs = xs.map fun y => if y.pin = some n then { y with pin := none, rrpv := 0 } else y

/-- A GETS for a sector of which the LLC holds no data waits for memory (10 R285). -/
def MissGoesToMemory : Prop :=
  ∀ (core sec : Nat) (s : State) (m : Msg), s.msg? .gets core sec = some m → s.mnd.walks = [] → s.far sec = false →
    s.podFind sec = none → (s.dirE sec).trans = .stable → (s.dirE sec).fifo = [] → (s.dirE sec).held = none →
    (s.dirE sec).lv = false → (s.dirE sec).st = .i → s.llcRoom (sec / 2) = true → s.nonBinding core sec = false →
    ∃ t, exec (.gets core sec) s = .next t
      ∧ SliceStep s t sec { s.dirE sec with trans := .bM, req := some (.gets core) } (s.net.erase m)

/-- The head of a stable sector's FIFO is acted on as if it had just arrived (10 R284). -/
def FifoServed : Prop :=
  ∀ (core sec : Nat) (s : State) (e : DirE) (rest : List DReq), s.mnd.walks = [] → s.far sec = false → s.podFind sec = none → s.dirE sec = e → e.trans = .stable →
    e.fifo = .gets core :: rest → e.held = none → e.lv = true → e.st = .i →
    s.llcRoom (sec / 2) = true → s.nonBinding core sec = false → ∃ t, exec (.sliceFifoHead sec) s = .next t
      ∧ SliceStep s t sec { e with
          fifo := rest, trans := .bD, req := some (.gets core), clv := clvBit (core / 4), grant := some ⟨core, .x, core⟩ }
          (s.net ++ [note .dataE core sec e.val 0])

/-- What an L1's answer to a forward changes: its own copy, which becomes keep, and the messages. -/
def L1Answers (s t : State) (core sec : Nat) (keep : Option L1E) (net : List Msg) : Prop :=
  t = { s with cores := t.cores, net := net, flits := t.flits, pkts := t.pkts } ∧ t.l1? core sec = keep ∧ ∀ k q, ¬(k = core ∧ q = sec) → t.l1? k q = s.l1? k q

/-- An owner answers each kind of forward with its data, and keeps what its state's row gives: nothing after FWD_GETX and
FWD_WBI; after FWD_GETS O where the data is dirty, else S; after FWD_WB E, or S where it was O (10 R287). -/
def ForwardRows : Prop :=
  ∀ (core sec : Nat) (s : State) (e : L1E), Rising s.cores → Rising (s.core core).l1 → s.l1? core sec = some e →
    e.val.tag = none → (∀ w, s.conflicts sec w none = []) → e.st = .m ∨ e.st = .o ∨ e.st = .e →
    (∀ m, s.msg? .fwdGets core sec = some m → ∃ t, exec (.fwdGets core sec) s = .next t
      ∧ L1Answers s t core sec (some { e with st := if e.st = .e then .s else .o })
          (s.net.erase m ++ [note .fwdData core sec e.val (if e.st = .e then 0 else 1)]))
    ∧ (∀ m, s.msg? .fwdWb core sec = some m → ∃ t, exec (.fwdWb core sec) s = .next t
      ∧ L1Answers s t core sec (some { e with st := if e.st = .o then .s else .e })
          (s.net.erase m ++ [note .fwdData core sec e.val (if e.st = .e then 0 else 1)]))
    ∧ ∀ i k, (i, k) ∈ [(Instr.fwdGetx core sec, MKind.fwdGetx), (.fwdWbi core sec, .fwdWbi)] →
      ∀ m, s.msg? k core sec = some m → ∃ t, exec i s = .next t
        ∧ L1Answers s t core sec none (s.net.erase m ++ [note .fwdData core sec e.val (if e.st = .e then 0 else 1)])

/-- INV discards every copy of a cluster, but for a core that it leaves out, and one INV_ACK answers (10 R282, R287). -/
def InvRow : Prop :=
  ∀ (cl sec : Nat) (s : State) (m : Msg), s.msg? .inv cl sec = some m → Rising s.cores →
    (∀ c, Rising (s.core c).l1) → s.conflicts sec true none = [] →
    (∀ c e, s.l1? c sec = some e → c / 4 = cl → e.st = .s ∨ e.st = .e ∨ e.st = .o ∨ e.st = .m) →
    ∃ t, exec (.inv cl sec) s = .next t ∧ t = { s with cores := t.cores, net := t.net, flits := t.flits, pkts := t.pkts }
      ∧ t.net = s.net.erase m ++ [note .invAck cl sec SecVal.zero 0]
      ∧ ∀ c q, t.l1? c q = if q = sec ∧ c / 4 = cl ∧ c + 1 ≠ m.flag then none else s.l1? c q

/-- What a fill of an L1 changes: as an answer, and its line lies in a way of its set, beside those that were there. -/
def L1Fills (s t : State) (core sec : Nat) (keep : Option L1E) (net : List Msg) : Prop :=
  t = { s with
    cores := t.cores, net := net, flits := t.flits, pkts := t.pkts, repl := { s.repl with l1 := t.repl.l1 } }
  ∧ t.l1? core sec = keep
  ∧ (∀ k q, ¬(k = core ∧ q = sec) → t.l1? k q = s.l1? k q)
  ∧ (∃ w, w < 8 ∧ (w, sec / 2) ∈ t.l1Lines core (sec / 2))
  ∧ ∀ p ∈ s.l1Lines core (sec / 2), p ∈ t.l1Lines core (sec / 2)

/-- The grants. -/
def grants (core sec : Nat) : List (Instr × MKind × L1St) :=
  [(.dataS core sec, .dataS, .s), (.dataE core sec, .dataE, .e), (.dataM core sec, .dataM, .m)]

/-- A grant reaches the L1 that waits for it: where its set has a way for the line, the sector is installed in the state the
message names, with its data and tag, and DONE is sent; DATA_M merges nothing where no store is pending (06 R174; 10 R287). -/
def DataRows : Prop :=
  ∀ (core sec : Nat) (i : Instr) (k : MKind) (st : L1St) (s : State) (m : Msg) (e : L1E),
    (i, k, st) ∈ grants core sec → s.msg? k core sec = some m → s.l1? core sec = some e → e.st = .isd ∨ e.st = .imd →
    find? sec (s.core core).pend = none → s.l1Room core (sec / 2) = true →
    (∀ p ∈ s.l1Lines core (sec / 2), p.1 < 8) →
    ∃ t, exec i s = .next t ∧ L1Fills s t core sec (some { e with st := st, val := m.val })
      (s.net.erase m ++ [note .done core sec SecVal.zero 0])

/-- A grant for whose line its set of the L1 has no way stays on the mesh while a line of the set may be given up; where
every line is in the footprint of one transaction, that transaction aborts with cause 0x11 (06 R174, R203 rule 4). -/
def FillsWait : Prop :=
  (∀ (core sec : Nat) (i : Instr) (k : MKind) (st : L1St) (s : State) (v : Nat), (i, k, st) ∈ grants core sec →
    s.l1Room core (sec / 2) = false → s.l1Victim core (sec / 2) = some v → exec i s = .next s)
  ∧ ∀ (core sec : Nat) (i : Instr) (k : MKind) (st : L1St) (s : State) (m : Msg) (b g l : Nat) (u : Thread) (x : Txn),
    (i, k, st) ∈ grants core sec → s.msg? k core sec = some m → s.l1Room core (sec / 2) = false →
    s.l1Lines core (sec / 2) ≠ [] → (∀ p ∈ s.l1Lines core (sec / 2), p.1 < s.l1Ways core) → s.l1Ways core ≤ 8 →
    (∀ p ∈ s.l1Lines core (sec / 2),
      s.footprintOn core (2 * p.2) = true ∨ s.footprintOn core (2 * p.2 + 1) = true) →
    (∀ q y, y ∈ s.conflicts q true none → (y.1, y.2.1, y.2.2) = (b, g, l)) →
    s.l1Victim core (sec / 2) = none → s.nonBinding core sec = false → s.thr? b g l = some u → u.txn = some x →
    ∃ t, exec i s = .next t ∧ (x.writes = [] → t.net = s.net)
      ∧ t.thr? b g l = some { u with txn := none, v := u.v.set x.status.toNat 0x11#32, pc := x.handler }

/-- The tree order of a set: after an access to a line another that may be given up goes before it, and after a fill under
.STREAM the line itself is next (06 R174). -/
def TreeOrder : Prop :=
  ∀ (c line w : Nat) (s : State) (ok : Nat → Bool), (s.l1Set c line).lines.find? (·.2 == line) = some (w, line) → w < 8 →
    ok w = true →
    treePick ((s.l1Order c line true).l1Set c line).tree ok 3 1 0 = w
    ∧ ((∃ v, v < 8 ∧ v ≠ w ∧ ok v = true) →
      ok (treePick ((s.l1Order c line false).l1Set c line).tree ok 3 1 0) = true
        ∧ treePick ((s.l1Order c line false).l1Set c line).tree ok 3 1 0 ≠ w)

/-- The line that a full set gives up lies in it, waits for no upgrade and is in no footprint (06 R174, R203). -/
def VictimMayGo : Prop :=
  ∀ (c line v : Nat) (s : State), ((s.l1Lines c line).map (·.1)).Nodup → s.l1Victim c line = some v →
    v ∈ (s.l1Lines c line).map (·.2) ∧ (∀ k, k = 2 * v ∨ k = 2 * v + 1 → s.footprintOn c k = false
      ∧ ∀ e, s.l1? c k = some e → e.st ≠ .sma ∧ e.st ≠ .oma)

/-- DATA_M merges the pending store of its sector: the bytes that the store has written take its data, and the entry is
free (06 R181 rule 2). -/
def StoreMerges : Prop :=
  ∀ (core sec : Nat) (s : State) (m : Msg) (e : L1E) (p : Pend), s.msg? .dataM core sec = some m →
    s.l1? core sec = some e → e.st = .imd → m.val.psn = false → Rising (s.core core).pend →
    find? sec (s.core core).pend = some p → (s.core core).drain = none →
    (∀ me, s.conflicts sec true me = []) → s.l1Room core (sec / 2) = true →
    ∃ t, exec (.dataM core sec) s = .next t
      ∧ t = { s with
          cores := t.cores, net := t.net, flits := t.flits, pkts := t.pkts, blocks := t.blocks, repl := { s.repl with l1 := t.repl.l1 } }
      ∧ t.net = s.net.erase m ++ [note .done core sec SecVal.zero 0]
      ∧ t.l1? core sec = some { e with st := .m, val := ⟨mergeSec m.val.bytes p.mask p.data, m.val.tag, false⟩ }
      ∧ find? sec (t.core core).pend = none

/-- UPG_ACK gives M without data to a core that still holds its copy, with DONE; else UPG_MISS goes back (10 R287). -/
def UpgradeRows : Prop :=
  (∀ (core sec : Nat) (s : State) (m : Msg) (e : L1E), s.msg? .upgAck core sec = some m → s.l1? core sec = some e →
    e.st = .sma ∨ e.st = .oma → find? sec (s.core core).pend = none →
    ∃ t, exec (.upgAck core sec) s = .next t ∧ L1Answers s t core sec (some { e with st := .m })
      (s.net.erase m ++ [note .done core sec SecVal.zero 0]))
  ∧ ∀ (core sec : Nat) (s : State) (m : Msg), s.msg? .upgAck core sec = some m →
    (∀ e, s.l1? core sec = some e → e.st ≠ .sma ∧ e.st ≠ .oma) →
    exec (.upgAck core sec) s
      = .next ({ s with net := s.net.erase m }.send (note .upgMiss core sec SecVal.zero 0))

/-- WB_ACK frees the writeback buffer of a sector to whose core no forward is on its way (10 R286, R287). -/
def WritebackAcked : Prop :=
  ∀ (core sec : Nat) (s : State) (m : Msg) (e : L1E), s.msg? .wbAck core sec = some m → s.l1? core sec = some e →
    e.st.named = false → Rising s.cores → Rising (s.core core).l1 →
    (∀ q ∈ s.net, q.core = core → q.sec = sec → q.kind ≠ .fwdGets ∧ q.kind ≠ .fwdGetx ∧ q.kind ≠ .fwdWb
      ∧ q.kind ≠ .fwdWbi) →
    ∃ t, exec (.wbAck core sec) s = .next t ∧ L1Answers s t core sec none (s.net.erase m)

/-- An L1 gives up a stable copy that no transaction of its core has in its footprint, of the line that a fill without a way
takes or of one in a way that the carve-out takes: dirty data goes by PUTM, a clean copy by PUTC, and the copy stays in the
writeback buffer (06 R174, R177; 10 R287). No other copy is given up. -/
def L1Evicts : Prop :=
  (∀ (core sec : Nat) (s : State), s.l1Given core (sec / 2) = false →
    s.l1Wants core (sec / 2) = false ∨ s.l1Victim core (sec / 2) ≠ some (sec / 2) → exec (.l1Evict core sec) s = .next s)
  ∧ ∀ (core sec : Nat) (s : State) (e : L1E), s.l1? core sec = some e → e.st.stable = true →
    s.footprintOn core sec = false →
    s.l1Given core (sec / 2) = true ∨ (s.l1Wants core (sec / 2) = true ∧ s.l1Victim core (sec / 2) = some (sec / 2)) →
    ∃ t, exec (.l1Evict core sec) s = .next t
      ∧ L1Answers s t core sec (some { e with st := match e.st with
          | .m => .mia
          | .o => .oia
          | .e => .eia
          | _ => .sia })
        (s.net ++ [if e.st = .m ∨ e.st = .o then note .putm core sec e.val (if s.lastHolder core sec then 1 else 0)
          else note .putc core sec SecVal.zero (if s.lastHolder core sec then 1 else 0)])

/-- MNT_ACK ends the step of a CFLUSH or CINV: the walk of the one thread whose step it was stands at the next sector
(10 R294). -/
def MaintenanceAcked : Prop :=
  ∀ (core sec : Nat) (s : State) (m : Msg) (b : Nat) (x : Block) (y : Group) (u : Thread) (q : Maint),
    s.msg? .mntAck core sec = some m → s.blocks = [(b, x)] → x.groups = [y] → y.core = core → y.threads = [u] →
    u.maint = some q → q.sent = true →
    { s with net := s.net.erase m }.vaSec core x.asid (max q.base q.next) = some sec →
    ∃ t, exec (.mntAck core sec) s = .next t ∧ t = { s with net := s.net.erase m, blocks := t.blocks }
      ∧ t.thr? b 0 0 = some { u with maint := some { q with next := q.next + 64, sent := false } }

end Sys2Proof.Claim

/-- The slice directory's rows for requests: what each becomes at its sector's entry, what is sent, and what waits. -/
def Obligations.SliceRequests : Prop :=
  Claim.GetsRows ∧ Claim.OwnRows ∧ Claim.FlushRows ∧ Claim.RequestsWait ∧ Claim.NoWayWaits ∧ Claim.HintActs
    ∧ Claim.NinthPin ∧ Claim.MissGoesToMemory ∧ Claim.FifoServed

/-- The L1's rows: forwards, invalidations, grants, upgrades, writebacks and evictions. -/
def Obligations.L1Rows : Prop :=
  Claim.ForwardRows ∧ Claim.InvRow ∧ Claim.DataRows ∧ Claim.FillsWait ∧ Claim.TreeOrder ∧ Claim.VictimMayGo
    ∧ Claim.StoreMerges ∧ Claim.UpgradeRows ∧ Claim.WritebackAcked ∧ Claim.L1Evicts ∧ Claim.MaintenanceAcked

/-! ### Answers at the slice, memory steps, evictions, and the copies' fetches, misses and faults -/

namespace Sys2Proof.Claim

/-- The owner's data reaches the slice: the LLC takes it, and the transaction of the row goes on. A GETS is granted S, the
former owner staying in O where the data was dirty; a GETX is granted M; a CFLQ goes on to memory (10 R285). -/
def OwnerAnswers : Prop :=
  ∀ (core c sec : Nat) (s : State) (m : Msg) (e : DirE), s.msg? .fwdData core sec = some m → s.dirE sec = e →
    e.trans = .bF → e.keeps = false → s.far sec = false → e.st = .x ∨ e.st = .o →
    (e.req = some (.gets c) → ∃ t, exec (.fwdData core sec) s = .next t
      ∧ SliceStep s t sec { e with
          val := m.val, lv := true, ld := e.ld || m.flag == 1, st := if m.flag = 1 then .o else .s
          owner := if m.flag = 1 then core else 0, trans := .bD, clv := e.clv ||| clvBit (c / 4)
          grant := some ⟨c, if m.flag = 1 then .o else .s, if m.flag = 1 then core else 0⟩ }
          (s.net.erase m ++ [note .dataS c sec m.val 0]))
    ∧ (e.req = some (.getx c) → ∃ t, exec (.fwdData core sec) s = .next t
      ∧ SliceStep s t sec { e with
          val := m.val, lv := true, ld := e.ld || m.flag == 1, st := .i, trans := .bD, clv := clvBit (c / 4)
          grant := some ⟨c, .x, c⟩ } (s.net.erase m ++ [note .dataM c sec m.val 0]))
    ∧ (e.req = some (.cflq c) → ∃ t, exec (.fwdData core sec) s = .next t
      ∧ SliceStep s t sec { e with
          val := m.val, lv := true, ld := e.ld || m.flag == 1, st := if e.st = .o then .s else .x, trans := .bW }
          (s.net.erase m))

/-- PUTC and PUTM at a stable entry: CLV loses the cluster whose last copy this was, and an owner's copy ends its ownership;
PUTM of the owner brings its data to the LLC. WB_ACK in every case. A transient entry holds a PUTM; of two, that of the next
owner, else the later one, the model's choice (assumption log 22), the other having WB_ACK (10 R282, R285, R286). -/
def WritebackRows : Prop :=
  (∀ (core sec : Nat) (s : State) (m : Msg) (e : DirE), s.msg? .putc core sec = some m → s.dirE sec = e → e.lv = true →
    e.trans = .stable → e.st = .x → e.owner = core →
    ∃ t, exec (.putc core sec) s = .next t ∧ SliceStep s t sec { e with st := .i, owner := 0, clv := 0 }
      (s.net.erase m ++ [note .wbAck core sec SecVal.zero 0]))
  ∧ (∀ (core sec : Nat) (s : State) (m : Msg) (e : DirE), s.msg? .putc core sec = some m → s.dirE sec = e → e.lv = true →
    e.trans = .stable → e.st = .s →
    ∃ t clv, exec (.putc core sec) s = .next t
      ∧ clv = (if m.flag = 1 then e.clv &&& ~~~(clvBit (core / 4)) else e.clv)
      ∧ SliceStep s t sec (if clv = 0 then { e with st := .i, owner := 0, clv := 0 } else { e with clv := clv })
        (s.net.erase m ++ [note .wbAck core sec SecVal.zero 0]))
  ∧ (∀ (core sec : Nat) (s : State) (m : Msg) (e : DirE), s.msg? .putm core sec = some m → s.dirE sec = e →
    e.trans = .stable → e.st = .x → e.owner = core →
    ∃ t, exec (.putm core sec) s = .next t
      ∧ SliceStep s t sec { e with st := .i, owner := 0, clv := 0, val := m.val, lv := true, ld := true }
        (s.net.erase m ++ [note .wbAck core sec SecVal.zero 0]))
  ∧ ∀ (core sec : Nat) (s : State) (m : Msg) (e : DirE), s.msg? .putm core sec = some m → s.dirE sec = e →
    e.trans ≠ .stable →
    (e.held = none → ∃ t, exec (.putm core sec) s = .next t
      ∧ SliceStep s t sec { e with held := some (core, m.val) } (s.net.erase m))
    ∧ ∀ c v, e.held = some (c, v) → s.lastHolder c sec = false → s.lastHolder core sec = false →
      ∃ t, exec (.putm core sec) s = .next t
        ∧ if e.heir = some c then SliceStep s t sec e (s.net.erase m ++ [note .wbAck core sec SecVal.zero 0])
          else SliceStep s t sec { e with held := some (core, m.val) }
            (s.net.erase m ++ [note .wbAck c sec SecVal.zero 0])

/-- UPG_MISS is answered with DATA_M from the LLC (10 R285). -/
def UpgradeMisses : Prop :=
  ∀ (core sec : Nat) (s : State) (m : Msg), s.msg? .upgMiss core sec = some m →
    exec (.upgMiss core sec) s = .next ({ s with net := s.net.erase m }.send (note .dataM core sec (s.dirE sec).val 0))

/-- INV_ACK: while more are awaited the count falls and the cluster leaves CLV; the last one lets a GETX be granted
(10 R285). -/
def InvAcks : Prop :=
  ∀ (cl c sec : Nat) (s : State) (m : Msg) (e : DirE), s.msg? .invAck cl sec = some m → s.dirE sec = e → e.trans = .bI →
    (1 < e.acks → ∃ t, exec (.invAck cl sec) s = .next t
      ∧ SliceStep s t sec { e with acks := e.acks - 1, clv := e.clv &&& ~~~(clvBit cl) } (s.net.erase m))
    ∧ (e.acks ≤ 1 → e.req = some (.getx c) → e.keeps = false → s.far sec = false →
      ∃ t, exec (.invAck cl sec) s = .next t
        ∧ SliceStep s t sec { e with
            acks := e.acks - 1, st := .i, trans := .bD, clv := clvBit (c / 4), grant := some ⟨c, .x, c⟩ }
            (s.net.erase m ++ [note .dataM c sec e.val 0]))

/-- DONE: the entry is stable in the state that the grant set, no transaction recorded (10 R285). -/
def DoneEnds : Prop :=
  ∀ (core sec : Nat) (s : State) (m : Msg) (e : DirE) (g : Grant), s.msg? .done core sec = some m → s.dirE sec = e →
    e.grant = some g → e.held = none → g.st = .x ∨ g.st = .o ∨ g.st = .s →
    ∃ t, exec (.done core sec) s = .next t
      ∧ SliceStep s t sec { e with
          st := g.st, owner := if g.st = .s then 0 else g.owner, trans := .stable, req := none, grant := none, acks := 0
          keeps := false } (s.net.erase m)

/-- The fill from memory of a load's GETS with no copy recorded: the LLC takes the bytes of memory and grants E (10 R285). -/
def MemoryFills : Prop :=
  ∀ (c sec : Nat) (s : State) (e : DirE), s.dirE sec = e → e.trans = .bM → e.req = some (.gets c) → e.st = .i →
    s.far sec = false → s.podFind sec = none → s.nonBinding c sec = false →
    ∃ t v, exec (.memoryReadComplete sec) s = .next t
      ∧ v = ⟨s.mem.sector (secOff sec / 64), none, s.hom.poison.contains sec⟩
      ∧ SliceStep s t sec { e with
          val := v, lv := true, ld := false, trans := .bD, req := some (.gets c), clv := clvBit (c / 4), grant := some ⟨c, .x, c⟩ }
          (s.net ++ [note .dataE c sec v 0])

/-- The memory step of a CFLQ whose sector has no tag: memory holds the LLC's bytes, the entry is clean and stable, and
MNT_ACK goes to the core (10 R285, R294). -/
def MemoryTakes : Prop :=
  ∀ (c sec : Nat) (s : State) (e : DirE), s.dirE sec = e → e.trans = .bW → e.req = some (.cflq c) → e.lv = true →
    e.ld = true → e.val.tag = none → e.val.psn = false → e.held = none → s.far sec = false → Memory.wf s.mem = true →
    ∃ t, exec (.memoryWriteComplete sec) s = .next t
      ∧ t = { s with
          dir := t.dir, net := s.net ++ [note .mntAck c sec SecVal.zero 0], flits := t.flits, pkts := t.pkts
          mem := t.mem, hom := t.hom }
      ∧ t.dirE sec = { e with ld := false, trans := .stable, req := none, grant := none, acks := 0, keeps := false }
      ∧ t.mem.sector (secOff sec / 64) = e.val.bytes
      ∧ (∀ a, a / 64 ≠ secOff sec / 64 → t.mem.byte a = s.mem.byte a)
      ∧ t.hom = { s.hom with poison := s.hom.poison.filter (· != sec) }

/-- A load's request that waited for a home or a peer goes on once no other holder stands in its way (10 R285, R288). -/
def HomeAnswers : Prop :=
  ∀ (c sec : Nat) (s : State) (e : DirE), s.dirE sec = e → e.trans = .bH → e.req = some (.gets c) → e.st = .i →
    e.lv = true → s.far sec = false → s.podFind sec = none → s.fab.unacked = [] → s.hst.reqs = [] → s.nonBinding c sec = false →
    ∃ t, exec (.homeComplete sec) s = .next t
      ∧ SliceStep s t sec { e with
          trans := .bD, req := some (.gets c), clv := clvBit (c / 4), grant := some ⟨c, .x, c⟩ }
          (s.net ++ [note .dataE c sec e.val 0])

/-- The RRPV of an unpinned line increased n times, as far as 3. -/
def aged (n : Nat) (x : LlcLine) : LlcLine :=
  if x.pin.isNone then { x with rrpv := BitVec.ofNat 2 (min 3 (x.rrpv.toNat + n)) } else x

/-- The victim of a set: every unpinned line's RRPV rises until some unpinned line not in a transaction has 3; of those the
lowest-numbered way, one without L1 copies before one with. A set with an unpinned line not in a transaction has a victim
(10 R290). -/
def LlcVictim : Prop :=
  ∀ (s : State) (xs : List LlcLine),
    ((∃ x ∈ xs, x.pin = none ∧ s.llcBusy x.line = false) → (s.llcChoose xs 4).isSome = true)
    ∧ ∀ x ys, s.llcChoose xs 4 = some (x, ys) → ∃ n, n < 4 ∧ ys = xs.map (aged n) ∧ x ∈ ys ∧ x.pin = none
      ∧ s.llcBusy x.line = false ∧ x.rrpv = 3
      ∧ (∀ k, k < n → ∀ y ∈ xs, y.pin = none → s.llcBusy y.line = false → (aged k y).rrpv ≠ 3)
      ∧ ∀ y ∈ ys, y.pin = none → s.llcBusy y.line = false → y.rrpv = 3 →
          (s.llcCopies x.line = true → s.llcCopies y.line = true)
          ∧ (s.llcCopies x.line = s.llcCopies y.line → x.way ≤ y.way)

/-- LLC_EVICT takes only the victim of a set in which a request waits for a way. Where the victim has no L1 copies, each of
its sectors that holds data stands in B_E; the recall of a sector whose copies are back is complete at once, dirty data going
to memory and the entry being free (10 R290, R291). -/
def LlcEvicts : Prop :=
  (∀ (sec : Nat) (s : State), (s.llcWants (sec / 2) = true →
      ∀ x xs, s.llcChoose (s.llcLines (sec / 2)) 4 = some (x, xs) → x.line ≠ sec / 2) → exec (.llcEvict sec) s = .next s)
  ∧ (∀ (sec : Nat) (s : State) (x : LlcLine) (xs : List LlcLine), s.llcWants (sec / 2) = true →
    s.llcChoose (s.llcLines (sec / 2)) 4 = some (x, xs) → x.line = sec / 2 →
    (∀ k, k = sec / 2 * 2 ∨ k = sec / 2 * 2 + 1 → (s.dirE k).trans = .stable
      ∧ (s.dirE k).lv = true ∧ (s.dirE k).st = .i ∧ (s.dirE k).clv = 0) →
    ∃ t, exec (.llcEvict sec) s = .next t
      ∧ t = { s with dir := t.dir, counters := t.counters, repl := { s.repl with llc := t.repl.llc } }
      ∧ getD [] t.repl.llc (s.llcKey (sec / 2)) = xs
      ∧ ∀ k, t.dirE k = if k = sec / 2 * 2 ∨ k = sec / 2 * 2 + 1 then { s.dirE k with trans := .bE, acks := 0 }
          else s.dirE k)
  ∧ ∀ (sec : Nat) (s : State) (e : DirE), s.dirE sec = e → Rising s.dir → e.trans = .bE → e.acks = 0 → e.st = .i →
    e.lv = true → e.ld = true → e.val.tag = none → e.val.psn = false → e.held = none → s.far sec = false →
    Memory.wf s.mem = true →
    ∃ t, exec (.llcRecallComplete sec) s = .next t ∧ t = { s with dir := t.dir, mem := t.mem, hom := t.hom }
      ∧ t.dirE sec = { DirE.reset with fifo := e.fifo } ∧ t.mem.sector (secOff sec / 64) = e.val.bytes
      ∧ ∀ a, a / 64 ≠ secOff sec / 64 → t.mem.byte a = s.mem.byte a

/-- An uncorrectable error in LLC data poisons the sector and is counted and located; one in control state is a machine
check (10 R292; 22 R545). -/
def SoftErrors : Prop :=
  (∀ (sec : Nat) (s : State) (e : DirE), s.dirE sec = e → e.lv = true →
    ∃ t, exec (.llcSoftError sec true) s = .next t ∧ t = { s with dir := t.dir, pkg := t.pkg }
      ∧ t.dirE sec = { e with val := { e.val with psn := true } }
      ∧ t.pkg = { s.pkg with
          eccUe := if s.pkg.eccUe = -1 then -1 else s.pkg.eccUe + 1
          eccLoc := BitVec.ofNat 32 (3 + (0x4000 + s.sliceOfSec sec) % 2 ^ 16 * 16) })
  ∧ ∀ (sec : Nat) (s : State), ∃ t, exec (.llcSoftError sec false) s = .next t ∧ t.pkg.stopped = true
    ∧ t.mem = s.mem ∧ t.dir = s.dir ∧ t.cores = s.cores ∧ t.blocks = s.blocks

/-- A multicast destination acknowledges a unit of the last slice of a CPYM: its block's scratchpad holds the unit, and the unit no longer
waits for it (11 R311, R312). -/
def HoldAcked : Prop :=
  ∀ (cl dst : Nat) (s : State) (u : HoldU) (x y : Block) (d : Nat) (k : Coll) (z : Slice),
    getD [] s.hold cl = [u] → dst ∈ u.dsts → u.dsts.filter (· != dst) ≠ [] → s.slice? u.blk u.coll u.grp = some (x, k, z) →
    k.bar = none → s.partBlock x dst = some d → s.blk? u.blk = some x → s.blk? d = some y → z.rem ≠ 0 →
    (∀ q ∈ x.colls, q.num ≤ u.coll ∧ (q.num = u.coll → ∀ w ∈ q.slices, w.grp ≤ u.grp)) →
    Memory.wf y.scratch = true →
    ∃ t, exec (.holdBufferAck cl u.id dst) s = .next t
      ∧ t = { s with hold := t.hold, blocks := t.blocks, counters := t.counters }
      ∧ getD [] t.hold cl = [{ u with dsts := u.dsts.filter (· != dst) }]
      ∧ ∃ y', t.blk? d = some y' ∧ y' = { y with scratch := y'.scratch }
        ∧ y'.scratch.num u.addr 16 = u.val.toNat
        ∧ ∀ a, a < u.addr ∨ u.addr + 16 ≤ a → y'.scratch.byte a = y.scratch.byte a

/-- The tile stream of a block is fetched once and copied to all its copies, and the block's groups may then start (13 R340;
19 R474). -/
def StreamFetched : Prop :=
  ∀ (b : Nat) (s s1 : State) (x : Block) (t0 : Tile) (ts : List Tile) (ws : List Word) (q : Nat),
    s.blk? b = some x →
    x.tiles = t0 :: ts → t0.buf = [] → t0.fault = none → s.pkg.stopped = false → ws ≠ [] →
    s.streamLines b x t0.core ((List.range t0.lines).map fun i => t0.base + 128 * i) = (s1, .line ws, q) →
    s1.blk? b = some x → x.fr.ordered = false →
    ∃ t x', exec (.tileStreamFetch b) s = .next t ∧ t = { s1 with fab := t.fab, blocks := t.blocks }
      ∧ t.blk? b = some x' ∧ x' = { x with tiles := x'.tiles, groups := x'.groups }
      ∧ x'.tiles = x.tiles.map (fun (u : Tile) => { u with buf := ws })
      ∧ x'.groups = x.groups.map fun (y : Group) => { y with started := true }

/-- A miss of a form's scale reads fills the line from the block's scratchpad, which the cache then holds (14 R371). -/
def ScaleFills : Prop :=
  ∀ (b k line : Nat) (s : State) (x : Block) (u : Tile) (i : Instr) (k0 : Nat) (f : MForm), s.blk? b = some x →
    s.tile? b k = some u → u.wait = .matrix i k0 → mform? i = some f → s.tileReady b k = true →
    (∃ a ∈ f.scales u, a / 64 = line) → find? line u.scale = none → u.scale.length < 256 →
    ∃ t u', exec (.scaleCacheFill b k line) s = .next t ∧ t = { s with blocks := t.blocks }
      ∧ t.tile? b k = some u' ∧ u' = { u with scale := u'.scale }
      ∧ find? line u'.scale = some ⟨x.scratch.sector line, none, false⟩
      ∧ ∀ j, j ≠ line → find? j u'.scale = find? j u.scale

/-- A copy's fault is delivered to the trap unit of its core, and only then contained: under retry the copy tries the
instruction again, at most three times (13 R362; 20 R497, R499). -/
def TileFaults : Prop :=
  (∀ (b k : Nat) (s : State) (u : Tile) (f : TFault), s.tile? b k = some u → u.fault = some f →
    ∃ t, exec (.tileFault b k) s = .next t ∧ t = { s with blocks := t.blocks }
      ∧ t.tile? b k = some { u with fault := some { f with told := true } })
  ∧ ∀ (core b k : Nat) (s : State) (x : Block) (u : Tile) (f : TFault), s.blockOnCore core = some (b, k, u) →
    s.blk? b = some x → s.tile? b k = some u → u.fault = some f → f.told = true → u.buf ≠ [] → s.policy x 3 = 1 →
    f.code ≠ 0x25 → f.code ≠ 0x30 → f.code ≠ 0x31 → f.code ≠ 0x38 →
    (u.retryPc = u.addr u.spc → u.retries < 3) → s.trp.ctl = 0 → s.ioqShape 0 = none →
    ∃ t, exec (.faultContain core) s = .next t
      ∧ t.tile? b k = some { u with
          fault := none, wait := .none, issued := false, retryPc := u.addr u.spc
          retries := (if u.retryPc = u.addr u.spc then u.retries else 0) + 1 }
      ∧ t.mem = s.mem ∧ t.cores = s.cores ∧ t.trp.drop = true

end Sys2Proof.Claim

/-- The slice's rows for answers and memory, evictions and errors of the LLC. -/
def Obligations.SliceAnswers : Prop :=
  Claim.OwnerAnswers ∧ Claim.WritebackRows ∧ Claim.UpgradeMisses ∧ Claim.InvAcks ∧ Claim.DoneEnds ∧ Claim.MemoryFills
    ∧ Claim.MemoryTakes ∧ Claim.HomeAnswers ∧ Claim.LlcVictim ∧ Claim.LlcEvicts
    ∧ Claim.SoftErrors

/-- The events of multicast copies and of tile copies. -/
def Obligations.CopyEvents : Prop :=
  Claim.HoldAcked ∧ Claim.StreamFetched ∧ Claim.ScaleFills ∧ Claim.TileFaults

/-! ### The fabric engine -/

namespace Sys2Proof.Claim

/-- A read that arrives at an open home, where no other holder and no tag stands in its way, is answered with the sector's
bytes, and its result is kept under its number (15 R385, R392). -/
def FabricServed : Prop :=
  ∀ (src : Nat) (seq low : Word) (pa : Nat) (s : State), s.hom.ctl.getLsbD 0 = true → Rising s.fab.low → s.fab.dups = [] →
    seqAbove low (getD 0 s.fab.low src) = true → seqAbove low seq = false → gpaOff pa < 2 ^ 51 →
    s.podBlocks (pa / 64) false = false → (s.cohRead (pa / 64)).tag = none → (s.cohRead (pa / 64)).psn = false →
    s.conflicts (pa / 64) false none = [] →
    ∃ t, exec (.fabricRequestArrival src seq low false (.read pa)) s = .next t
      ∧ t.out = s.out ++ [.response src seq .ok ⟨(s.cohRead (pa / 64)).bytes, none, false⟩ []]
      ∧ t.fab.dups = [⟨src, seq, .done, false, none, some (.ok, ⟨(s.cohRead (pa / 64)).bytes, none, false⟩)⟩]
      ∧ getD 0 t.fab.low src = low ∧ t.blocks = s.blocks ∧ t.xlt = s.xlt ∧ t.dsp = s.dsp ∧ t.hst = s.hst

/-- A request at a home that is not open is answered PEER_DOWN; one whose number is below LOW is dropped; one that is in
progress is left to end (15 R392; 16 R409). -/
def FabricTurnedAway : Prop :=
  (∀ (src : Nat) (seq low : Word) (o : Bool) (op : HomeOp) (s : State), s.hom.ctl.getLsbD 0 = false →
    exec (.fabricRequestArrival src seq low o op) s
      = .next { s with out := s.out ++ [.response src seq (.fault 0x1C) SecVal.zero []] })
  ∧ ∀ (src : Nat) (seq low : Word) (o : Bool) (op : HomeOp) (s : State), s.hom.ctl.getLsbD 0 = true → Rising s.fab.low →
    seqAbove low (getD 0 s.fab.low src) = true → seqAbove low seq = true →
    ∃ t, exec (.fabricRequestArrival src seq low o op) s = .next t
      ∧ t = { s with fab := { s.fab with low := t.fab.low, dups := s.fab.dups.filter fun d =>
          !(d.src == src && seqAbove low d.seq) } }
      ∧ getD 0 t.fab.low src = low

/-- A response ends its request: it stays with its result for the one that asked, or is gone where the engine itself asked
(15 R389). An abandon response ends the ABANDON of its number, and no other response does (15 R394); one that finds no
open request changes nothing (15 R393). -/
def FabricAnswered : Prop :=
  (∀ (dst : Nat) (seq : Word) (st : FabStatus) (v : SecVal) (more : List SecData) (s : State) (r : FReq) (sec : Nat),
    s.req? dst seq = some r → r.owner = .sector sec → r.op.abandons = false →
    ∃ t, exec (.fabricResponse dst seq (.answer st) v more) s = .next t ∧ t = { s with fab := { s.fab with unacked := t.fab.unacked } }
      ∧ t.fab.unacked = s.fab.unacked.map fun (q : FReq) => if q.dst = r.dst ∧ q.seq = r.seq ∧ q.op = r.op then
          { q with result := some (st, v), more := more } else q)
  ∧ (∀ (dst : Nat) (seq : Word) (st : FabReply) (v : SecVal) (more : List SecData) (s : State) (r : FReq),
    s.req? dst seq = some r → r.owner = .engine → (r.op.abandons = true ↔ st = .abandoned) →
    ∃ t, exec (.fabricResponse dst seq st v more) s = .next t ∧ t = { s with fab := { s.fab with unacked := t.fab.unacked } }
      ∧ t.fab.unacked = s.fab.unacked.filter fun (q : FReq) => !(q.dst == r.dst && q.seq == r.seq && q.op == r.op))
  ∧ ∀ (dst : Nat) (seq : Word) (st : FabStatus) (v : SecVal) (more : List SecData) (s : State),
    (s.req? dst seq = none ∨ ∃ r, s.req? dst seq = some r ∧ r.op.abandons = true) →
    exec (.fabricResponse dst seq (.answer st) v more) s = .next s

/-- 8 µs after its last send a request without a response is sent again, at most three times, with the stream's LOW and by
the station of R388, which leaves out the one before it where it can (15 R388, R393). -/
def FabricResent : Prop :=
  ∀ (dst : Nat) (seq : Word) (s : State) (r : FReq), s.req? dst seq = some r → s.pkg.stopped = false →
    r.last + 11200 ≤ s.now → r.resends < 3 → (1024 ≤ dst ∨ getD [] s.fab.reach dst ≠ []) →
    ∃ t, exec (.fabricResend dst seq) s = .next t
      ∧ t = { s with fab := { s.fab with unacked := t.fab.unacked }, counters := t.counters
                     out := s.out ++ [.packet dst seq (s.lowOf dst) r.obit r.op (s.stationFor dst r.op (some r.stn))] }
      ∧ t.fab.unacked = s.fab.unacked.map fun (q : FReq) => if q.dst = r.dst ∧ q.seq = r.seq ∧ q.op = r.op then
          { q with resends := q.resends + 1, stn := s.stationFor dst r.op (some r.stn), last := s.now } else q

/-- At its deadline a request ends with FABRIC_TIMEOUT, and ABANDON of its number is sent until it is acknowledged
(15 R393, R394). -/
def FabricTimesOut : Prop :=
  ∀ (dst : Nat) (seq : Word) (s : State) (r : FReq) (sec : Nat), s.req? dst seq = some r → r.owner = .sector sec →
    r.sent + r.dl ≤ s.now → ((s.openReqs dst).filter fun q => q.obit && seqAbove q.seq seq) = [] →
    ∃ t low, exec (.fabricDeadlineExpiry dst seq) s = .next t
      ∧ t = { s with fab := { s.fab with unacked := t.fab.unacked }, counters := t.counters
                     out := s.out ++ [.packet dst seq low false (.abandon seq) (s.stationFor dst (.abandon seq) none)] }
      ∧ t.fab.unacked = (s.fab.unacked.map fun (q : FReq) => if q.dst = r.dst ∧ q.seq = r.seq ∧ q.op = r.op then
          { q with result := some (.fault 0x1B, SecVal.zero), more := [] } else q)
          ++ [⟨dst, seq, false, .abandon seq, .engine, s.now, r.dl, 0, none, [],
            s.stationFor dst (.abandon seq) none, s.now⟩]

/-- ABANDON: a request of the number that is not done is abandoned, and the ABANDON is acknowledged (15 R394). -/
def FabricAbandons : Prop :=
  ∀ (src : Nat) (seq : Word) (s : State) (d : Dup), s.fab.dups = [d] → d.src = src → d.seq = seq → d.st = .inProgress →
    exec (.abandon src seq) s
      = .next { s with
          fab := { s.fab with dups := [{ d with st := .abandoned, held := none }] }
          out := s.out ++ [.abandoned src seq] }

/-- A migration counter that has reached its threshold returns to 0; where its queue takes no record the record is dropped
and counted (15 R386). -/
def MigrationCounted : Prop :=
  ∀ (asid vpage home : Nat) (s : State) (m : Mig),
    s.fab.migs.find? (fun m => m.asid == asid && m.vpage == vpage && m.home == home) = some m →
    s.fab.mig.toNat % 65536 ≠ 0 → s.fab.mig.toNat % 65536 ≤ m.count → s.ioqShape (s.fab.mig.toNat / 65536 % 1024) = none →
    ∃ t, exec (.migrationThreshold asid vpage home) s = .next t
      ∧ t = { s with fab := { s.fab with migs := t.fab.migs }, counters := t.counters }
      ∧ t.fab.migs = s.fab.migs.map fun (x : Mig) => if x.asid = asid ∧ x.vpage = vpage then { x with count := 0 } else x

/-- A switch that has trained reaches just the packages it reports, beside what other switches reach (15 R387). -/
def LinksTrained : Prop :=
  ∀ (k : Nat) (ids : List Nat) (s : State), k ∈ s.pkg.caps.stations → s.pkg.bootFail = false → Rising s.fab.reach →
    ∃ t, exec (.linkTraining k ids) s = .next t ∧ t = { s with fab := { s.fab with reach := t.fab.reach } }
      ∧ (∀ p, k ∈ getD [] t.fab.reach p ↔ p ∈ ids)
      ∧ ∀ p j, j ≠ k → (j ∈ getD [] t.fab.reach p ↔ j ∈ getD [] s.fab.reach p)

/-- A write of FAB_COLL_HI with GO starts a registration; when its descriptor has been read and is in order, the collective
stands registered and DONE is set; a descriptor of one member is an error (15 R399). -/
def CollectiveRegistered : Prop :=
  (∀ (hi : Word) (s : State), exec (.collRegister hi) s = .next { s with fab := { s.fab with
      collHi := hi &&& 0x3FFFFFFF, collBusy := s.fab.collBusy || hi.getLsbD 31 } })
  ∧ ∀ (s : State) (h bs : List Byte), s.fab.collBusy = true →
    s.physRead (partsOf s.collAddr 8) = (s, .bytes h) →
    s.physRead (partsOf s.collAddr (8 + 2 * (ofBytes ((h.drop 2).take 2) % 2048))) = (s, .bytes bs) →
    s.fab.unacked = [] → s.hst.reqs = [] →
    (s.collBad (descOf bs) = false → (descOf bs).members ≠ [] → exec .collRegisterDone s = .next { s with fab := { s.fab with
        collBusy := false, collDone := true, colls := s.fab.colls.filter (·.id != (descOf bs).id) ++ [descOf bs] } })
    ∧ ((descOf bs).members.length = 1 → exec .collRegisterDone s
        = .next { s with fab := { s.fab with collBusy := false, collErr := true } })

/-- A result chunk writes the reduced elements at its place of the destination: each the tree sum, or the extreme, of the
members' contributions in member order, narrowed to the format. A chunk that failed ends the round, its fault deferred in
the thread that began it (15 R400 to R402). -/
def ChunksReduced : Prop :=
  (∀ (id : BitVec 16) (chunk : Nat) (contribs : List (List Word)) (s s1 : State) (k : Bulk) (c : Collective),
    s.fredFor id chunk .ok = some k → s.collective? id = some c → k.chunks.length + 1 < (k.count + 63) / 64 →
    s.writeRange (s.bulkAgent k) (.source k.id) (k.daddr + 64 * fredBytes k.fmt * chunk)
      ((List.range (min 64 (k.count - 64 * chunk))).flatMap fun j => toBytes (fredBytes k.fmt) (narrowElem k.fmt
        (BitVec.ofNat 32 (reduceElem k.op ((List.range c.members.length).map fun m =>
          (if m = c.members.findIdx (· == s.self) then k.vals.getD (64 * chunk + j) 0
            else (contribs.getD m []).getD j 0).toNat))))) = (s1, .bytes []) →
    ∃ t, exec (.resultChunk id chunk .ok contribs) s = .next t ∧ t = { s1 with fab := t.fab, hst := t.hst }
      ∧ t.fab.bulks = s1.fab.bulks.map fun (q : Bulk) => if q.id = k.id then { q with chunks := q.chunks ++ [chunk] } else q)
  ∧ ∀ (id : BitVec 16) (chunk : Nat) (contribs : List (List Word)) (code : BitVec 8) (s : State) (k : Bulk)
      (c : Collective) (u : Thread), code ≠ 0x12 →
    s.fredFor id chunk (.fault code) = some k → s.collective? id = some c →
    s.thr? k.blk k.grp k.lane = some u → u.deferred = none →
    ∃ t u', exec (.resultChunk id chunk (.fault code) contribs) s = .next t
      ∧ t.fab.bulks = s.fab.bulks.filter (·.id != k.id) ∧ t.thr? k.blk k.grp k.lane = some u'
      ∧ u'.deferred = some ⟨k.pc, k.daddr, code, 0⟩ ∧ u'.v = u.v ∧ u'.pc = u.pc ∧ t.mem = s.mem ∧ t.cores = s.cores

end Sys2Proof.Claim

/-- The fabric engine's events: requests at this home, and this package's own requests, registrations and reductions. -/
def Obligations.FabricEvents : Prop :=
  Claim.FabricServed ∧ Claim.FabricTurnedAway ∧ Claim.FabricAnswered ∧ Claim.FabricResent ∧ Claim.FabricTimesOut
    ∧ Claim.FabricAbandons ∧ Claim.MigrationCounted ∧ Claim.LinksTrained ∧ Claim.CollectiveRegistered ∧ Claim.ChunksReduced

/-! ### The home agent -/

namespace Sys2Proof.Claim

/-- A request of package src for sector sec finds its home open and in order: src is in a slot of a cell that is up, the
sector is cacheable and homed here, no walk is in progress, nothing of it is on the mesh or in a transaction, and its
directory entry is stable with nothing waiting. -/
def AtHome (s : State) (src sec : Nat) : Prop :=
  s.hom.ctl.getLsbD 0 = true ∧ s.homed sec = true ∧ State.hostSec sec = false ∧ (s.cellOf src).isSome = true
  ∧ s.cellDown src = false ∧ s.mnd.walks = [] ∧ (s.dirE sec).trans = .stable ∧ (s.dirE sec).fifo = []
  ∧ (s.dirE sec).held = none ∧ (∀ m ∈ s.net, m.sec ≠ sec) ∧ s.conflicts sec true none = []

/-- What the home sends to a package is a request of the package's stream, under the stream's next number: it leaves by the
station of R388 and stays until it is answered, or waits at its source where the stream has no room; an answer ends the
requests for its sector to its sender (15 R389, R393; 16 R422, R426). -/
def HomeAsks : Prop :=
  (∀ (p sec : Nat) (k : PMsg) (s : State), s.pkg.stopped = false → s.fabRoom p = true →
    ∃ t, t = s.podAsk p k sec
      ∧ t = { s with
        out := s.out ++ [.packet p (getD 0 s.fab.next p) (t.lowOf p) false (.pod k sec)
          (s.stationFor p (.pod k sec) none)]
        counters := t.counters
        fab := { s.fab with
          next := putD 0 p (getD 0 s.fab.next p + 1) s.fab.next
          unacked := s.fab.unacked ++ [⟨p, getD 0 s.fab.next p, false, .pod k sec, .engine, s.now,
            1400 * max 1 (s.fab.tmo.toNat % 65536), 0, none, [], s.stationFor p (.pod k sec) none, s.now⟩] } })
  ∧ (∀ (p sec : Nat) (k : PMsg) (s : State), s.pkg.stopped = false → s.fabRoom p = false →
    ∃ t r, t = s.podAsk p k sec ∧ t = { s with fab := { s.fab with waiting := s.fab.waiting ++ [r] } }
      ∧ r.dst = p ∧ r.op = .pod k sec)
  ∧ ∀ (p sec : Nat) (r : FReq) (s : State), ∃ t, t = s.podOver sec (· == p)
      ∧ t = { s with fab := { s.fab with unacked := t.fab.unacked, waiting := t.fab.waiting } }
      ∧ (r ∈ t.fab.unacked ↔ r ∈ s.fab.unacked ∧ ¬(r.dst = p ∧ ∃ k, r.op = .pod k sec))
      ∧ (r ∈ t.fab.waiting ↔ r ∈ s.fab.waiting ∧ ¬(r.dst = p ∧ ∃ k, r.op = .pod k sec))

/-- A request with no entry: where the Seam Table lets the requester's cell own the sector, or ownership is what was asked
for, the entry is X with that owner and every copy here is given up; else the requester shares the largest free region.
The grant carries the sector as it stood (16 R414, R423). -/
def PodGrants : Prop :=
  ∀ (src sec : Nat) (s : State), AtHome s src sec → s.podFind sec = none → Rising s.cores →
    (∀ c, Rising (s.core c).l1) → s.podHasRoom sec 1 = true → s.llcRoom (sec / 2) = true →
    (s.seamAllows sec src = true → ∀ i k, (i, k) ∈ [(Instr.rdS src sec, PMsg.grantE), (.rdX src sec, .grantM),
        (.podUpg src sec, .grantM)] →
      ∃ t, exec i s = .next t ∧ t.out = s.out ++ [.home src k sec (s.cohRead sec)]
        ∧ t.podFind sec = some (sec, { PodE.fresh with st := .x, owner := src })
        ∧ (t.dirE sec).st = .i ∧ (t.dirE sec).trans = .stable ∧ (∀ c, t.l1? c sec = (s.l1? c sec).bind fun e =>
            (State.gone (State.downL1 e.st)).map fun st => { e with st := st })
        ∧ t.mem = s.mem ∧ t.net = s.net ∧ t.blocks = s.blocks)
    ∧ (s.seamAllows sec src = false → ∃ t, exec (.rdS src sec) s = .next t
        ∧ t.out = s.out ++ [.home src .grantS sec (s.cohRead sec)]
        ∧ t.podFind sec = some (regionBase (s.podRoom sec 10) sec,
            s.podRecord { PodE.fresh with st := .s, sz := s.podRoom sec 10 } src)
        ∧ (t.dirE sec).trans = .stable ∧ (∀ c, t.l1? c sec = (s.l1? c sec).map fun e =>
            { e with st := State.downL1 e.st })
        ∧ t.mem = s.mem ∧ t.net = s.net ∧ t.blocks = s.blocks)

/-- A closed home, or one that knows no slot for the requester, refuses with PEER_DOWN; a request for ownership that the
Seam Table does not allow is refused with SEAM_DENY (16 R409, R419). -/
def PodRefusals : Prop :=
  (∀ (src sec : Nat) (i : Instr) (s : State), i ∈ [Instr.rdS src sec, .rdX src sec, .podUpg src sec] →
    s.homed sec = true → State.hostSec sec = false → s.hom.ctl.getLsbD 0 = false ∨ s.cellOf src = none →
    exec i s = .next { s with out := s.out ++ [.home src (.refuse 0x1C) sec SecVal.zero] })
  ∧ ∀ (src sec : Nat) (i : Instr) (s : State), i ∈ [Instr.rdX src sec, .podUpg src sec] → AtHome s src sec →
    s.seamAllows sec src = false →
    ∃ t, exec i s = .next t ∧ t = { s with out := t.out, counters := t.counters }
      ∧ t.out = s.out ++ [.home src (.refuse 0x1A) sec SecVal.zero]

/-- A read of a sector that another package owns is forwarded to the owner; its data is written at home and acknowledged, and
the reader is granted S, the owner staying in O where its data was dirty, else sharing (16 R423). -/
def PodForwards : Prop :=
  (∀ (src sec : Nat) (s : State) (e : PodE), AtHome s src sec → s.podFind sec = some (sec, e) → e.st = .x →
    e.trans = .stable → e.hown = false → e.sz = 0 → e.owner ≠ src → e.owner ≠ 1024 → s.podHasRoom sec 0 = true →
    s.podFull sec = false → s.llcRoom (sec / 2) = true →
    ∃ t, exec (.rdS src sec) s = .next t ∧ t.out = (s.podAsk e.owner .fwdS sec).out
      ∧ t.fab = (s.podAsk e.owner .fwdS sec).fab
      ∧ t.podFind sec = some (sec, { e with
          trans := .pF, req := some ⟨.pkg src, .rdS⟩, acks := [e.owner], fwd := true, dirty := false, started := s.now
          touch := true, dl := 1400 * max 1 (s.hom.tmo.toNat % 65536) })
      ∧ (t.dirE sec).trans = .bH ∧ t.mem = s.mem ∧ t.cores = s.cores ∧ t.net = s.net)
  ∧ ∀ (src p sec : Nat) (v : SecVal) (dirty : Bool) (s : State) (e : PodE), s.podFind sec = some (sec, e) → e.sz = 0 →
    e.st = .x → e.trans = .pF → e.hown = false → e.owner = src → e.acks = [src] → e.req = some ⟨.pkg p, .rdS⟩ →
    e.held = none → s.hom.seamBusy = none → Rising s.cores → (∀ c, s.l1? c sec = none) → (∀ m ∈ s.net, m.sec ≠ sec) →
    (s.dirE sec).held = none → (s.dirE sec).trans = .bH → (s.dirE sec).req = some (.podS p) → (s.dirE sec).st = .i →
    s.llcRoom (sec / 2) = true → s.conflicts sec false none = [] →
    ∃ t, exec (.podFwdData src sec v dirty) s = .next t
      ∧ t.out = s.out ++ [.home src .dataAck sec SecVal.zero, .home p .grantS sec v]
      ∧ (t.dirE sec).val = v ∧ (t.dirE sec).lv = true ∧ (t.dirE sec).trans = .stable
      ∧ (t.podFind sec).map (fun q => (q.1, q.2.st, q.2.trans, q.2.req, q.2.acks))
          = some (sec, if dirty then .o else .s, .stable, none, [])
      ∧ ∀ q c, t.podFind sec = some q → s.cellOf p = some c → c < 64 → s.podRecords q.2 p = true

/-- The entries of a set other than one sector's own are old enough for b, one of them, to be the least recently used of
those that are stable. -/
def LeastRecent (s : State) (sec b : Nat) (e : PodE) : Prop :=
  (b, e) ∈ s.podEntries sec ∧ e.trans = .stable
  ∧ ∀ c f, (c, f) ∈ s.podEntries sec → f.trans = .stable → (c, f) ≠ (b, e) → getD 0 s.repl.pod b < getD 0 s.repl.pod c

/-- The invalidations of an eviction, to each sharer for each sector of a region, the host among them as 1024. -/
def evicted (s : State) (b sz : Nat) (sh : List Nat) : State :=
  ((List.range (2 ^ sz)).flatMap fun k => sh.map fun p => (p, b + k)).foldl (fun (s : State) (p, k) =>
    if p = 1024 then { s with out := s.out ++ [.backInv k] } else s.podAsk p .inv k) s

/-- A request for an entry in a set with none free, where no entry of the set is in a transaction, evicts the least recently
used: INV for each sector of its region to each sharer, or FWD_X to its owner; the request waits, and the answers of an
eviction free the entry, an owner's dirty data being written at home (16 R413, R418). -/
def PodEvicts : Prop :=
  (∀ (src sec b : Nat) (s : State) (e : PodE), AtHome s src sec → s.podFind sec = none → s.podHasRoom sec 1 = false →
    (∀ p ∈ s.podEntries sec, p.2.trans = .stable ∧ p.2.req = none) → LeastRecent s sec b e →
    e.st = .s → s.podSharers e .home ≠ [] → s.llcRoom (sec / 2) = true →
    ∃ t, exec (.rdS src sec) s = .next t
      ∧ t.out = (evicted s b e.sz (s.podSharers e .home)).out ∧ t.fab = (evicted s b e.sz (s.podSharers e .home)).fab
      ∧ (t.dirE sec).trans = .bH ∧ (t.dirE sec).req = some (.podS src) ∧ t.mem = s.mem ∧ t.cores = s.cores
      ∧ t.blocks = s.blocks ∧ ∃ f, find? b t.hom.pod = some f ∧ f.trans ≠ .stable ∧ f.req = some ⟨.home, .evict⟩
          ∧ f.acks = (List.range (2 ^ e.sz)).flatMap fun _ => s.podSharers e .home)
  ∧ (∀ (src sec b : Nat) (s : State) (e : PodE), AtHome s src sec → s.podFind sec = none → s.podHasRoom sec 1 = false →
    (∀ p ∈ s.podEntries sec, p.2.trans = .stable ∧ p.2.req = none) → LeastRecent s sec b e →
    e.st = .x → e.hown = false → e.owner ≠ 1024 → s.podSharers e .home = [] → s.llcRoom (sec / 2) = true →
    ∃ t f, exec (.rdS src sec) s = .next t ∧ t.out = (s.podAsk e.owner .fwdX b).out ∧ t.fab = (s.podAsk e.owner .fwdX b).fab
      ∧ find? b t.hom.pod = some f ∧ f = { e with
          trans := .pF, req := some ⟨.home, .evict⟩, acks := [e.owner], fwd := true, dirty := false, started := s.now
          dl := 1400 * max 1 (s.hom.tmo.toNat % 65536) })
  ∧ ∀ (src sec : Nat) (s : State) (b : Nat) (e : PodE), s.podFind sec = some (b, e) → e.trans ≠ .stable → e.acks = [src] →
    e.req = some ⟨.home, .evict⟩ → e.held = none → s.hom.seamBusy = none →
    exec (.podInvAck src sec) s = .next { s with fab := (s.podOver sec (· == src)).fab, hom := { s.hom with pod := del b (put b
      { e with acks := [], mv := if s.cellOf src = s.cellOf s.self then e.mv &&& ~~~(1#16 <<< ((s.slotOf src).getD 0)) else e.mv }
      s.hom.pod) } }

/-- An answer without data takes its sender from those awaited; an acknowledgement of a package of the own cell also clears
its mark. With more answers awaited nothing else happens (16 R423, R424). -/
def PodAnswers : Prop :=
  (∀ (src q sec : Nat) (i : Instr) (s : State) (b : Nat) (e : PodE), i ∈ [Instr.empty src sec, .podInvAck src sec] →
    s.podFind sec = some (b, e) → e.trans ≠ .stable → q ∈ e.acks → q ≠ src →
    s.hom.seamBusy = none →
    ∃ t, exec i s = .next t ∧ t = (s.podOver sec (· == src)).podPut b { e with
        acks := e.acks.erase src
        mv := if s.cellOf src = s.cellOf s.self then e.mv &&& ~~~(1#16 <<< ((s.slotOf src).getD 0)) else e.mv })
  ∧ ∀ (q sec : Nat) (s : State) (b : Nat) (e : PodE), s.podFind sec = some (b, e) →
    e.trans ≠ .stable → 1024 ∈ e.acks → q ∈ e.acks → q ≠ 1024 → e.hown = false → s.hom.seamBusy = none →
    ∃ t, exec (.hostResponse sec none) s = .next t ∧ t = s.podPut b { e with
        acks := e.acks.erase 1024, host := false }

/-- DROP and WB of an owner: the entry is gone; a WB's data is written at home and acknowledged. A WB at a transient entry is
held (16 R423, R424). -/
def PodGivesUp : Prop :=
  (∀ (src sec : Nat) (s : State) (b : Nat) (e : PodE), s.hom.ctl.getLsbD 0 = true → s.cellDown src = false →
    s.podFind sec = some (b, e) → e.trans = .stable → e.st = .x → e.hown = false → e.owner = src →
    exec (.podDrop src sec) s = .next { s with hom := { s.hom with pod := del b s.hom.pod } })
  ∧ (∀ (src sec : Nat) (v : SecVal) (s : State) (b : Nat) (e : PodE), s.hom.ctl.getLsbD 0 = true →
    s.homed sec = true → State.hostSec sec = false → (s.cellOf src).isSome = true → s.cellDown src = false →
    s.podFind sec = some (b, e) → e.trans = .stable → e.st = .x → e.hown = false → e.owner = src →
    s.hom.seamBusy = none → s.llcRoom (sec / 2) = true →
    ∃ t, exec (.wb src sec v) s = .next t ∧ t = { s with
        dir := t.dir, repl := t.repl, hom := { s.hom with pod := del b s.hom.pod }
        out := s.out ++ [.home src .wbAck sec SecVal.zero] }
      ∧ t.dirE sec = { s.dirE sec with val := v, lv := true, ld := true })
  ∧ ∀ (src sec : Nat) (v : SecVal) (s : State) (b : Nat) (e : PodE), s.hom.ctl.getLsbD 0 = true →
    s.homed sec = true → State.hostSec sec = false → (s.cellOf src).isSome = true → s.cellDown src = false →
    s.podFind sec = some (b, e) → e.trans ≠ .stable → s.llcRoom (sec / 2) = true →
    ∃ t, exec (.wb src sec v) s = .next t
      ∧ t = { s with repl := t.repl, hom := { s.hom with pod := put b { e with held := some (src, v) } s.hom.pod } }

/-- A directory entry at which nothing is in progress. -/
def settled (e : DirE) : DirE := { e with trans := .stable, req := none, grant := none, acks := 0, keeps := false, held := none }

/-- A far sector whose home recalls it: without a copy here the answer is EMPTY, or INV_ACK to INV. With a copy in the LLC
alone FWD_X and INV leave nothing, FWD_S and FWD_DG leave S or O, and the data goes with whether it was dirty
(16 R422, R424; 10 R288). -/
def Recalls : Prop :=
  (∀ (home sec : Nat) (i : Instr) (s : State), i ∈ [Instr.fwdS home sec, .fwdX home sec, .fwdDg home sec,
      .podInv home sec] →
    s.homed sec = false → secHome sec = home → s.mnd.walks = [] → (s.dirE sec).trans = .stable →
    (s.dirE sec).fifo = [] → (s.dirE sec).held = none → (s.dirE sec).pkgst = .i → find? sec s.fab.kept = none →
    s.fab.unacked = [] → s.fab.waiting = [] →
    exec i s = .next { s with out := s.out ++ [.home home (if i = .podInv home sec then .invAck else .empty) sec
      SecVal.zero] })
  ∧ ∀ (home sec : Nat) (s : State) (e : DirE), s.homed sec = false → secHome sec = home → s.mnd.walks = [] →
    s.dirE sec = e → e.trans = .stable → e.fifo = [] → e.held = none → e.pkgst ≠ .i → e.st = .i → e.lv = true →
    e.clv = 0 → e.owner = 0 → Rising s.cores → (∀ c, s.l1? c sec = none) → (∀ m ∈ s.net, m.sec ≠ sec) → s.conflicts sec true none = [] →
    (∃ t, exec (.fwdS home sec) s = .next t ∧ t.out = s.out ++ [.home home (.fwdData e.ld) sec e.val]
      ∧ t.dirE sec = { settled e with pkgst := if e.ld then .o else .s } ∧ find? sec t.fab.kept = some e.val ∧ t.mem = s.mem)
    ∧ (∃ t, exec (.fwdDg home sec) s = .next t ∧ t.out = s.out ++ [.home home (.fwdData e.ld) sec e.val]
      ∧ t.dirE sec = { settled e with pkgst := .s, ld := false } ∧ find? sec t.fab.kept = some e.val ∧ t.mem = s.mem)
    ∧ (Rising s.dir → ∃ t, exec (.fwdX home sec) s = .next t ∧ t.out = s.out ++ [.home home (.fwdData e.ld) sec e.val]
      ∧ t.dirE sec = { settled e with lv := false, ld := false, pkgst := .i, val := SecVal.zero }
      ∧ find? sec t.fab.kept = some e.val ∧ t.mem = s.mem)
    ∧ (Rising s.dir → ∃ t, exec (.podInv home sec) s = .next t ∧ t.out = s.out ++ [.home home .invAck sec SecVal.zero]
      ∧ t.dirE sec = { settled e with lv := false, ld := false, pkgst := .i, val := SecVal.zero } ∧ t.mem = s.mem)

/-- A grant that answers this package's request gives its slice the data and the copy that the message names; GRANT_U gives
ownership without data (16 R423). A REFUSE ends the request with its fault. -/
def GrantsArrive : Prop :=
  (∀ (home sec : Nat) (v : SecVal) (i : Instr) (p : PkgSt) (s : State) (r : FReq),
    (i, p) ∈ [(Instr.grantS home sec v, PkgSt.s), (.grantE home sec v, .e), (.grantM home sec v, .m)] →
    s.sectorReq home sec = some r →
    ∃ t, exec i s = .next t
      ∧ t = { s with dir := t.dir, fab := { s.fab with unacked := t.fab.unacked } }
      ∧ t.dirE sec = { s.dirE sec with val := v, lv := true, ld := false, pkgst := p }
      ∧ r ∉ t.fab.unacked)
  ∧ (∀ (home sec : Nat) (s : State) (r : FReq), s.sectorReq home sec = some r →
    ∃ t, exec (.grantU home sec) s = .next t
      ∧ t = { s with dir := t.dir, fab := { s.fab with unacked := t.fab.unacked } }
      ∧ t.dirE sec = { s.dirE sec with pkgst := .m } ∧ r ∉ t.fab.unacked)
  ∧ ∀ (home sec c : Nat) (code : BitVec 8) (s : State) (r : FReq) (e : L1E) (d : DirE), s.sectorReq home sec = some r →
    s.dirE sec = d → d.req = some (.gets c) → d.held = none → d.st = .s → s.l1? c sec = some e → e.st = .isd →
    find? sec (s.core c).pend = none → s.accs = [] → Rising s.cores → Rising (s.core c).l1 →
    ∃ t, exec (.refuse home sec code) s = .next t ∧ t.l1? c sec = none
      ∧ t.dirE sec = { d with trans := .stable, req := none, grant := none, acks := 0, keeps := false }
      ∧ t.mem = s.mem ∧ t.net = s.net ∧ r ∉ t.fab.unacked

/-- Acknowledgements at a holder: what a WB or a forward's answer had kept is released; POISON_NOTICE marks every copy of the
package and is acknowledged (16 R424, R425). -/
def HolderAcks : Prop :=
  (∀ (home sec : Nat) (s : State), ∃ t, exec (.podWbAck home sec) s = .next t
    ∧ t = { s with fab := { s.fab with unacked := t.fab.unacked } }
    ∧ ∀ r, r ∈ t.fab.unacked ↔ r ∈ s.fab.unacked ∧ ¬(r.dst = home ∧ ∃ v, r.op = .wb sec v))
  ∧ (∀ (sec : Nat) (s : State), exec (.dataAck (secHome sec) sec) s
    = .next { s with fab := { s.fab with kept := del sec s.fab.kept } })
  ∧ ∀ (sec : Nat) (s : State), s.homed sec = false → (s.dirE sec).pkgst ≠ .i →
    ∃ t, exec (.poisonNotice (secHome sec) sec) s = .next t
      ∧ t = { s with
        cores := t.cores, net := t.net, dir := t.dir
        out := s.out ++ [.home (secHome sec) .invAck sec SecVal.zero] }
      ∧ ∀ c, t.l1? c sec = (s.l1? c sec).map fun e => { e with val := { e.val with psn := true } }

/-- A transaction whose answers have not come by its deadline is refused to its requester with FABRIC_TIMEOUT, its owner
staying recorded (16 R426, R427). -/
def HomeTimesOut : Prop :=
  ∀ (sec p : Nat) (k : PKind) (s : State) (b : Nat) (e : PodE), s.podFind sec = some (b, e) →
    e.trans ≠ .stable → e.started + e.dl ≤ s.now → e.req = some ⟨.pkg p, k⟩ → e.st = .x → e.hown = false →
    e.acks = [e.owner] → s.cellDown e.owner = false → e.held = none → s.hom.seamBusy = none →
    ∃ t, exec (.homeDeadlineExpiry sec) s = .next t
      ∧ t = { s with
        dir := t.dir, hom := { s.hom with pod := t.hom.pod }, counters := t.counters
        fab := { s.fab with unacked := t.fab.unacked, waiting := t.fab.waiting }
        out := s.out ++ [.home p (.refuse 0x1B) sec SecVal.zero] }
      ∧ (∀ r, r ∈ t.fab.unacked ↔ r ∈ s.fab.unacked ∧ ¬∃ k i, i < 2 ^ e.sz ∧ r.op = .pod k (b + i))
      ∧ t.hom.pod = put b { e with trans := .stable, req := none, acks := [], fwd := false, dirty := false } s.hom.pod

/-- The merge sweep joins two sharer entries of sibling regions that nothing has touched since the last one, and marks every
entry as untouched (16 R416). -/
def SweepMerges : Prop :=
  ∀ (b : Nat) (s : State) (e f : PodE), s.hom.merge.toNat % 65536 ≠ 0 →
    s.hom.lastSweep + 1400 * (s.hom.merge.toNat % 65536) ≤ s.now → s.hom.pod = [(b, e), (b + 2 ^ e.sz, f)] →
    e.sz < 10 → f.sz = e.sz → b % 2 ^ (e.sz + 1) = 0 → e.st = .s → f.st = .s → e.trans = .stable → f.trans = .stable →
    e.touch = false → f.touch = false →
    ∃ t, exec .mergeSweep s = .next t ∧ t = { s with hom := t.hom, counters := t.counters }
      ∧ t.hom = { s.hom with lastSweep := s.now, pod := [(b, { e with
          sz := e.sz + 1, mv := e.mv ||| f.mv, cv := e.cv ||| f.cv, host := e.host || f.host })] }

/-- The home agent opens once its own package is in a slot, and is an error before; a slot of the cell table is written only
while it is closed, a package in one slot at most; the Seam Table's mask of a region is read and written through its
window (16 R408, R409, R420, R421). -/
def HomeRegisters : Prop :=
  (∀ (v : Word) (s : State), v.getLsbD 0 = true → s.hom.ctl.getLsbD 0 = false → s.cellOf s.self = none →
    exec (.homCtlWrite v) s = .next { s with hom := { s.hom with err := true } })
  ∧ (∀ (v : Word) (s : State), v.getLsbD 0 = false ∨ s.hom.ctl.getLsbD 0 = true ∨ s.cellOf s.self ≠ none →
    exec (.homCtlWrite v) s = .next { s with
      hom := { s.hom with ctl := if v.getLsbD 0 then 1 else 0, err := s.hom.err && !v.getLsbD 1 }
      mnd := { s.mnd with seen := if v.getLsbD 0 then s.mnd.seen else [] } })
  ∧ (∀ (v : Word) (s : State), v.getLsbD 31 = false →
    exec (.homCellSelect v) s = .next { s with hom := { s.hom with cellSel := v &&& 0x3FF } })
  ∧ (∀ (v : Word) (s : State), v.getLsbD 31 = true → s.hom.ctl.getLsbD 0 = true →
    exec (.homCellStore v) s = .next { s with hom := { s.hom with err := true } })
  ∧ (∀ (v : Word) (s : State), v.getLsbD 31 = true → s.hom.ctl.getLsbD 0 = false → v.getLsbD 20 = true →
    (∀ j x, (j, x) ∈ s.hom.cells → x = v.toNat / 1024 % 1024 + 1024 → j = 16 * (v.toNat % 64) + v.toNat / 64 % 16) →
    ∃ t, exec (.homCellStore v) s = .next t ∧ t = { s with hom := { s.hom with cells := t.hom.cells, cellSel := v &&& 0x3FF } }
      ∧ find? (16 * (v.toNat % 64) + v.toNat / 64 % 16) t.hom.cells = some (v.toNat / 1024 % 1024 + 1024))
  ∧ (∀ (v : Word) (s : State), v.getLsbD 31 = true → v.getLsbD 30 = true → s.seamPending = false →
    exec (.seamRead v) s = .next { s with hom := { s.hom with
      seamIdx := v &&& 0x4003FFFF
      seamLo := (getD 0 s.hom.seam (v.toNat % 2 ^ 18)).extractLsb' 0 32
      seamHi := (getD 0 s.hom.seam (v.toNat % 2 ^ 18)).extractLsb' 32 32 } })
  ∧ ∀ (v : Word) (s : State), v.getLsbD 31 = true → v.getLsbD 30 = false → s.hom.pod = [] → s.hom.seamBusy = none →
    exec (.seamWrite v) s = .next { s with hom := { s.hom with
      seamIdx := v &&& 0x4003FFFF
      seam := putD 0 (v.toNat % 2 ^ 18) (s.hom.seamHi ++ s.hom.seamLo) s.hom.seam } }

end Sys2Proof.Claim

/-- The home's rows for requests and answers of other packages. -/
def Obligations.HomeRows : Prop :=
  Claim.HomeAsks ∧ Claim.PodGrants ∧ Claim.PodRefusals ∧ Claim.PodForwards ∧ Claim.PodEvicts ∧ Claim.PodAnswers ∧ Claim.PodGivesUp ∧ Claim.HomeTimesOut

/-- What a package that holds or asks for far sectors does on the home's messages, and the home's own tables. -/
def Obligations.HolderRows : Prop :=
  Claim.Recalls ∧ Claim.GrantsArrive ∧ Claim.HolderAcks ∧ Claim.SweepMerges ∧ Claim.HomeRegisters

/-! ### The Mending Engine and the machine check -/

namespace Sys2Proof.Claim

/-- A package that holds no work, whose record queue takes no record, and that knows of no other live package beside those of
cell c, which is not its own and not yet declared. -/
def Alone (s : State) (c : Nat) : Prop :=
  s.cores = [] ∧ s.blocks = [] ∧ s.accs = [] ∧ s.dir = [] ∧ s.net = [] ∧ s.fab.unacked = [] ∧ s.fab.waiting = []
  ∧ s.fab.bulks = []
  ∧ s.fab.dups = [] ∧ s.pkg.stopped = false ∧ c < 64 ∧ s.hom.down.getLsbD c = false ∧ s.cellOf s.self ≠ some c
  ∧ (∀ k v, (k, v) ∈ s.hom.cells → v < 1024 ∨ v = 1024 + s.self ∨ s.hom.down.getLsbD (k / 16) = true ∨ k / 16 = c)
  ∧ s.ioqShape (s.mnd.ctl.toNat / 4 % 1024) = none

/-- The declaration of a cell: its DOWN flag, the epoch, and the walk that visits every pod directory entry; m gives the
rest of the engine's state as the event leaves it. -/
def Declared (s t : State) (c cause pkg : Nat) (m : Mend) (out : List Out) : Prop :=
  t = { s with
    hom := { s.hom with down := s.hom.down ||| (1#64 <<< c) }
    mnd := { m with
      down := s.mnd.down ||| (1#64 <<< c)
      epoch := (s.mnd.epoch + 1) % 2 ^ 16
      walks := (s.mnd.walks.filter fun (w : Walk) => w.cell != c)
        ++ [⟨c, s.hom.pod.map (·.1), [], cause, pkg, (s.mnd.epoch + 1) % 2 ^ 16, 0⟩]
      busy := true }
    out := out
    counters := t.counters }

/-- A cell is declared down by the silence of a package of it, by a notice or a beacon of another package, or by the host
(17 R432, R433). -/
def DownDeclared : Prop :=
  (∀ (pkg c t0 : Nat) (s : State), Alone s c → find? pkg s.mnd.seen = some t0 → s.cellOf pkg = some c →
    s.watches = true → t0 + s.beaconLimit ≤ s.now →
    ∃ t, exec (.beaconSilence pkg) s = .next t ∧ Declared s t c 0 pkg s.mnd s.out)
  ∧ (∀ (pkg c : Nat) (s : State), Alone s c → s.cellDown pkg = false →
    ∃ t, exec (.downNotice pkg (1#64 <<< c)) s = .next t ∧ Declared s t c 1 pkg s.mnd (s.out ++ [.noticeAck pkg]))
  ∧ (∀ (pkg c : Nat) (s : State), Alone s c → s.cellDown pkg = false →
    ∃ t, exec (.beacon pkg (1#64 <<< c)) s = .next t ∧ Declared s t c 1 pkg
      (if s.watches then { s.mnd with seen := put pkg s.now s.mnd.seen } else s.mnd) s.out)
  ∧ ∀ (c : Nat) (s : State) (v : Word), Alone s c → s.mnd.ctl = 1 → v = (0x40000001#32 ||| BitVec.ofNat 32 (2 ^ 12 * c)) →
    s.ioqShape 0 = none →
    ∃ t, exec (.mndDeclare v) s = .next t ∧ Declared s t c 2 s.self { s.mnd with ctl := v &&& 0x3FFFD } s.out

/-- A beacon that tells of no cell not yet down only times its sender; one is sent to every other package of the cell table
that a station reaches each period, by its stations in rotation (17 R431, R432). -/
def BeaconsTimed : Prop :=
  (∀ (pkg : Nat) (down : DWord) (s : State), s.pkg.stopped = false → s.cellDown pkg = false →
    (∀ c, down.getLsbD c = true → s.hom.down.getLsbD c = true) → s.watches = true →
    exec (.beacon pkg down) s = .next { s with mnd := { s.mnd with seen := put pkg s.now s.mnd.seen } })
  ∧ ∀ (s : State) (ps : List Nat) (reach : Nat → List Nat), s.watches = true →
    s.mnd.lastSent + s.beaconPeriod ≤ s.now →
    (ps = s.hom.cells.filterMap fun q => if 1024 ≤ q.2 ∧ q.2 ≠ 1024 + s.self then some (q.2 - 1024) else none) →
    ps.Nodup → (∀ p, reach p = getD [] s.fab.reach p) → Rising s.mnd.rot →
    ∃ t, exec .beaconSend s = .next t
      ∧ t = { s with
          mnd := { s.mnd with lastSent := s.now, rot := t.mnd.rot }, out := t.out, counters := t.counters }
      ∧ t.out = s.out ++ ps.filterMap (fun p => (reach p)[getD 0 s.mnd.rot p % (reach p).length]?.map
          fun k => .beacon p k s.mnd.down)
      ∧ ∀ p, getD 0 t.mnd.rot p = getD 0 s.mnd.rot p + if p ∈ ps ∧ reach p ≠ [] then 1 else 0

/-- REJOIN clears the DOWN flag of a cell whose walk has ended, and its packages are no longer timed; DECLARE of a cell that
is down, and REJOIN of one that is not, are errors (17 R432, R440). -/
def CellsRejoin : Prop :=
  (∀ (c : Nat) (v : Word) (s : State), c < 64 → v = (0x80000001#32 ||| BitVec.ofNat 32 (2 ^ 12 * c)) →
    s.hom.down.getLsbD c = true → s.mnd.busy = false → s.mnd.ctl = 1 →
    exec (.mndRejoin v) s = .next { s with
      hom := { s.hom with down := s.hom.down &&& ~~~(1#64 <<< c) }
      mnd := { s.mnd with
        ctl := v &&& 0x3FFFD
        down := s.mnd.down &&& ~~~(1#64 <<< c)
        seen := s.mnd.seen.filter fun q => !(s.membersOf c).contains q.1 } })
  ∧ ∀ (c : Nat) (s : State), c < 64 → s.mnd.ctl = 1 →
    (s.hom.down.getLsbD c = true →
      exec (.mndDeclare (0x40000001#32 ||| BitVec.ofNat 32 (2 ^ 12 * c))) s = .next { s with mnd := { s.mnd with
        ctl := ((0x40000001#32 ||| BitVec.ofNat 32 (2 ^ 12 * c)) &&& 0x3FFFD) ||| 2 } })
    ∧ (s.hom.down.getLsbD c = false →
      exec (.mndRejoin (0x80000001#32 ||| BitVec.ofNat 32 (2 ^ 12 * c))) s = .next { s with mnd := { s.mnd with
        ctl := ((0x80000001#32 ||| BitVec.ofNat 32 (2 ^ 12 * c)) &&& 0x3FFFD) ||| 2 } })

/-- The walk of a dead cell: an entry in X that a package of the cell owns is freed and its sector poisoned; a line homed
there, held by no L1, is discarded with its data, and one held by L1s is recalled from them first; with nothing left to visit every walk ends (17 R436 to R438, R441). -/
def WalkRows : Prop :=
  (∀ (c k : Nat) (s : State) (w : Walk) (e : PodE), s.mnd.walks = [w] → w.cell = c → k ∈ w.entries →
    s.podFind k = some (k, e) → e.trans = .stable → e.st = .x → e.hown = false → e.owner ≠ 1024 → e.held = none →
    s.cellOf e.owner = some c → (s.dirE k).lv = false → k ∉ s.hom.poison → s.hom.seamBusy = none →
    Rising s.hom.pod →
    ∃ t, exec (.walkEntryVisit c k) s = .next t
      ∧ t = { s with
          hom := { s.hom with pod := del k s.hom.pod, poison := s.hom.poison ++ [k] }
          mnd := { s.mnd with walks := [{ w with entries := w.entries.filter (· != k), poisoned := w.poisoned + 1 }] }
          counters := t.counters })
  ∧ (∀ (c sec : Nat) (s : State) (w : Walk) (e : DirE), s.mnd.walks = [w] → w.cell = c → sec ∈ w.lines → s.dirE sec = e →
    e.trans = .stable → Rising s.dir →
    (e.st = .i ∨ e.st = .s ∧ e.clv = 0 →
      ∃ t, exec (.walkLineVisit c sec) s = .next t
        ∧ t = { s with dir := t.dir, mnd := { s.mnd with walks := [{ w with lines := w.lines.filter (· != sec) }] } }
        ∧ (∀ k, k ≠ sec → t.dirE k = s.dirE k)
        ∧ t.dirE sec = { e with
            lv := false, ld := false, pkgst := .i, val := SecVal.zero, st := .i, clv := 0, owner := 0 })
    ∧ (e.st = .s → e.clv ≠ 0 →
      ∃ t cs, exec (.walkLineVisit c sec) s = .next t
        ∧ t = { s with dir := t.dir, net := t.net, flits := t.flits, pkts := t.pkts, counters := t.counters }
        ∧ cs = (List.range 64).filter (e.clv.getLsbD ·)
        ∧ t.net = s.net ++ cs.map (fun cl => ⟨.inv, cl, sec, SecVal.zero, 0, 0, .core cl⟩)
        ∧ (∀ k, k ≠ sec → t.dirE k = s.dirE k)
        ∧ t.dirE sec = { e with trans := .bI, req := some (.recall .lost), acks := cs.length }))
  ∧ ∀ (s : State), s.mnd.busy = true → (∀ w ∈ s.mnd.walks, w.entries = [] ∧ w.lines = []) →
    s.ioqShape (s.mnd.ctl.toNat / 4 % 1024) = none →
    ∃ t, exec .walkEnd s = .next t
      ∧ t = { s with mnd := { s.mnd with busy := false, walks := [] }, counters := t.counters }

/-- The first machine check stops the package: MGT_MCHK takes its cause and the mark that it holds one, the board
controller learns of it, and one DOWN_NOTICE names the own cell beside those already down (22 R545, R547). An error in
control state is also counted and located among those that ECC cannot correct (22 R545). -/
def MachineCheckStops : Prop :=
  ∀ (k : MchkCause) (s : State), s.pkg.mchk.getLsbD 2 = false →
    exec (.machineCheck [k]) s = .next { s with
      pkg := match k with
        | .control unit inst => { s.pkg with
            mchk := BitVec.ofNat 32 (mchkCode k + 4), stopped := true
            eccUe := if s.pkg.eccUe = -1 then -1 else s.pkg.eccUe + 1
            eccLoc := BitVec.ofNat 32 (unit.toNat + 16 * inst.toNat) }
        | _ => { s.pkg with mchk := BitVec.ofNat 32 (mchkCode k + 4), stopped := true }
      out := s.out ++ [.mchk (BitVec.ofNat 8 (mchkCode k)), .notice (match s.cellOf s.self with
        | some c => s.hom.down ||| (1#64 <<< c)
        | none => s.hom.down)] }

/-! ### The translation engine -/

/-- A cluster whose walk cache holds nothing walks as the tables in memory have it; a walk whose every step the cache holds
reads none of the upper levels (18 R446, R451). -/
def WalksTables : Prop :=
  (∀ (cl asid va : Nat) (s : State), getD [] s.xlt.nodes cl = [] → (s.walkBy cl asid va).1 = s.walk asid va)
  ∧ ∀ (cl asid va node : Nat) (s : State), gpaHome s.xlt.rtbase.toNat = s.self →
    bitOf (s.homeNum (gpaOff s.xlt.rtbase.toNat + 8 * asid) 8) 0 = true →
    gpaHome (pteAddr (s.homeNum (gpaOff s.xlt.rtbase.toNat + 8 * asid) 8)) = s.self →
    (getD [] s.xlt.nodes cl).find? (fun n => n.asid == asid && n.lvl == 4 && n.idx == va / pageSize 4)
      = some ⟨asid, 4, va / pageSize 4, node⟩ →
    (s.walkBy cl asid va).1 = (s.walkNodeBy (getD [] s.xlt.nodes cl) asid va 3 node).1

/-- A set of a cluster's TLB in which a leaf finds an entry: it has fewer than sixteen, or one that is not pinned. -/
def TlbRoom (s : State) (cl : Nat) (e : Tlb) : Prop :=
  ((getD [] s.xlt.tlb cl).countP fun x => x.sameSet e) < 16
  ∨ (((getD [] s.xlt.tlb cl).countP fun x => x.sameSet e) = 16
      ∧ ∃ x ∈ getD [] s.xlt.tlb cl, x.sameSet e = true ∧ x.pins = 0)

/-- A leaf new to a full set takes the place of the set's least recently used entry that is not pinned, the last of the list;
every other entry stays (18 R450). -/
def TlbReplaces : Prop :=
  ∀ (cl : Nat) (s : State) (e v : Tlb), (getD [] s.xlt.tlb cl).Nodup →
    (∀ x ∈ getD [] s.xlt.tlb cl, ¬(x.asid = e.asid ∧ x.vpage = e.vpage ∧ x.size = e.size)) →
    ((getD [] s.xlt.tlb cl).countP fun x => x.sameSet e) = 16 →
    (getD [] s.xlt.tlb cl).reverse.find? (fun x => x.sameSet e && x.pins == 0) = some v →
    getD [] (s.tlbFill cl e).xlt.tlb cl = { e with pins := 0 } :: (getD [] s.xlt.tlb cl).filter (· != v)

/-- A walk for a page installs its leaf in the cluster's TLB, with D where the walk was for a permitted write or the entry
has it, in place of an older copy, whose pins it keeps; where A and D stand already memory is not written. It waits while
another package or the host holds copies of what it reads
(18 R445 to R450). -/
def WalkInstalls : Prop :=
  (∀ (cl asid va : Nat) (write : Bool) (s t : State),
    s.walkReady cl asid va (if write then Want.store (asid == 0) else Want.load (asid == 0)) = (t, false) →
    exec (.tableWalk cl asid va write) s = .next t)
  ∧ ∀ (cl asid va : Nat) (write : Bool) (s s1 : State) (ea lvl p : Nat) (d : Bool),
    s.walkBy cl asid va = (some (ea, lvl, p), s1) → TlbRoom s cl (tlbOf asid va lvl p) →
    s.leafBad (tlbOf asid va lvl p) = false →
    s.walkReady cl asid va (if write then Want.store (asid == 0) else Want.load (asid == 0)) = (s, true) →
    d = (bitOf p 11 || (write && (tlbOf asid va lvl p).w && (!(tlbOf asid va lvl p).priv || asid == 0))) →
    ∃ t n, exec (.tableWalk cl asid va write) s = .next t
      ∧ (getD [] t.xlt.tlb cl).head? = some { tlbOf asid va lvl p with dirty := d, pins := n }
      ∧ ((∀ e ∈ getD [] s.xlt.tlb cl, e.pins = 0) → n = 0)
      ∧ (bitOf p 10 = true → d = bitOf p 11 → t = { s with
          xlt := { s.xlt with tlb := t.xlt.tlb, nodes := s1.xlt.nodes }, counters := t.counters })

/-- A translation of a TLB is one that a shootdown names (18 R457). -/
def Named (k : ShKind) (asid va : Nat) (e : Tlb) : Prop :=
  match k with
  | .page => e.asid = asid ∧ e.vpage ≤ va ∧ va < e.vpage + e.size
  | .asid => e.asid = asid
  | .all => True

/-- A shootdown takes every unpinned translation that it names out of every TLB, and its ASID's entries, or all, out of every walk
cache; BUSY is set until it completes
(18 R457, R458). -/
def ShootsStart : Prop :=
  ∀ (k : ShKind) (i : Word → Instr) (v : Word) (s : State),
    (k, i) ∈ [(ShKind.page, Instr.xltShootPage), (.asid, .xltShootAsid), (.all, .xltShootAll)] →
    v.toNat / 2 ^ 11 % 4 = (match k with
      | .page => 0
      | .asid => 1
      | .all => 2) →
    v.getLsbD 31 = true → s.xlt.busy = false → s.cores = [] → (∀ cl, ∀ e ∈ getD [] s.xlt.tlb cl, e.pins = 0) →
    Rising s.xlt.tlb →
    ∃ t, exec (i v) s = .next t ∧ t = { s with xlt := t.xlt } ∧ t.xlt.busy = true ∧ t.xlt.shootReg = v &&& 0x1FFF
      ∧ (∀ cl n, n ∈ getD [] t.xlt.nodes cl → k ≠ .all ∧ n.asid ≠ v.toNat % 2 ^ 11 ∧ n ∈ getD [] s.xlt.nodes cl)
      ∧ t.xlt.rtbase = s.xlt.rtbase ∧ t.xlt.done = s.xlt.done ∧ t.xlt.err = s.xlt.err
      ∧ ∀ cl e, e ∈ getD [] t.xlt.tlb cl ↔ e ∈ getD [] s.xlt.tlb cl
          ∧ ¬Named k (v.toNat % 2 ^ 11) (s.xlt.shootVa.toNat % 2 ^ 56) e

/-- A shootdown is refused while one is in progress, or with a KIND that names none (18 R458). -/
def ShootsRefused : Prop :=
  ∀ (v : Word) (s : State), (v.getLsbD 31 = true ∧ s.xlt.busy = true) ∨ v.toNat / 2 ^ 11 % 4 = 3 →
    exec (.xltShootRefused v) s = .next { s with xlt := { s.xlt with err := true } }

/-- A shootdown that nothing is left to wait for is done: BUSY is clear, DONE set, and the thread whose TLBI began it may
go on (18 R457; 20 R515). -/
def ShootsEnd : Prop :=
  ∀ (s : State) (h : Shoot) (b g l : Nat) (u : Thread), s.xlt.shoot = some h → s.cores = [] → h.accs = [] → h.posts = [] →
    h.pends = [] → h.reqs = [] → h.hreqs = [] → h.asker = some (b, g, l) → s.thr? b g l = some u →
    ∃ t, exec .shootdownComplete s = .next t
      ∧ t = { s with xlt := { s.xlt with busy := false, done := true, shoot := none }, blocks := t.blocks,
                     counters := t.counters }
      ∧ t.thr? b g l = some { u with shot := true }

end Sys2Proof.Claim

/-- The Mending Engine's events, and the machine check. -/
def Obligations.MendingEvents : Prop :=
  Claim.DownDeclared ∧ Claim.BeaconsTimed ∧ Claim.CellsRejoin ∧ Claim.WalkRows ∧ Claim.MachineCheckStops

/-- The translation engine's events. -/
def Obligations.TranslationEvents : Prop :=
  Claim.WalksTables ∧ Claim.TlbReplaces ∧ Claim.WalkInstalls ∧ Claim.ShootsStart ∧ Claim.ShootsRefused ∧ Claim.ShootsEnd

/-! ### The dispatcher -/

namespace Sys2Proof.Claim

/-- A doorbell of a queue that software fills moves its TAIL, at most 2^LOG2N records past HEAD; one that would pass that is
an error, and one of a queue fed by SPAWN or out of use is ignored (19 R462, R463). -/
def DoorbellRings : Prop :=
  ∀ (v : Word) (s : State) (q n up : Nat) (d : Queue), q = v.toNat % 1024 → n = v.toNat / 1024 → d = s.readQueue q →
    up = (n + 2 ^ 22 - d.tail) % 2 ^ 22 →
    (d.spn = false → d.usable = true → up ≠ 0 → up < 2 ^ 21 → (n + 2 ^ 22 - d.head) % 2 ^ 22 ≤ 2 ^ d.log2n →
      ∃ t, exec (.queueDoorbell v) s = .next t
        ∧ t.dsp = { s.dsp with queues := put q { d with tail := n } s.dsp.queues } ∧ t.xlt = s.xlt ∧ t.out = s.out
        ∧ t.fab = s.fab ∧ t.hst = s.hst)
    ∧ (d.spn = false → d.usable = true → up ≠ 0 → up < 2 ^ 21 → 2 ^ d.log2n < (n + 2 ^ 22 - d.head) % 2 ^ 22 →
      exec (.queueDoorbell v) s
        = .next { s with dsp := { s.dsp with queues := put q d s.dsp.queues, err := true } })
    ∧ (d.spn = true ∨ d.usable = false → exec (.queueDoorbell v) s
        = .next { s with dsp := { s.dsp with queues := put q d s.dsp.queues } })

/-- A record is taken from the ring of a queue whose stream runs: HEAD moves on, and its grid waits to be admitted with the
frame that the record names (19 R462, R464, R469). -/
def RecordTaken : Prop :=
  ∀ (q : Nat) (s s1 s2 : State) (d : Queue) (st : Stream) (bs fs : List Byte) (r : Record) (f : LFrame),
    find? q s.dsp.queues = some d → st = s.streamOf d.stream → s.dispatching = true → d.usable = true → d.fill ≠ 0 →
    d.parked = false → s.openGrid q = none → st.en = true → st.stopped = false → st.killed = false →
    (s.setStream d.stream st).ringRead (d.recAt d.head) = (s1, .bytes bs) → parseRecord (ofBytes bs) = some r →
    r.frame % 64 = 0 → r.join % 64 = 0 → r.task = false →
    s1.readRange (s1.dispAgent st.asid) (.disp q) r.frame 304 = (s2, .bytes fs) →
    frameZeros (ofBytes fs) = true → f = parseFrame (ofBytes fs) →
    s2.frameOk f false = true →
    ∃ t, exec (.recordTake q) s = .next t
      ∧ find? q t.dsp.queues = some { d with head := (d.head + 1) % 2 ^ 22 }
      ∧ find? (2 ^ 32 + q) t.dsp.grids = some {
          id := 2 ^ 32 + q, queue := q, stream := d.stream, asid := st.asid, record := r, recAddr := d.recAt d.head
          read := true, fr := f, opened := 0, nblk := f.nblk, nextBlk := 0, saved := [], ended := 0, admitted := false
          admitAt := 0, killed := false, cores := [] }
      ∧ t.xlt = s2.xlt

/-- A grid whose lease can be walked is admitted: it takes the next GRIDID and its admission time, and counts as a reader of
the weight store where its frame says so; one whose lease alone has more than twelve pages in one set of a TLB is parked
instead (18 R452; 19 R470; 12 R334). -/
def GridAdmitted : Prop :=
  ∀ (q : Nat) (s : State) (g : Grid) (d : Queue) (ps : List (Nat × Nat)), find? (State.pendKey q) s.dsp.grids = some g →
    find? q s.dsp.queues = some d → d.parked = false → s.dispatching = true → g.read = true →
    s.leaseReady g false = (s, true) → s.leasePages g.asid (State.leaseOf g.fr g.nblk) = .ok ps → (g.fr.ws = true → s.wsWrite = []) →
    ∃ t, exec (.gridAdmit q) s = .next t ∧ match State.leaseOver g.asid ps with
      | none => t = { s with
            dsp := { s.dsp with grids := t.dsp.grids, nextGrid := (s.dsp.nextGrid + 1) % 2 ^ 32 }
            wsReaders := if g.fr.ws then s.wsReaders + 1 else s.wsReaders
            counters := t.counters }
          ∧ t.grid? s.dsp.nextGrid = some { g with id := s.dsp.nextGrid, admitted := true, admitAt := s.now }
      | some _ => s.ioqShape (s.dsp.ctl.toNat / 2 % 1024) = none → t = { s with
            dsp := { s.dsp with drop := true, queues := put q { d with parked := true } s.dsp.queues }
            counters := t.counters }

/-- The next block of a grid without partitions is placed where its cores have room and the budgets allow: resident with its
number, its cores and its groups, each thread at the entry with the frame address, the argument and the block number in its
first registers (19 R471 to R475). Where a lease would take a set of the cluster's TLB past twelve pinned pages nothing is
placed (18 R452). -/
def BlockPlaced : Prop :=
  (∀ (q base : Nat) (cores quads : List Nat) (s : State) (g : Grid) (d : Queue), s.openGrid q = some g →
    find? q s.dsp.queues = some d → g.fr.mcx = 0 → g.fr.mcy = 0 → s.leaseFits g base = false →
    exec (.blockPlace q base cores quads) s = .next s)
  ∧ ∀ (q base : Nat) (cores quads : List Nat) (s s1 : State) (g : Grid) (d : Queue), s.openGrid q = some g →
    find? q s.dsp.queues = some d → g.admitted = true → d.parked = false → s.dispatching = true → g.fr.mcx = 0 →
    g.fr.mcy = 0 → g.nextBlk < g.nblk → base < 64 → s.blockFits g.fr base cores quads = true →
    cores.length = g.fr.cspan → quads.length = g.fr.groups → s.budgetOk g.stream 1 g.fr = true →
    s.placedFirst q d.cls = false → s.leaseFits g base = true → s.leaseReady g true = (s, true) →
    s.pinLease g base = (s1, none) → s1.grid? g.id = some g →
    ∃ t x, exec (.blockPlace q base cores quads) s = .next t ∧ t.blk? s1.nextId = some x
      ∧ x.gridid = g.id ∧ x.blkid = g.nextBlk ∧ x.nblk = g.nblk ∧ x.cluster = base ∧ x.cores = cores ∧ x.fr = g.fr
      ∧ x.asid = g.asid ∧ x.scratch = [] ∧ x.colls = [] ∧ x.nb = List.replicate 16 Barrier.reset
      ∧ (∀ y ∈ x.groups, y.threads.length = 32 ∧ y.storeQ = [] ∧ ∀ u ∈ y.threads,
          u.pc = State.skipHeader (if g.record.code = 0 then g.fr.entry else g.record.code)
          ∧ u.v = [BitVec.ofNat 32 g.record.frame, BitVec.ofNat 32 (g.record.frame / 2 ^ 32), g.record.arg,
              BitVec.ofNat 32 g.nextBlk, 0, 0, 0, 0]
          ∧ u.priv = (g.asid == 0) ∧ u.exited = false ∧ u.depth = 0)
      ∧ (t.grid? g.id).map (·.nextBlk) = some (g.nextBlk + 1)

/-- A grid all of whose blocks have ended, and that joins nothing, is gone; one with a join object decrements its counter,
and where others are still awaited is gone with that (19 R466). -/
def JoinsDecrement : Prop :=
  (∀ (id : Nat) (s : State) (g : Grid), s.grid? id = some g → g.admitted = true → g.nblk ≤ g.ended → g.record.join = 0 →
    exec (.joinDecrement id) s = .next { s with dsp := { s.dsp with grids := del id s.dsp.grids } })
  ∧ ∀ (id old : Nat) (s s1 s2 : State) (g : Grid) (obj : List Byte), s.grid? id = some g → g.admitted = true →
    g.nblk ≤ g.ended → g.record.join ≠ 0 → g.cores = [] → s.cores = [] →
    (s.setGrid g).readRange (s.dispAgent g.asid) (.disp (2 ^ 10 + id)) g.record.join 64 = (s1, .bytes obj) →
    s1.joinStep (s.dispAgent g.asid) (.disp (2 ^ 10 + id)) g.record.join = (s2, some (.ok old)) → 1 < old →
    exec (.joinDecrement id) s = .next ((s2.dropAnswers (.disp (2 ^ 10 + id))).delGrid id)

/-- A join's push, and a SPAWN lane's, put their record at TAIL once the ring has room, and TAIL moves on (19 R466,
R480). -/
def RecordsPushed : Prop :=
  (∀ (q : Nat) (s : State) (p : Push), s.dsp.pushes = [p] → p.queue = q → (s.queueOf q).room = true →
    ∃ t, exec (.joinPush q) s = .next t ∧ t.dsp.pushes = []
      ∧ find? q t.dsp.queues = some { s.queueOf q with tail := ((s.queueOf q).tail + 1) % 2 ^ 22 }
      ∧ t.xlt = s.xlt)
  ∧ ∀ (b g l npc va q : Nat) (h : Hd) (a bq : Opnd) (s s1 s2 : State) (u : Thread) (y : Group) (w : Thread)
      (bs : List Byte), s.insAt b g l = some (.spawn h a bq, npc) → s.thr? b g l = some u → u.exited = false →
    u.halted = false → l < 32 → (s.doneMask ⟨b, g, 1#32 <<< l, u.pc, npc⟩).getLsbD l = false →
    s.loadsChk ⟨b, g, 1#32 <<< l, u.pc, npc⟩ l = .pass →
    s.fenceRel ⟨b, g, 1#32 <<< l, u.pc, npc⟩ l = (s1, .pass) → s1.grp? b g = some y → y.threads[l]? = some w →
    va = src64 h.ext y w l a → q = src32 h.ext y w l bq → va % 32 = 0 → q ≤ 1023 →
    s1.takesPush q (s1.agent b g l).asid = true →
    s1.readRange (s1.agent b g l) (.spill b g l) va 32 = (s2, .bytes bs) → (s2.queueOf q).room = true →
    ∃ t, exec (.spawnPush b g l) s = .next t
      ∧ find? q t.dsp.queues = some { s2.queueOf q with tail := ((s2.queueOf q).tail + 1) % 2 ^ 22 }
      ∧ ∀ z, t.grp? b g = some z → z.pmask.getLsbD l = true ∧ z.pmaskPc = u.pc

/-- A thread whose YIELD or SLEEP has run its time is no longer held; one whose WAITMEM reads again is held no longer where
no access stands for it, and goes on where the word meets its condition (19 R482 to R484). -/
def HoldsEnd : Prop :=
  (∀ (b g l n : Nat) (s : State) (u : Thread), s.thr? b g l = some u → n ≤ s.now →
    (u.hold = some (.yield n) → ∃ t, exec (.yieldTimeout b g l) s = .next t ∧ t = { s with blocks := t.blocks }
      ∧ t.thr? b g l = some { u with hold := none })
    ∧ (u.hold = some (.sleep n) → ∃ t, exec (.sleepEnd b g l) s = .next t ∧ t = { s with blocks := t.blocks }
      ∧ t.thr? b g l = some { u with hold := none }))
  ∧ ∀ (b g l va n : Nat) (s : State) (u : Thread), s.thr? b g l = some u → u.hold = some (.waitmem va n) →
    (∀ a ∈ s.accs, a.blk = b → a.grp = g → a.kind ≠ .waitmem) →
    ∃ t, exec (.waitmemRecheck b g l) s = .next t ∧ t = { s with blocks := t.blocks }
      ∧ t.thr? b g l = some { u with hold := none }

/-- The eligible block of a progress grid with the greatest timer is pre-empted for the block that waits for room: it takes
a save slot, and the trap units of its cores are asked to halt it (19 R478). -/
def BlocksPreempt : Prop :=
  ∀ (b n w i : Nat) (s : State) (x : Block), s.blk? b = some x → s.yieldTimer b = some n → s.waitsRoom x.gridid = some w →
    (∀ k y u, (k, y) ∈ s.blocks → y.gridid = x.gridid → s.yieldTimer k = some u → u ≤ n) →
    s.freeSave x.stream = some i →
    ∃ t, exec (.progressPreempt b) s = .next t ∧ t = { s with blocks := t.blocks, cores := t.cores }
      ∧ t.blk? b = some { x with slot := some i, roomFor := some w }
      ∧ ∀ k, t.core k = if k ∈ x.cores then { s.core k with haltReq := some b } else s.core k

/-- A grid past its deadline raises WATCHDOG: a record is delivered or dropped, and where its policy ignores the fault the
deadline begins again (19 R479; 20 R497). -/
def WatchdogBites : Prop :=
  ∀ (id : Nat) (s : State) (g : Grid), s.grid? id = some g → g.id = id → g.admitted = true → g.ended < g.nblk →
    (s.streamOf g.stream).deadline ≠ 0 → g.admitAt + 1400000 * (s.streamOf g.stream).deadline ≤ s.now →
    g.fr.polset.getLsbD 4 = true → g.fr.policy.toNat / 4 ^ 4 % 4 = 0 → s.ioqShape (s.trp.ctl.toNat % 1024) = none →
    ∃ t, exec (.watchdogExpiry id) s = .next t
      ∧ t = { s with dsp := { s.dsp with grids := t.dsp.grids }, trp := { s.trp with drop := true }, counters := t.counters }
      ∧ t.grid? id = some { g with admitAt := s.now }

/-- DSP_SCMD: STOP stops a stream, RETRY makes its queues try their records again, RELOAD reads its descriptor and those of
its queues; any other command is an error (19 R488). -/
def StreamCommands : Prop :=
  (∀ (v : Word) (s : State), v.getLsbD 31 = true → v.toNat / 1024 % 4 = 0 →
    (∀ b x, (b, x) ∈ s.blocks → x.stream ≠ v.toNat % 1024) →
    exec (.dspScmdStop v) s
      = .next (s.setStream (v.toNat % 1024) { s.streamOf (v.toNat % 1024) with stopped := true }))
  ∧ (∀ (v : Word) (s : State), v.getLsbD 31 = true → v.toNat / 1024 % 4 = 1 → Rising s.dsp.queues →
    ∃ t, exec (.dspScmdRetry v) s = .next t ∧ t = { s with dsp := { s.dsp with queues := t.dsp.queues } }
      ∧ ∀ q, find? q t.dsp.queues = (find? q s.dsp.queues).map fun d =>
          if d.stream = v.toNat % 1024 then { d with parked := false } else d)
  ∧ (∀ (v : Word) (s : State), v.getLsbD 31 = true → v.toNat / 1024 % 4 = 2 → Rising s.dsp.queues →
    ∃ t, exec (.dspScmdReload v) s = .next t
      ∧ t = { s with dsp := { s.dsp with queues := t.dsp.queues, streams := t.dsp.streams } }
      ∧ find? (v.toNat % 1024) t.dsp.streams = some (s.readStream (v.toNat % 1024))
      ∧ ∀ q, find? q t.dsp.queues = (find? q s.dsp.queues).map fun d =>
          if d.stream = v.toNat % 1024 then s.readQueue q else d)
  ∧ ∀ (v : Word) (s : State), v.getLsbD 31 = true → v.toNat / 1024 % 4 = 3 →
    exec (.dspScmdRefused v) s = .next { s with dsp := { s.dsp with err := true } }

end Sys2Proof.Claim

/-- The dispatcher's events up to the placement of a block. -/
def Obligations.DispatchEvents : Prop :=
  Claim.DoorbellRings ∧ Claim.RecordTaken ∧ Claim.GridAdmitted ∧ Claim.BlockPlaced ∧ Claim.JoinsDecrement
    ∧ Claim.RecordsPushed

/-- What the dispatcher does to threads, blocks and streams that run: the ends of holds, pre-emption, the watchdog and the
commands. -/
def Obligations.RunningEvents : Prop :=
  Claim.HoldsEnd ∧ Claim.BlocksPreempt ∧ Claim.WatchdogBites ∧ Claim.StreamCommands

/-! ### The trap unit: halts, saves and restores -/

namespace Sys2Proof.Claim

/-- A core accepts the halt of a block of which nothing is in flight: the block halts there, its threads keep their registers
and no longer wait or hold (20 R502). -/
def HaltAccepted : Prop :=
  ∀ (core b : Nat) (s : State) (x : Block), (s.core core).haltReq = some b → s.pkg.stopped = false → s.blk? b = some x →
    x.halting = [] → Rising s.cores → x.colls = [] → s.accs = [] → s.fab.bulks = [] → s.copyOn b core = none →
    (∀ k z, (k, z) ∈ s.blocks → ∀ y ∈ z.groups, y.bast = none ∧ ∀ u ∈ y.threads, u.txn = none) →
    ∃ t x', exec (.haltAccept core) s = .next t ∧ t.blk? b = some x' ∧ x'.halting = [core]
      ∧ t.core core = { s.core core with haltReq := none } ∧ (∀ k, k ≠ core → t.core k = s.core k) ∧ t.out = s.out
      ∧ t.dir = s.dir ∧ t.mem = s.mem ∧ t.fab = s.fab ∧ t.dsp = s.dsp ∧ t.trp = s.trp
      ∧ ∀ g l u, s.thr? b g l = some u → ∃ u', t.thr? b g l = some u' ∧ (u' = u ∨ u' =
          { u with hold := none, maint := none, published := false, shot := false, metFault := none })

/-- A halted block of which nothing is left to drain or publish leaves its cores for its save slot: the slot holds its record,
and its grid keeps it as saved (19 R477; 20 R505). -/
def ContextSaved : Prop :=
  ∀ (b i : Nat) (s s1 s2 s3 : State) (x : Block) (g : Grid) (ps : List (Nat × List Byte)), s.blk? b = some x →
    x.slot = some i → s.pkg.stopped = false → s.saveReady b x = true → s.savePublish b x = (s1, true) →
    (s1.saveSettle b).blk? b = some x → x.fixups = [] →
    ps = slotParts x (((s1.grid? x.gridid).map fun g => s1.now - g.admitAt).getD 0) →
    s1.slotReady (s1.slotBase x.stream i) true (ps.map fun (o, bs) => (o, bs.length)) = (s2, true) →
    s3 = ps.foldl (fun s (o, bs) => s.writeHome (s1.slotBase x.stream i + o) bs)
      (x.cores.foldl (fun s c => s.saveL1 c) (s2.saveSettle b)) →
    s3.grid? x.gridid = some g → g.id = x.gridid → Rising s3.blocks →
    ∃ t, exec (.contextSaveComplete b) s = .next t ∧ t.blk? b = none
      ∧ t.grid? x.gridid = some { g with saved := g.saved
          ++ [⟨x.blkid, i, x.roomFor, x.groups.map fun y => (y.killed, y.issued), x.colls⟩] }
      ∧ (∀ a, byteAt t a = byteAt s3 a) ∧ t.out = s3.out ∧ (∀ k, k ≠ b → t.blk? k = s3.blk? k)

/-- A saved block of which no transfer was in flight resumes where its cores have room, with what its slot holds: its
scratchpad, its barriers, and each thread at its PC with its registers (19 R477; 20 R508). -/
def ContextRestored : Prop :=
  ∀ (idx cl k base : Nat) (cores quads : List Nat) (s s1 s2 : State) (e : SavedBlk) (g : Grid) (x : Block),
    s.savedBlocks[idx]? = some (k, e) → s.grid? k = some g → g.id = k → s.dispatching = true →
    (s.streamOf g.stream).stopped = false → (s.streamOf g.stream).en = true → (s.streamOf g.stream).killed = false →
    e.behind = none → e.colls = [] → s.leaseFits g cl = true → s.blockFits g.fr cl cores quads = true → s.budgetOk g.stream 1 g.fr = true →
    base = s.slotBase g.stream e.slot →
    s.slotReady base false (slotAreas g.fr (if g.fr.tslines = 0 then 0 else cores.length) (s.homeNum (base + 0x24) 2))
      = (s1, true) →
    s1.leaseReady g true = (s1, true) → s1.pinLease g cl = (s2, none) →
    x = s2.rdBlock (fun o n => s2.homeNum (base + o) n) e (s2.blockOn g e.blkid cl cores quads) →
    (∃ y ∈ x.groups, y.ended = false) → (∀ y ∈ x.groups, ∀ u ∈ y.threads, u.replay = [] ∧ u.resume = []) →
    ∃ t x', exec (.contextRestore idx cl cores quads) s = .next t ∧ t.blk? s2.nextId = some x'
      ∧ x'.gridid = k ∧ x'.blkid = e.blkid ∧ x'.cores = cores ∧ x'.scratch = x.scratch ∧ x'.nb = x.nb
      ∧ x'.tiles = x.tiles ∧ t.out = s2.out
      ∧ (t.grid? k).map (·.saved.length) = some (g.saved.erase e).length
      ∧ (∀ i, i < x.fr.scratch → x.scratch.byte i = BitVec.ofNat 8 (s2.homeNum (base + (0x629000 + i)) 1))
      ∧ ∀ n y, x.groups[n]? = some y → ∃ y', x'.groups[n]? = some y' ∧ y'.s = y.s ∧ y'.tok = y.tok
          ∧ y'.fpmode = fpmodeOf (s2.homeNum (base + (0x9000 + 0x400 * n + 0x100)) 4)
          ∧ y'.fpstat = BitVec.ofNat 32 (s2.homeNum (base + (0x9000 + 0x400 * n + 0x104)) 1)
          ∧ ∀ l u, y.threads[l]? = some u → ∃ u', y'.threads[l]? = some u' ∧ u' = { u with seals := u'.seals }
              ∧ u'.pc = s2.homeNum (base + (thrOff (32 * n + l) + 8)) 8
              ∧ u'.p = BitVec.ofNat 8 (s2.homeNum (base + (thrOff (32 * n + l) + 0xC)) 1 % 2 ^ u'.live)

/-- TRP_RELEASE lets the threads of the group at a position go on after their HALT (20 R513, R514). -/
def Releases : Prop :=
  ∀ (v : Word) (s : State),
    (v.getLsbD 31 = true → ∃ t, exec (.trpRelease v) s = .next t ∧ t = { s with blocks := t.blocks }
      ∧ ∀ b g y, s.grp? b g = some y → t.grp? b g = some
          (if y.ended = false ∧ y.core = v.toNat % 256 ∧ y.quad = v.toNat / 256 % 4 ∧ y.slot = v.toNat / 1024 % 16 then
            { y with threads := y.threads.map fun u => { u with halted := false } } else y))
    ∧ (v.getLsbD 31 = false → exec (.trpRelease v) s = .next s)

/-- The fields of a barrier, a fix-up entry and a resumption record are read back as they were written (11 R318, R325;
15 R404). -/
def RecordsReadBack : Prop :=
  (∀ z : Barrier, z.cnt < 512 → z.arr < 512 → -2 ^ 39 ≤ z.txb → z.txb < 2 ^ 39 → barOf (barNum { z with aseq := [] }) z.aseq = z)
  ∧ (∀ f : Fixup, f.daddr < 2 ^ 56 → f.saddr < 2 ^ 56 → f.rem < 2 ^ 32 → f.grp < 128 → f.lane < 32 → f.coll < 2 ^ 32 →
      fixOf (fixNum f) = f)
  ∧ ∀ (r : Resume) (l : Nat), r.daddr < 2 ^ 56 → r.saddr < 2 ^ 56 → r.rem < 2 ^ 32 → l < 32 → resumeOf (resumeNum r l) = r

end Sys2Proof.Claim

/-- The trap unit's events. -/
def Obligations.TrapEvents : Prop :=
  Claim.HaltAccepted ∧ Claim.ContextSaved ∧ Claim.ContextRestored ∧ Claim.Releases ∧ Claim.RecordsReadBack

/-! ### The host port and the package -/

namespace Sys2Proof.Claim

/-- A request toward the host, of an owner other than a slice, has ended with a result: a writeback is gone, and any other
stays with its result for the unit that asked, which goes on. -/
def hostDone (s : State) (r : HostReq) (st : FabStatus) (v : SecVal) : State :=
  match r.owner with
  | .engine => { s with hst := { s.hst with reqs := s.hst.reqs.filter fun (q : HostReq) => q.id != r.id } }
  | o => ({ s with hst := { s.hst with reqs := s.hst.reqs.map fun (q : HostReq) =>
      if q.id = r.id then { q with result := some (st, v) } else q } }).afterAnswer o

/-- A request is not a slice's. -/
def unsliced (r : HostReq) : Prop := ∀ sec, r.owner ≠ .sector sec

/-- A read toward the host ends with its data; with an error completion, or without one at its deadline, with HOST_LINK_DOWN;
and a slice's line that waits for it ends its transaction with that fault (21 R521, R525). -/
def HostReadsEnd : Prop :=
  (∀ (id pa n : Nat) (v : SecData) (s : State) (r : HostReq), s.hostReq? id = some r → unsliced r → r.sent = true →
    r.op = .read pa n →
    exec (.hostReadCompletion id false v) s
      = .next (hostDone s r .ok ⟨placeSec (pa % 64) (v.toNat % 2 ^ (8 * n)), none, false⟩))
  ∧ (∀ (id : Nat) (v : SecData) (s : State) (r : HostReq), s.hostReq? id = some r → unsliced r → r.sent = true →
    r.op.posted = false → exec (.hostReadCompletion id true v) s = .next (hostDone s r (.fault 0x21) SecVal.zero))
  ∧ (∀ (id : Nat) (s : State) (r : HostReq), s.hostReq? id = some r → unsliced r → r.op.posted = false →
    r.madeAt + 1400 * max 1 (s.fab.tmo.toNat % 65536) ≤ s.now →
    exec (.hostRequestDeadline id) s = .next (hostDone s r (.fault 0x21) SecVal.zero))
  ∧ ∀ (id sec : Nat) (s : State) (r : HostReq), s.hostReq? id = some r → r.owner = .sector sec → r.op.posted = false →
    r.madeAt + 1400 * max 1 (s.fab.tmo.toNat % 65536) ≤ s.now → (s.dirE sec).trans = .bH →
    exec (.hostRequestDeadline id) s = .next
      (({ s with hst := { s.hst with reqs := s.hst.reqs.filter fun (q : HostReq) => q.id != r.id } }).dirFail sec 0x21)

/-- A posted write leaves when the link is up, and at its deadline without a link ends with HOST_LINK_DOWN (21 R525). -/
def HostWritesEnd : Prop :=
  (∀ (id : Nat) (s : State) (r : HostReq), s.hostReq? id = some r → unsliced r → r.op.posted = true → s.hst.up = true →
    exec (.hostWriteSend id) s
      = .next (hostDone { s with out := s.out ++ [.host { r with sent := true }] } r .ok SecVal.zero))
  ∧ ∀ (id : Nat) (s : State) (r : HostReq), s.hostReq? id = some r → unsliced r → r.op.posted = true → s.hst.up = false →
    r.madeAt + 1400 * max 1 (s.fab.tmo.toNat % 65536) ≤ s.now →
    exec (.hostWriteDeadline id) s = .next (hostDone s r (.fault 0x21) SecVal.zero)

/-- An AtomicOp ends with the old value; one answered Unsupported Request becomes a coherent fallback where AFB and CXL allow
it, behind the fallbacks before it and, for a release, behind a zero-length read, else ends with HOST_ATOMIC_UR (21 R526,
R527). -/
def HostAtomicsEnd : Prop :=
  (∀ (id pa : Nat) (afb rel : Bool) (op : HomeOp) (v : QWord) (s : State) (r : HostReq), s.hostReq? id = some r →
    unsliced r → r.sent = true → r.op = .atomic pa afb rel op →
    exec (.atomicopCompletion id v) s
      = .next (hostDone s r .ok ⟨BitVec.ofNat 512 (v.toNat % 2 ^ (8 * opSize op)), none, false⟩))
  ∧ (∀ (id pa : Nat) (op : HomeOp) (v : SecData) (s : State) (r q : HostReq), s.hostReq? id = some r → r.sent = true →
    r.op = .flush pa op → q = { r with op := .coherent pa op } →
    exec (.hostReadCompletion id false v) s = .next { s with
      hst := { s.hst with reqs := (s.hst.reqs.filter fun (x : HostReq) => x.id != id) ++ [q] }
      out := s.out ++ [.host q] })
  ∧ ∀ (id pa : Nat) (afb rel : Bool) (op : HomeOp) (s : State) (r q : HostReq), s.hostReq? id = some r → unsliced r →
    r.sent = true → r.op = .atomic pa afb rel op → q = { r with op := if rel then .flush pa op else .coherent pa op } →
    (afb = true ∧ s.hst.cxl = true → ∃ t, exec (.atomicopUr id) s = .next t
      ∧ t = { s with
          hst := { s.hst with reqs := (s.hst.reqs.filter fun (x : HostReq) => x.id != id) ++ [q] }
          out := s.out ++ [.host q]
          counters := t.counters })
    ∧ (¬(afb = true ∧ s.hst.cxl = true) → ∃ cs, exec (.atomicopUr id) s
        = .next (hostDone { s with counters := cs } r (.fault 0x20) SecVal.zero))

/-- CXL.cache: a slice that asked for a sector has it, in S or in M; the read-modify-write of a fallback whose sector has been
obtained is performed once, the sector is written back, and the old value is the result (21 R523, R527). -/
def CoherentFallbacks : Prop :=
  (∀ (id sec pa : Nat) (op : HomeOp) (v : SecVal) (s : State) (r : HostReq) (e : DirE), s.hostReq? id = some r →
    r.sent = true → r.owner = .sector sec → r.op = .coherent pa op → s.dirE sec = e → e.pkgst = .i →
    ((∃ a, op = .read a) ∨ ∃ a m x, op = .write a m x) →
    ∃ t, exec (.coherentFallback id v) s = .next t
      ∧ t = { s with dir := t.dir, hst := { s.hst with reqs := s.hst.reqs.filter fun (q : HostReq) => q.id != r.id } }
      ∧ t.dirE sec = { e with
          val := v, lv := true, ld := false
          pkgst := match op with
            | .read _ => .s
            | _ => .m }
      ∧ ∀ k, k ≠ sec → t.dirE k = s.dirE k)
  ∧ ∀ (id sec pa old : Nat) (op : HomeOp) (v : SecVal) (d : SecData) (w : HostReq) (s : State) (r : HostReq),
    s.hostReq? id = some r → r.sent = true → r.op = .coherent pa op → sec = pa / 64 →
    (∃ q, r.owner = .disp q ∨ r.owner = .svc) → (s.dirE sec).trans = .stable → (s.dirE sec).pkgst = .i → v.psn = false →
    s.hst.reqs.filter (State.fallsBack sec) = [r] → s.hst.down = false → s.hst.up = true →
    old = takeSec v.bytes (opAddr op % 64) (opSize op) →
    d = (match opNew op old with
      | some x => mergeSec v.bytes (maskOf (opAddr op % 64) (opSize op)) (placeSec (opAddr op % 64) x)
      | none => v.bytes) →
    w = ⟨s.nextId, .writeback sec ⟨d, none, false⟩, .engine, s.now, true, none⟩ →
    ∃ cs, exec (.coherentFallback id v) s = .next (hostDone { s with
        nextId := s.nextId + 1
        hst := { s.hst with reqs := s.hst.reqs ++ [w] }
        out := s.out ++ [.host w]
        counters := cs } r .ok ⟨BitVec.ofNat 512 old, none, false⟩)

/-- The host is declared down, with a cause, on a package that holds no line and tracks no sector but one that the host owns:
its requests end with HOST_LINK_DOWN, that sector is poisoned, and a record tells of it, or is dropped (21 R529). -/
def HostDeclared (s s' t : State) (cause : Nat) : Prop :=
  ∀ (q : Nat) (r : HostReq) (k : Nat) (e : PodE), s.cores = [] → s.dir = [] → s.hst.reqs = [r] → r.result = none →
    r.owner = .disp q → s.hom.pod = [(k, e)] → e.trans = .stable → e.st = .x → e.hown = true → e.sz = 0 →
    k ∉ s.hom.poison →
    ∃ u ok, State.ioqPush { s' with
        hst := { s'.hst with down := true, reqs := [{ r with result := some (.fault 0x21, SecVal.zero) }] }
        hom := { s.hom with pod := [], poison := s.hom.poison ++ [k] } } (s'.hst.ctl.toNat / 8 % 1024)
        (toBytes 16 (cause * 2 ^ 6 + 2 ^ 8 + s.mnd.epoch % 2 ^ 16 * 2 ^ 16 + s.self * 2 ^ 32 + 2 ^ 96)) = (u, ok)
      ∧ t = if ok = true then u else { u with hst := { u.hst with drop := true } }

/-- The link leaves its up state by a failure or by LINKEN 0, and the host that is not yet down is declared down; LINKEN 1
after 0 clears HOSTDOWN; the link comes up where LINKEN is 1, and what waited in the port is sent (21 R520, R525, R528,
R529). -/
def LinksMove : Prop :=
  (∀ s : State, s.hst.up = true → s.hst.down = false →
    ∃ t, exec .linkDown s = .next t
      ∧ HostDeclared s { s with hst := { s.hst with up := false, cxl := false } } t 1)
  ∧ (∀ s : State, s.hst.up = true → s.hst.down = false →
    ∃ t, exec .linkDisable s = .next t
      ∧ HostDeclared s { s with hst := { s.hst with ctl := s.hst.ctl &&& 0x1FFE, up := false, cxl := false } } t 1)
  ∧ (∀ s : State, s.hst.up = false →
    exec .linkDisable s = .next { s with hst := { s.hst with ctl := s.hst.ctl &&& 0x1FFE } }
    ∧ exec .linkDown s = .next s)
  ∧ (∀ s : State, exec .linkEnable s = .next { s with hst := { s.hst with
      ctl := (s.hst.ctl ||| 1) &&& 0x1FFF
      down := s.hst.down && s.hst.ctl.getLsbD 0 } })
  ∧ ∀ (cxl : Bool) (s : State), s.hst.ctl.getLsbD 0 = true → s.hst.up = false → s.pkg.booted = true →
    exec (.linkUp cxl) s = .next { s with
      hst := { s.hst with
        up := true
        cxl := cxl
        lastBeat := s.now
        reqs := s.hst.reqs.map fun r => { r with sent := r.sent || !r.op.posted } }
      out := s.out ++ (s.hst.reqs.filter fun r => !r.sent && !r.op.posted && r.result.isNone).map fun r =>
        .host { r with sent := true } }

/-- Heartbeats: the count, advanced by one, is written each period; a write of HST_HBIN is a beat of the host; without one
for MISS periods the host is declared down (21 R528). -/
def Heartbeats : Prop :=
  (∀ s : State, s.hst.ctl.getLsbD 2 = true → s.hst.up = true → s.pkg.stopped = false →
    s.hst.lastSent + 1400 * max 1 (s.hst.hb.toNat % 65536) ≤ s.now →
    exec .heartbeatSend s = .next { s with
      hst := { s.hst with beat := (s.hst.beat + 1) % 2 ^ 32, lastSent := s.now }
      out := s.out ++ [.beat s.hst.hbaddr.toNat ((s.hst.beat + 1) % 2 ^ 32)] })
  ∧ (∀ (v : Word) (s : State), exec (.hstHbin v) s = .next { s with hst := { s.hst with lastBeat := s.now } })
  ∧ ∀ s : State, s.hst.ctl.getLsbD 2 = true → s.hst.up = true → s.hst.down = false →
    s.hst.lastBeat + 1400 * max 1 (s.hst.hb.toNat % 65536) * max 1 (s.hst.hb.toNat / 65536 % 16) ≤ s.now →
    ∃ t, exec .hostSilence s = .next t ∧ HostDeclared s s t 0

/-- A request of the host for device memory: outside HST_HDM or without CXL it is not performed; a read of a sector that
nobody else holds is tracked and answered with its bytes; a write of one is performed at the home (21 R524). -/
def HostReachesMemory : Prop :=
  (∀ (pa : Nat) (own : Bool) (v : SecData) (s : State),
    s.hst.down = true ∨ s.hst.up = false ∨ s.hst.cxl = false ∨ s.inHdm (gpaOff pa) = false →
    exec (.hostMemRequest pa true own v) s = .next { s with hst := { s.hst with dberr := true } }
    ∧ exec (.hostMemRequest pa false own v) s = .next { s with
        hst := { s.hst with dberr := true }
        out := s.out ++ [.hostReply pa ⟨0, none, true⟩ true] })
  ∧ ∀ (pa sec : Nat) (own : Bool) (v : SecData) (s : State), s.hst.down = false → s.hst.up = true → s.hst.cxl = true →
    s.inHdm (gpaOff pa) = true → gpaOff pa < 2 ^ 51 → sec = gpaOf s.self (gpaOff pa) / 64 → s.mnd.walks = [] →
    s.podFind sec = none → (s.cohRead sec).tag = none → s.conflicts sec true none = [] → s.mem.wf = true →
    (∃ t, exec (.hostMemRequest pa true own v) s = .next t ∧ (t.cohRead sec).bytes = v
      ∧ (∀ k, k < 2 ^ 56 → s.homed k = true → k ≠ sec → t.cohRead k = s.cohRead k) ∧ t.blocks = s.blocks ∧ t.out = s.out)
    ∧ ((∀ k c, (k, c) ∈ s.cores → find? sec c.l1 = none) → (∀ m ∈ s.net, m.sec ≠ sec) → (s.dirE sec).trans = .stable →
      (s.dirE sec).req = none → (s.dirE sec).held = none → s.podHasRoom sec 1 = true →
      ∃ t, exec (.hostMemRequest pa false false v) s = .next t
        ∧ t.out = s.out ++ [.hostReply (64 * sec) ⟨(s.cohRead sec).bytes, none, (s.cohRead sec).psn⟩ false]
        ∧ t.podFind sec = some (sec, { PodE.fresh with st := .s, host := true }) ∧ t.blocks = s.blocks)

/-- BAR0: the doorbell page raises the kept tail or head of an I/O-core queue and rings its core; a value that is not above
is ignored; HST_HBIN may always be written, other registers where HOSTREG is 1; the rest is an error (21 R521, R533). -/
def BarWrites : Prop :=
  (∀ (q : Nat) (v : Word) (s : State), q < 1024 → Rising s.hst.ioqTail → Rising s.hst.ioqHead →
    (State.halfAbove v.toNat (getD 0 s.hst.ioqTail q) = true → ∃ t, exec (.ioqDoorbellTail q v) s = .next t
      ∧ getD 0 t.hst.ioqTail q = v.toNat ∧ t.hst = { s.hst with ioqTail := t.hst.ioqTail }
      ∧ (v.toNat = getD 0 s.hst.ioqHead q → t.out = s.out) ∧ (t.out = s.out ∨ t.out = s.out ++ [.irq q]))
    ∧ (State.halfAbove v.toNat (getD 0 s.hst.ioqTail q) = false → ∃ t, exec (.ioqDoorbellTail q v) s = .next t
      ∧ t = { s with counters := t.counters })
    ∧ (State.halfAbove v.toNat (getD 0 s.hst.ioqHead q) = true → ∃ t, exec (.ioqDoorbellHead q v) s = .next t
      ∧ getD 0 t.hst.ioqHead q = v.toNat ∧ t.hst = { s.hst with ioqHead := t.hst.ioqHead } ∧ t.out = s.out)
    ∧ (State.halfAbove v.toNat (getD 0 s.hst.ioqHead q) = false → ∃ t, exec (.ioqDoorbellHead q v) s = .next t
      ∧ t = { s with counters := t.counters }))
  ∧ (∀ (off n : Nat) (v : DWord) (s : State), 0x20000 ≤ off →
    exec (.hostBarWrite off n v) s = .next { s with hst := { s.hst with dberr := true } })
  ∧ (∀ (v : DWord) (s : State), exec (.hostBarWrite 0x3028 4 v) s = .next { s with hst := { s.hst with lastBeat := s.now } })
  ∧ ∀ (v : DWord) (s : State),
    (s.hst.ctl.getLsbD 1 = false →
      exec (.hostBarWrite 0x3908 4 v) s = .next { s with hst := { s.hst with dberr := true } })
    ∧ (s.hst.ctl.getLsbD 1 = true →
      exec (.hostBarWrite 0x3908 4 v) s
        = .next { s with pkg := { s.pkg with pwrcap := BitVec.ofNat 32 (v.toNat % 2 ^ 32) &&& 0xFFF } })

/-- The result of an AMO on 8n bits (21 R531 rule 4). -/
def amoResult (w : Nat) (f : Amo) (a b : BitVec w) : BitVec w :=
  match f with
  | .swap => b
  | .add => a + b
  | .xor => a ^^^ b
  | .and => a &&& b
  | .or => a ||| b
  | .min => if a.sle b then a else b
  | .max => if a.sle b then b else a
  | .minu => if a.ule b then a else b
  | .maxu => if a.ule b then b else a

/-- An access of a service core: beyond its address space it faults in the core, and so it does misaligned, which is ALIGN
in the weight-store window (12 R331); a read of HBM outside the
service memory is performed at the home; a write or an atomic in the service memory changes the bytes it covers (21 R530,
R531). -/
def ServiceAccesses : Prop :=
  (∀ (io : Bool) (addr : Nat) (op : SvcOp) (s : State), 2 ^ 52 ≤ addr ∨ addr % max 1 (svcBytes op) ≠ 0 →
    exec (.serviceCoreAccess io addr op) s = .next { s with out := s.out
      ++ [.svc (.fault (if 0x9000000000000 ≤ addr ∧ addr < 0x9000040000000 then 0x08 else 0)) 0] })
  ∧ (∀ (io : Bool) (off n a : Nat) (s : State), n ∈ [1, 2, 4, 8] → off % n = 0 → off < s.pkg.caps.mem * 2 ^ 30 →
    off < 2 ^ 51 → s.inSvc off = false → a = gpaOf s.self off → s.podFind (a / 64) = none →
    (s.cohRead (a / 64)).tag = none → (s.cohRead (a / 64)).psn = false → s.conflicts (a / 64) false none = [] →
    ∃ t, exec (.serviceCoreAccess io off (.read n)) s = .next t ∧ t.blocks = s.blocks ∧ t.hst = s.hst
      ∧ t.out = s.out ++ [.svc .ok (BitVec.ofNat 64 (takeSec (s.cohRead (a / 64)).bytes (a % 64) n))])
  ∧ ∀ (io : Bool) (off n a old : Nat) (v : DWord) (f : Amo) (op : SvcOp) (s : State), n ∈ [4, 8] → off % n = 0 →
    off < s.pkg.caps.mem * 2 ^ 30 → off < 2 ^ 51 → s.inSvc off = true → a = gpaOf s.self off →
    (s.cohRead (a / 64)).psn = false → s.conflicts (a / 64) true none = [] → s.mem.wf = true →
    old = takeSec (s.cohRead (a / 64)).bytes (a % 64) n → op = .write n v ∨ op = .amo f n v →
    ∃ t, exec (.serviceCoreAccess io off op) s = .next t ∧ t.blocks = s.blocks
      ∧ t.out = s.out ++ [.svc .ok (match op with
          | .write _ _ => 0
          | _ => BitVec.ofNat 64 old)]
      ∧ ∀ j, j < 64 → takeSec (t.cohRead (a / 64)).bytes j 1 =
          if a % 64 ≤ j ∧ j < a % 64 + n then (match op with
            | .write _ _ => v.toNat
            | _ => (amoResult (8 * n) f (BitVec.ofNat _ old) (v.setWidth _)).toNat) / 2 ^ (8 * (j - a % 64)) % 256
          else takeSec (s.cohRead (a / 64)).bytes j 1

/-- The package: throttling begins above the power cap or at the throttle point and its cclk are counted when it ends; reset
gives every piece of state its reset value and the ID its straps; the image is accepted or refused once; the ID may be written
until then; the firmware answers an attestation request (22 R540 to R546). -/
def PackageEvents : Prop :=
  (∀ (power temp : Nat) (s : State),
    (min (s.pkg.pwrcap.toNat % 4096) 2300 < power ∨ 95 ≤ temp → s.pkg.throttling = none →
      exec (.throttle power temp) s = .next { s with pkg := { s.pkg with throttling := some s.now } })
    ∧ ∀ n, power ≤ min (s.pkg.pwrcap.toNat % 4096) 2300 → temp < 95 → s.pkg.throttling = some n →
      exec (.throttleEnd power temp) s = .next { s with pkg := { s.pkg with
        throttling := none
        throttle := (s.pkg.throttle + (s.now - n)) % 2 ^ 48 } })
  ∧ (∀ (strap : BitVec 10) (s : State), exec (.packageReset strap) s = .next { State.reset with
      agenda := s.agenda
      out := s.out
      pkg := { State.reset.pkg with id := strap, caps := s.pkg.caps } })
  ∧ (∀ (image : List Byte) (s : State), s.pkg.booted = false → s.pkg.bootFail = false →
    exec (.firmwareBoot image) s = .next { s with pkg := { s.pkg with
      booted := Config.authentic image
      bootFail := !Config.authentic image } })
  ∧ (∀ (id : BitVec 10) (s : State), s.pkg.booted = false → s.pkg.bootFail = false →
    exec (.mgtPkgidWrite id) s = .next { s with pkg := { s.pkg with id := id } })
  ∧ ∀ (nonce : List Byte) (s : State), s.pkg.booted = true →
    exec (.spdmRequest nonce) s = .next { s with out := s.out ++ [.spdm (Config.attest nonce)] }

/-- A write of a system register: RW fields are set, W1C fields are cleared by ones, other bits are ignored; a slot without a
register ignores it, and a counter takes the value (00 R5; 01 R34; 21 R522). -/
def RegistersWritten : Prop :=
  ∀ (v : Word) (s : State),
    exec (.registerWrite 0 0x120 v) s
      = .next { s with trp := { s.trp with hvec := s.trp.hvec.extractLsb' 32 32 ++ (v &&& 0xFFFFFF80) } }
    ∧ exec (.registerWrite 0 0x3C1 v) s = .next { s with mnd := { s.mnd with beacon := v &&& 0xFFFFF } }
    ∧ exec (.registerWrite 0 0x406 v) s = .next { s with dsp := { s.dsp with
        bad := s.dsp.bad && !v.getLsbD 0
        drop := s.dsp.drop && !v.getLsbD 1
        err := s.dsp.err && !v.getLsbD 3 } }
    ∧ exec (.registerWrite 0 0x722 v) s = .next { s with pkg := { s.pkg with eccCe := s.pkg.eccCe &&& ~~~v } }
    ∧ exec (.registerWrite 0 0x725 v) s = .next s ∧ exec (.registerWrite 5 0x120 v) s = .next s
    ∧ ∀ unit, unit < 1024 → ∃ t, exec (.registerWrite (0x1000 + unit) 0x1000 v) s = .next t
        ∧ t = { s with counters := t.counters } ∧ (Rising s.counters → t.counter 0 0 unit = v.toNat)

/-- What the end of a cclk does beside what happened in it: the wait counts of the groups that did not issue (04 R110, R113),
and nothing else. -/
def Ticked (t t' : State) : Prop :=
  t' = { t with blocks := t'.blocks } ∧ (∀ b, t.blk? b = none → t'.blk? b = none)
  ∧ (∀ b x, t.blk? b = some x → ∃ x', t'.blk? b = some x' ∧ x' = { x with groups := x'.groups }
      ∧ x'.groups.length = x.groups.length)
  ∧ (∀ b g z, t.grp? b g = some z → ∃ z', t'.grp? b g = some z' ∧ z' = { z with waits := z'.waits, threads := z'.threads })
  ∧ ∀ b g l u, t.thr? b g l = some u → ∃ u', t'.thr? b g l = some u' ∧ u' = { u with ready := u'.ready }

/-- Reads and writes from outside: the host reads the register of a slot of BAR0; the board controller reads an MGT_ register
at any time, writes MGT_PWRCAP, writes MGT_PKGID until the boot ROM has finished, and nothing else (21 R521; 22 R546, R548). -/
def PortsReadAndWrite : Prop :=
  (∀ (s u : State) (rest : List Turn) (t : Turn), s.agenda = t :: rest → u = { s with agenda := rest, now := s.now + 1 } →
    ((∀ off n, t = .barRead off n → ∃ x, step s = .next x ∧ Ticked (u.barRead off n) x)
    ∧ (∀ reg, t = .mgtRead reg → ∃ x, step s = .next x ∧ Ticked (u.mgtRead reg) x)
    ∧ ∀ reg v, t = .mgtWrite reg v → ∃ x, step s = .next x ∧ Ticked (u.mgtWrite reg v) x))
  ∧ ∀ (s : State),
    (∀ reg v, reg < 8192 → s.unitRead 0 reg = v → s.barRead (8 * reg) 4 = { s with out := s.out ++ [.bar (8 * reg) (v % 2 ^ 32)] })
    ∧ (∀ reg, 0x700 ≤ reg → reg ≤ 0x727 → s.mgtRead reg = { s with out := s.out ++ [.mgt reg (s.unitRead 0 reg)] })
    ∧ (∀ v, s.mgtWrite 0x721 v = { s with pkg := { s.pkg with pwrcap := v &&& 0xFFF } })
    ∧ (∀ v : Word, s.mgtWrite 0x727 v = if s.pkg.booted || s.pkg.bootFail then s
        else { s with pkg := { s.pkg with id := v.extractLsb' 0 10 } })
    ∧ ∀ reg v, reg ≠ 0x721 → reg ≠ 0x727 → s.mgtWrite reg v = s

/-- Soft errors: a corrected one is counted; one that ECC cannot correct is counted and located, and marks the sector of
home HBM, the segment of the weight store or the byte of the tile in which it lies (12 R332; 14 R375; 16 R425; 22 R545). -/
def SoftErrorsMark : Prop :=
  (∀ (s : State) (rest : List Turn) (e : SoftErr), s.agenda = .soft e :: rest →
    ∃ t, step s = .next t ∧ Ticked (({ s with agenda := rest, now := s.now + 1 } : State).softError e) t)
  ∧ (∀ s : State, s.pkg.eccCe ≠ -1 →
    s.softError .corrected = { s with pkg := { s.pkg with eccCe := s.pkg.eccCe + 1 } })
  ∧ (∀ (s : State) (sec : Nat), s.homed sec = true → s.pkg.eccUe ≠ -1 →
    ∃ t, s.softError (.hbm sec) = t ∧ t = { s with pkg := { s.pkg with eccUe := s.pkg.eccUe + 1, eccLoc := 5 }, hom := t.hom }
      ∧ t.hom = { s.hom with poison := t.hom.poison }
      ∧ ∀ k, t.hom.poison.contains k = (s.hom.poison.contains k || k == sec))
  ∧ (∀ (s : State) (seg : Nat), seg < 2 ^ 23 →
    ∃ t, s.softError (.weight seg) = t ∧ t = { s with pkg := t.pkg, wsPoison := t.wsPoison }
      ∧ find? seg t.wsPoison = some (-1) ∧ ∀ k, k ≠ seg → find? k t.wsPoison = find? k s.wsPoison)
  ∧ ∀ (s : State) (b k slot off : Nat) (u : Tile), s.tile? b k = some u → slot < 16 → off < 2 ^ 16 →
    ∃ t, s.softError (.tile b k slot off) = t ∧ t = { s with pkg := t.pkg, blocks := t.blocks }
      ∧ t.tile? b k = some { u with bad := u.bad ++ [(slot, off)] }

end Sys2Proof.Claim

/-- The host port's events. -/
def Obligations.HostEvents : Prop :=
  Claim.HostReadsEnd ∧ Claim.HostWritesEnd ∧ Claim.HostAtomicsEnd ∧ Claim.CoherentFallbacks ∧ Claim.LinksMove
    ∧ Claim.Heartbeats

/-- What the host, the service cores and the board controller do to the package. -/
def Obligations.HostAccesses : Prop :=
  Claim.HostReachesMemory ∧ Claim.BarWrites ∧ Claim.ServiceAccesses ∧ Claim.PortsReadAndWrite

/-- The package's own events, a write of a system register, and soft errors. -/
def Obligations.PackageAndRegisters : Prop := Claim.PackageEvents ∧ Claim.RegistersWritten ∧ Claim.SoftErrorsMark

/-! ### Encodings -/

/-- A few words written out from the encodings of the spec decode to the instructions they stand for. -/
def Obligations.DecodeWords : Prop :=
  decodeSimtWords [0x1803FC21, 0xF8C2C1C0] = .ok (.plop ⟨⟨0xFF, 0, 0, 0⟩, .l64⟩ 0 1 2 3 0xF8)
  ∧ decodeSimtWords [0x0003FC35, 0x03E50505] = .ok (.shfl ⟨⟨0xFF, 0, 0, 0⟩, .l64⟩ .xor 0 (.v 5) (.v 5) (.k 5))
  ∧ decodeSimtWords [0x0003FC36, 0x08FF0605, 0x00000300]
      = .ok (.shfl ⟨⟨0xFF, 0, 0, 0⟩, .l96 3⟩ .pick 2 (.v 5) (.v 6) .imm)
  ∧ decodeSimtWords [0x00000001, 0x00000000] = .ok (.nop ⟨⟨0, 0, 0, 0⟩, .l64⟩)
  ∧ decodeTileWords [0x000003A5, 0x00000000] = .ok .tend

/-- Decoding the encoding of every legal SIMT instruction, with every operand, modifier and length, gives it back. -/
def Obligations.RoundTripSimt : Prop :=
  ∀ i : Instr, i.wf = true → (encodeRaw i).isSome = true → decodeSimtWords (encode i) = .ok i

/-- Decoding the encoding of every legal tile instruction gives it back. -/
def Obligations.RoundTripTile : Prop :=
  ∀ i : Instr, i.wf = true → encodeRaw i = none → decodeTileWords (encode i) = .ok i

/-- The length code in the low bits of a first word: 01 means two words, 10 three and 11 four, and 00 starts no instruction.
The words of an instruction are consecutive, its first word lowest, and no word past them is read (02 R38). -/
def Obligations.LengthCodes : Prop :=
  (∀ w : Word, lenWords w = (if w.toNat % 4 = 1 then some 2 else if w.toNat % 4 = 2 then some 3
    else if w.toNat % 4 = 3 then some 4 else none))
  ∧ (∀ (ws : List Word) (i : Nat) (st : Start), startAt ws i = some st → st.ok = true →
    lenWords (ws.getD i 0) = some st.len ∧ i + st.len ≤ 32)
  ∧ (∀ (ws : List Word) (i : Nat) (st : Start), startAt ws i = some st → (ws.getD i 0).toNat % 4 = 0 → st.ok = false)
  ∧ (∀ (w0 w1 w2 w3 : Word), lenWords w0 = some 2 → decodeSimt w0 w1 w2 w3 = decodeSimt w0 w1 0 0)
  ∧ (∀ (w0 w1 w2 w3 : Word), lenWords w0 = some 3 → decodeSimt w0 w1 w2 w3 = decodeSimt w0 w1 w2 0)
  ∧ ∀ (ws : List Word) (pc npc i : Nat) (ins : Instr), i = pc % 128 / 4 → framedAt ws pc = .ins ins npc →
    decodeSimt (ws.getD i 0) (ws.getD (i + 1) 0) (ws.getD (i + 2) 0) (ws.getD (i + 3) 0) = .ok ins

/-- The major opcodes 0xE0 to 0xEF in a SIMT stream, and any other than 0xE0 to 0xEE and 0x00 in a tile stream, are
ILLEGAL_OPCODE, whatever the other fields (02 R58). -/
def Obligations.StreamOpcodes : Prop :=
  decodeCode .illegalOpcode = 0x01
  ∧ (∀ w0 w1 w2 w3 : Word, 0xE0 ≤ (w0.extractLsb' 2 8).toNat → (w0.extractLsb' 2 8).toNat ≤ 0xEF →
    decodeSimt w0 w1 w2 w3 = .error .illegalOpcode)
  ∧ ∀ w0 w1 w2 w3 : Word, w0.extractLsb' 2 8 ≠ 0 → (w0.extractLsb' 2 8).toNat < 0xE0 ∨ 0xEE < (w0.extractLsb' 2 8).toNat →
    decodeTile w0 w1 w2 w3 = .error .illegalOpcode

/-- What the decoders give is a legal instruction. -/
def Obligations.DecodedIsLegal : Prop :=
  ∀ (w0 w1 w2 w3 : Word) (i : Instr), decodeSimt w0 w1 w2 w3 = .ok i ∨ decodeTile w0 w1 w2 w3 = .ok i → i.wf = true

/-! ### A step runs what is decoded -/

namespace Sys2Proof.Claim

/-- A legal SIMT instruction whose words stand at a start position of a line that is not malformed is what the PC there
frames. -/
def FramesWords : Prop :=
  ∀ (ws : List Word) (pc : Nat) (st : Start) (i : Instr), startAt ws (pc % 128 / 4) = some st → st.ok = true →
    malformed ws = false → i.wf = true → (encodeRaw i).isSome = true → (encode i).length = st.len →
    (ws.drop (pc % 128 / 4)).take st.len = encode i →
    framedAt ws pc = .ins i (nextPc ws (pc / 128 * 128) (pc % 128 / 4) st.len)

/-- The turn of a quadrant: the first group in its order issues, for the lanes at the PC chosen, the instruction framed there
in the line fetched, where the line shows no convergence point at which a lane must wait; around it only the groups' wait
counts, the ends of YIELDs and the mark of the last group change. -/
def IssueRuns : Prop :=
  ∀ (s s0 s1 s2 t : State) (rest : List Turn) (core quad pc npc : Nat) (p : Bool) (c : Cand) (cs : List Cand) (y : Group)
    (ls : List Nat) (ws : List Word) (i : Instr), s.agenda = .issue core quad :: rest →
    s0 = ({ s with agenda := rest, now := s.now + 1 } : State).rotateSystem exec core quad →
    s0.issueOrder core quad = c :: cs → s0.grp? c.blk c.grp = some c.y → s0.chosen exec c = (y, some pc) →
    s1 = s0.modGrp c.blk c.grp (fun z => { z with fav := y.fav }) → ls = s1.lanesAt c.blk c.y pc → ls ≠ [] →
    (∀ l ∈ ls, (c.y.threads[l]?).any (·.priv) = p) →
    State.fetchLine { s1 with cur := .simt ⟨c.blk, c.grp, maskLanes ls, pc, pc⟩ } c.blk c.y.core p (pc / 128 * 128)
      = (s2, .line ws) →
    (∀ l ∈ ls, l ∈ s2.lanesAt c.blk c.y pc) → framedAt ws pc = .ins i npc →
    exec i { s2 with cur := .simt ⟨c.blk, c.grp, maskLanes ls, pc, npc⟩ } = .next t → t.cur = .none →
    ∃ t', step s = .next t' ∧ t' = { t with blocks := t'.blocks, cores := t'.cores }
      ∧ (∀ b x, t.blk? b = some x → ∃ x', t'.blk? b = some x' ∧ x' = { x with groups := x'.groups })
      ∧ (∀ b g z, t.grp? b g = some z → ∃ z', t'.grp? b g = some z'
          ∧ z' = { z with waits := z'.waits, threads := z'.threads })
      ∧ (∀ b g l u, t.thr? b g l = some u → ∃ u', t'.thr? b g l = some u'
          ∧ u' = { u with ready := u'.ready, hold := u'.hold } ∧ (u'.hold = u.hold ∨ u'.hold = none))
      ∧ ∀ k, ∃ lg, t'.core k = { t.core k with lastGrp := lg }

/-- The turn of a tile copy runs the instruction framed at its position. -/
def TileRuns : Prop :=
  ∀ (s t : State) (rest : List Turn) (b k n : Nat) (x : Tile) (i : Instr), s.agenda = .tile b k :: rest →
    s.tileReady b k = true → s.tile? b k = some x → x.framed x.spc = (n, .ok i) →
    exec i { s with agenda := rest, now := s.now + 1, cur := .tile b k (x.addr x.spc) n } = .next t →
    ∃ t', step s = .next t' ∧ Ticked { t with cur := .none } t'

/-- The event at the head of the agenda happens. -/
def EventRuns : Prop :=
  ∀ (s t : State) (rest : List Turn) (i : Instr), s.agenda = .event i :: rest →
    exec i { s with agenda := rest, now := s.now + 1, cur := .none } = .next t →
    ∃ t', step s = .next t' ∧ Ticked t t'

end Sys2Proof.Claim

/-- A step runs the decoded instruction: of a SIMT stream, of a tile stream, or the event at the head of the agenda. That
the head of the agenda says which agent acts is the model's choice (assumption log 1). -/
def Obligations.StepRunsDecoded : Prop :=
  Claim.FramesWords ∧ Claim.IssueRuns ∧ Claim.TileRuns ∧ Claim.EventRuns

/-- No step stops: every instruction and event in every state, and so every step, answers a next state. An event whose
message or entry is absent leaves the machine as it was (assumption log 21). -/
def Obligations.EveryStepCompletes : Prop :=
  (∀ (i : Instr) (s : State), ∃ t, exec i s = .next t) ∧ ∀ s : State, ∃ t, step s = .next t

/-- The memories keep their one canonical form through every instruction, event and step, from every state whose memories
have it: HBM, the weight store, and the scratchpad of every block. The form is the model's, and so is the byte that an
unlisted address reads as (assumption log 3). -/
def Obligations.MemoriesStayCanonical : Prop :=
  (∀ (i : Instr) (s t : State), s.memoriesWf = true → exec i s = .next t → t.memoriesWf = true)
  ∧ ∀ s t : State, s.memoriesWf = true → step s = .next t → t.memoriesWf = true

/-- What package reset leaves, as the spec states it: no scratchpad ways, RSEQ and PW zero, the register values of the owning
chapters, nothing in progress, and no cell, host or stream known. -/
def Obligations.ResetValues : Prop :=
  (∀ k, State.reset.carveStat k = 0 ∧ (State.reset.core k).rseq = 0 ∧ (State.reset.core k).pw = 0)
  ∧ State.reset.fab.tmo = 50 ∧ State.reset.fab.mig = 4096 ∧ State.reset.hom.merge = 1000 ∧ State.reset.hom.tmo = 20
  ∧ State.reset.mnd.beacon = 0x3000A ∧ State.reset.dsp.pkgbud = 0x08FC1000 ∧ State.reset.hst.hb = 0x30064
  ∧ State.reset.pkg.pwrcap = 2300 ∧ State.reset.pkg.mchk = 0 ∧ State.reset.hst.up = false ∧ State.reset.hst.down = false
  ∧ State.reset.hom.ctl = 0 ∧ State.reset.hom.down = 0 ∧ State.reset.dsp.ctl = 0 ∧ State.reset.pkg.booted = false
  ∧ State.reset.memoriesWf = true

/-! ### One location -/

/-- Memory of this package is one location per byte: a coherent write merges its bytes into the sector, whoever holds it;
the other sectors of its home keep theirs, and memory its canonical form. -/
def Obligations.OneLocation : Prop :=
  ∀ (s : State) (sec : Nat) (mask : BitVec 64) (v : SecData), s.homed sec = true → sec < 2 ^ 56 → s.mem.wf = true →
    ((s.cohWrite sec mask v).cohRead sec).bytes = mergeSec (s.cohRead sec).bytes mask v
    ∧ ((s.cohWrite sec mask v).cohRead sec).psn = ((s.cohRead sec).psn && mask != -1)
    ∧ (∀ k, k ≠ sec → k < 2 ^ 56 → s.homed k = true → (s.cohWrite sec mask v).cohRead k = s.cohRead k)
    ∧ (s.cohWrite sec mask v).mem.wf = true

/-! ### Values -/

namespace Sys2Proof.Claim

/-- An element r of a result whose exact value is v: saturated to the type, or congruent to v and of the type. -/
def Fits (it : ITy) (sat : Bool) (v r : Int) : Prop :=
  intMin it.width it.signed ≤ r ∧ r ≤ intMax it.width it.signed
  ∧ if sat then r = max (intMin it.width it.signed) (min (intMax it.width it.signed) v)
    else (r - v) % 2 ^ it.width = 0

end Sys2Proof.Claim

/-- Sums, products, minima, maxima and absolute values of every integer type, element by element: exact, then saturated or
wrapped (05 R148, R150, R155 to R157). -/
def Obligations.IntegerElements : Prop :=
  ∀ (it : ITy) (sat sub : Bool) (a b i : Nat), i < it.count →
    Claim.Fits it sat (if sub then elemOf it a i - elemOf it b i else elemOf it a i + elemOf it b i)
      (elemOf it (iaddVal it sub sat a b) i)
    ∧ Claim.Fits it sat (elemOf it a i * elemOf it b i) (elemOf it (imulVal it sat a b) i)
    ∧ elemOf it (iminVal it false a b) i = min (elemOf it a i) (elemOf it b i)
    ∧ elemOf it (iminVal it true a b) i = max (elemOf it a i) (elemOf it b i)
    ∧ Claim.Fits it sat (elemOf it a i).natAbs (elemOf it (iabsVal it sat a) i)
    ∧ iaddVal it sub sat a b < 2 ^ (it.width * it.count)

/-- ROT rotates SA by SB mod w, left or right, where SB is one 32-bit operand: bit k of each guard-true lane's result is
the bit of SA that many places below k, or above it (05 R160). -/
def Obligations.RotRotates : Prop :=
  ∀ (h : Hd) (it : ITy) (w : Nat) (right : Bool) (d a b : Opnd) (s : State) (c : Cur) (y : Group),
    (it = .u32 ∧ w = 32) ∨ (it = .u64 ∧ w = 64) → Claim.Issues s c y (.rot h it right d a b) h.g →
    ∃ t y' f, exec (.rot h it right d a b) s = .next t ∧ t.grp? c.blk c.grp = some y'
      ∧ Claim.Writes c (s.guardTrue c h.g) d it.regs (Claim.laneVal y f) Claim.same y y y' ∧ Claim.Beside c s t
      ∧ ∀ u l k, k < w → (f y u l).testBit k = (srcVal (.int w) h.ext y u l a).testBit
          (if right then (k + src32 h.ext y u l b) % w else (k + w - src32 h.ext y u l b % w) % w)

/-- PMOV, whose FN is 0x00, sets Pd to Pa in each guard-true thread, and PMOV.NOT, whose FN is 0x01, to the opposite of Pa;
nothing else changes (04 R139). -/
def Obligations.PmovSets : Prop :=
  (∀ (h : Hd) (d a : BitVec 3), (encodeRaw (.pmov h d a)).map (·.fn) = some 0x00
    ∧ (encodeRaw (.pmovNot h d a)).map (·.fn) = some 0x01)
  ∧ ∀ (h : Hd) (inv : Bool) (d a : BitVec 3) (s : State) (c : Cur) (y : Group),
    Claim.Issues s c y (if inv then .pmovNot h d a else .pmov h d a) h.g →
    ∃ t y', exec (if inv then .pmovNot h d a else .pmov h d a) s = .next t ∧ t.grp? c.blk c.grp = some y'
      ∧ y'.s = y.s ∧ y'.fpstat = y.fpstat ∧ y'.fpmode = y.fpmode ∧ Claim.Beside c s t
      ∧ ∀ l u, y.threads[l]? = some u → ∃ u', y'.threads[l]? = some u'
          ∧ u' = { Claim.after c l u with p := u'.p }
          ∧ ∀ n : BitVec 3, u'.p.getLsbD n.toNat =
              if l ∈ s.guardTrue c h.g ∧ n = d then u.p.getLsbD a.toNat ^^ inv else u.p.getLsbD n.toNat
end

