-- ==== Sys2Proof/Laws/Table.lean ====
section
/-! SUPPORT. Tables and memories: what a read finds after a write, and the canonical form. -/

namespace Sys2Proof.Machine

/-! ### Reading a table after a write -/

section Tables
variable {α : Type}

@[simp] theorem find?_nil (k : Nat) : find? k ([] : Tab α) = none := rfl

theorem find?_put_self (k : Nat) (v : α) (t : Tab α) : find? k (put k v t) = some v := by
  induction t with
  | nil => simp [put, find?]
  | cons p t ih =>
    obtain ⟨k', w⟩ := p
    by_cases h1 : k < k'
    · simp [put, h1, find?]
    · by_cases h2 : k = k'
      · simp [put, h2, find?]
      · simp [put, h1, h2, find?, ih]

theorem find?_put_ne {k j : Nat} (v : α) (t : Tab α) (h : j ≠ k) : find? j (put k v t) = find? j t := by
  induction t with
  | nil => simp [put, find?, h]
  | cons p t ih =>
    obtain ⟨k', w⟩ := p
    by_cases h1 : k < k'
    · simp [put, h1, find?, h]
    · by_cases h2 : k = k'
      · subst h2; simp [put, find?, h]
      · simp [put, h1, h2, find?, ih]

theorem find?_del_ne {k j : Nat} (t : Tab α) (h : j ≠ k) : find? j (del k t) = find? j t := by
  induction t with
  | nil => rfl
  | cons p t ih =>
    obtain ⟨k', w⟩ := p
    by_cases h1 : k < k'
    · simp [del, h1]
    · by_cases h2 : k = k'
      · subst h2; simp [del, find?, h]
      · simp [del, h1, h2, find?, ih]

theorem getD_put_self (d : α) (k : Nat) (v : α) (t : Tab α) : getD d (put k v t) k = v := by
  simp [getD, find?_put_self]

theorem getD_put_ne (d : α) {k j : Nat} (v : α) (t : Tab α) (h : j ≠ k) : getD d (put k v t) j = getD d t j := by
  simp [getD, find?_put_ne v t h]

theorem getD_putD_ne [DecidableEq α] (d : α) {k j : Nat} (v : α) (t : Tab α) (h : j ≠ k) :
    getD d (putD d k v t) j = getD d t j := by
  unfold putD
  split
  · simp [getD, find?_del_ne t h]
  · exact getD_put_ne d v t h

/-- A write of a value that is not the default is read back. -/
theorem getD_putD_self_of_ne [DecidableEq α] {d v : α} (k : Nat) (t : Tab α) (h : v ≠ d) : getD d (putD d k v t) k = v := by
  simp [putD, h, getD_put_self]

/-- The keys of a table rise. -/
def rising : Tab α → Bool
  | [] => true
  | [_] => true
  | (a, _) :: (b, w) :: t => a < b && rising ((b, w) :: t)

theorem rising_tail {p : Nat × α} {t : Tab α} (h : rising (p :: t) = true) : rising t = true := by
  cases t with
  | nil => rfl
  | cons q t => simp [rising] at h; exact h.2

/-- A key below the first one of a rising table is not in it. -/
theorem find?_of_lt {k : Nat} : ∀ {t : Tab α}, rising t = true → (∀ p ∈ t.head?, k < p.1) → find? k t = none
  | [], _, _ => rfl
  | (a, v) :: t, h, hk => by
    have ha : k < a := hk (a, v) (by simp)
    have ht : find? k t = none := by
      refine find?_of_lt (rising_tail h) ?_
      intro p hp
      cases t with
      | nil => simp at hp
      | cons q t =>
        simp only [List.head?_cons, Option.mem_def, Option.some.injEq] at hp
        subst hp
        simp [rising] at h
        omega
    simp [find?, Nat.ne_of_lt ha, ht]

theorem find?_del_self {k : Nat} : ∀ {t : Tab α}, rising t = true → find? k (del k t) = none
  | [], _ => rfl
  | (a, v) :: t, h => by
    by_cases h1 : k < a
    · simp only [del, h1, ↓reduceIte]
      exact find?_of_lt h (by simp [h1])
    · by_cases h2 : k = a
      · subst h2
        simp only [del, Nat.lt_irrefl, ↓reduceIte]
        refine find?_of_lt (rising_tail h) ?_
        intro p hp
        cases t with
        | nil => simp at hp
        | cons q t =>
          simp only [List.head?_cons, Option.mem_def, Option.some.injEq] at hp
          subst hp
          simp [rising] at h
          exact h.1
      · simp [del, h1, h2, find?, find?_del_self (rising_tail h)]

/-- In a rising table a write is read back, the default's too. -/
theorem getD_putD_self [DecidableEq α] (d : α) (k : Nat) (v : α) {t : Tab α} (h : rising t = true) :
    getD d (putD d k v t) k = v := by
  by_cases hv : v = d
  · simp [putD, hv, getD, find?_del_self h]
  · exact getD_putD_self_of_ne k t hv

end Tables

/-! ### The canonical form of a memory -/

theorem wf_tail {p : Host.Cell} {m : Memory} (h : Memory.wf (p :: m) = true) : Memory.wf m = true := by
  cases m with
  | nil => rfl
  | cons q m => obtain ⟨a, b⟩ := p; obtain ⟨c, d⟩ := q; simp [Memory.wf] at h; exact h.2

theorem wf_head {a : Nat} {b : Byte} {m : Memory} (h : Memory.wf ((a, b) :: m) = true) : b ≠ 0 := by
  cases m with
  | nil => simpa [Memory.wf] using h
  | cons q m => obtain ⟨c, d⟩ := q; simp [Memory.wf] at h; exact h.1.1

theorem wf_rising : ∀ {m : Memory}, Memory.wf m = true → Machine.rising m = true
  | [], _ => rfl
  | [_], _ => rfl
  | (a, b) :: (c, d) :: m, h => by
    simp [Memory.wf] at h
    simp [Machine.rising, h.1.2, wf_rising h.2]

/-- A cell may stand before a memory whose addresses are higher. -/
theorem Memory.wf_cons {a : Nat} {b : Byte} {m : Memory} (hb : b ≠ 0) (hm : Memory.wf m = true)
    (ha : ∀ p ∈ m.head?, a < p.1) : Memory.wf ((a, b) :: m) = true := by
  have hb' : ¬b = 0#8 := hb
  cases m with
  | nil => simp [Memory.wf, hb']
  | cons q m =>
    obtain ⟨c, d⟩ := q
    have := ha (c, d) (by simp)
    simp_all [Memory.wf]

/-- What stands first in a table after a write is the old first entry or the written one. -/
theorem put_head {α : Type} {k : Nat} {v : α} {t : Tab α} {p : Nat × α} (h : p ∈ (put k v t).head?) :
    p.1 = k ∨ p ∈ t.head? := by
  cases t with
  | nil => simp [put] at h; exact .inl (by rw [← h])
  | cons q t =>
    obtain ⟨a, w⟩ := q
    by_cases h1 : k < a
    · simp [put, h1] at h; exact .inl (by rw [← h])
    · by_cases h2 : k = a
      · simp [put, h2] at h; exact .inl (by rw [← h, h2])
      · simp [put, h1, h2] at h; exact .inr (by simp [h])

theorem Memory.put_wf {a : Nat} {b : Byte} (hb : b ≠ 0) : ∀ {m : Memory}, Memory.wf m = true → Memory.wf (put a b m) = true
  | [], _ => by have hb' : ¬b = 0#8 := hb; simp [put, Memory.wf, hb']
  | (c, d) :: m, h => by
    by_cases h1 : a < c
    · simp only [put, h1, ↓reduceIte]
      exact Memory.wf_cons hb h (by simp [h1])
    · by_cases h2 : a = c
      · subst h2
        simp only [put, Nat.lt_irrefl, ↓reduceIte]
        refine Memory.wf_cons hb (wf_tail h) ?_
        intro p hp
        cases m with
        | nil => simp at hp
        | cons q m =>
          simp only [List.head?_cons, Option.mem_def, Option.some.injEq] at hp
          subst hp
          have := wf_rising h
          simp [Machine.rising] at this
          exact this.1
      · simp only [put, h1, h2, ↓reduceIte]
        refine Memory.wf_cons (wf_head h) (Memory.put_wf hb (wf_tail h)) ?_
        intro p hp
        rcases put_head hp with hp | hp
        · omega
        · cases m with
          | nil => simp at hp
          | cons q m =>
            simp only [List.head?_cons, Option.mem_def, Option.some.injEq] at hp
            subst hp
            have := wf_rising h
            simp [Machine.rising] at this
            exact this.1

/-- What stands first after a removal is at or above what stood first. -/
theorem del_head {α : Type} {k : Nat} {t : Tab α} (hr : Machine.rising t = true) {p : Nat × α} (h : p ∈ (del k t).head?) :
    ∀ q ∈ t.head?, q.1 ≤ p.1 := by
  intro q hq
  cases t with
  | nil => simp at hq
  | cons r t =>
    obtain ⟨a, w⟩ := r
    simp only [List.head?_cons, Option.mem_def, Option.some.injEq] at hq
    subst hq
    by_cases h1 : k < a
    · simp [del, h1] at h; simp [← h]
    · by_cases h2 : k = a
      · simp only [del, h2, Nat.lt_irrefl, ↓reduceIte] at h
        cases t with
        | nil => simp at h
        | cons r t =>
          simp only [List.head?_cons, Option.mem_def, Option.some.injEq] at h
          subst h
          simp [Machine.rising] at hr
          exact Nat.le_of_lt hr.1
      · simp [del, h1, h2] at h; simp [← h]

theorem Memory.del_wf {a : Nat} : ∀ {m : Memory}, Memory.wf m = true → Memory.wf (del a m) = true
  | [], _ => rfl
  | (c, d) :: m, h => by
    by_cases h1 : a < c
    · simpa [del, h1] using h
    · by_cases h2 : a = c
      · simpa [del, h2] using wf_tail h
      · simp only [del, h1, h2, ↓reduceIte]
        refine Memory.wf_cons (wf_head h) (Memory.del_wf (wf_tail h)) ?_
        intro p hp
        have hd := del_head (wf_rising (wf_tail h)) hp
        cases m with
        | nil => simp [del] at hp
        | cons q m =>
          have h3 := hd q (by simp)
          have h4 := wf_rising h
          simp [Machine.rising] at h4
          omega

theorem Memory.setByte_wf {m : Memory} (a : Nat) (b : Byte) (h : m.wf = true) : (m.setByte a b).wf = true := by
  unfold Memory.setByte putD
  split
  · exact Memory.del_wf h
  · rename_i hb; exact Memory.put_wf hb h

theorem Memory.setBytes_wf (bs : List Byte) : ∀ {m : Memory} (a : Nat), m.wf = true → (m.setBytes a bs).wf = true := by
  induction bs with
  | nil => intro m a h; exact h
  | cons b bs ih => intro m a h; exact ih (a + 1) (m.setByte_wf a b h)

theorem Memory.setNum_wf {m : Memory} (a n x : Nat) (h : m.wf = true) : (m.setNum a n x).wf = true :=
  Memory.setBytes_wf _ a h

theorem Memory.setSector_wf {m : Memory} (sec : Nat) (mask : BitVec 64) (v : SecData) (h : m.wf = true) :
    (m.setSector sec mask v).wf = true := by
  unfold Memory.setSector
  generalize List.range 64 = l
  induction l generalizing m with
  | nil => exact h
  | cons i l ih =>
    refine ih ?_
    by_cases hm : mask.getLsbD i = true
    · simpa only [hm, ↓reduceIte] using m.setByte_wf _ _ h
    · simpa [hm] using h

/-! ### Reading a memory after a write -/

theorem Memory.byte_setByte_self {m : Memory} (a : Nat) (b : Byte) (h : m.wf = true) : (m.setByte a b).byte a = b :=
  getD_putD_self 0 a b (wf_rising h)

theorem Memory.byte_setByte_ne (m : Memory) {a c : Nat} (b : Byte) (h : c ≠ a) : (m.setByte a b).byte c = m.byte c :=
  getD_putD_ne 0 b m h

/-- A write of consecutive bytes leaves every other address. -/
theorem Memory.byte_setBytes_of_not_mem (bs : List Byte) : ∀ (m : Memory) (a c : Nat), c < a ∨ a + bs.length ≤ c →
    (m.setBytes a bs).byte c = m.byte c := by
  induction bs with
  | nil => intro m a c _; rfl
  | cons b bs ih =>
    intro m a c h
    simp only [List.length_cons] at h
    rw [Memory.setBytes, ih _ _ _ (by omega), Memory.byte_setByte_ne m b (by omega)]

/-- A write of consecutive bytes is read back. -/
theorem Memory.byte_setBytes (bs : List Byte) : ∀ {m : Memory} (a i : Nat), m.wf = true → (hi : i < bs.length) →
    (m.setBytes a bs).byte (a + i) = bs[i] := by
  induction bs with
  | nil => intro m a i _ hi; simp at hi
  | cons b bs ih =>
    intro m a i h hi
    cases i with
    | zero =>
      rw [Memory.setBytes, Memory.byte_setBytes_of_not_mem _ _ _ _ (by omega), Nat.add_zero, Memory.byte_setByte_self a b h]
      rfl
    | succ i =>
      rw [Memory.setBytes, show a + (i + 1) = a + 1 + i by omega]
      exact ih (a + 1) i (m.setByte_wf a b h) (by simpa using hi)

end Sys2Proof.Machine
end

