-- ==== Sys2Proof/Laws/State.lean ====
section
/-! SUPPORT. What each named update of the state leaves: one lemma per update and field. -/

namespace Sys2Proof.Machine.State

variable (s : State)

/-! ### endTurn -/

@[simp] theorem endTurn_agenda : (s.endTurn).agenda = s.agenda := rfl
@[simp] theorem endTurn_now : (s.endTurn).now = s.now := rfl
@[simp] theorem endTurn_out : (s.endTurn).out = s.out := rfl
@[simp] theorem endTurn_mem : (s.endTurn).mem = s.mem := rfl
@[simp] theorem endTurn_wstore : (s.endTurn).wstore = s.wstore := rfl
@[simp] theorem endTurn_wsPoison : (s.endTurn).wsPoison = s.wsPoison := rfl
@[simp] theorem endTurn_wsReaders : (s.endTurn).wsReaders = s.wsReaders := rfl
@[simp] theorem endTurn_wsWrite : (s.endTurn).wsWrite = s.wsWrite := rfl
@[simp] theorem endTurn_blocks : (s.endTurn).blocks = s.blocks := rfl
@[simp] theorem endTurn_cores : (s.endTurn).cores = s.cores := rfl
@[simp] theorem endTurn_accs : (s.endTurn).accs = s.accs := rfl
@[simp] theorem endTurn_nextId : (s.endTurn).nextId = s.nextId := rfl
@[simp] theorem endTurn_dir : (s.endTurn).dir = s.dir := rfl
@[simp] theorem endTurn_net : (s.endTurn).net = s.net := rfl
@[simp] theorem endTurn_flits : (s.endTurn).flits = s.flits := rfl
@[simp] theorem endTurn_credits : (s.endTurn).credits = s.credits := rfl
@[simp] theorem endTurn_vcs : (s.endTurn).vcs = s.vcs := rfl
@[simp] theorem endTurn_pkts : (s.endTurn).pkts = s.pkts := rfl
@[simp] theorem endTurn_stallAt : (s.endTurn).stallAt = s.stallAt := rfl
@[simp] theorem endTurn_repl : (s.endTurn).repl = s.repl := rfl
@[simp] theorem endTurn_hold : (s.endTurn).hold = s.hold := rfl
@[simp] theorem endTurn_xlt : (s.endTurn).xlt = s.xlt := rfl
@[simp] theorem endTurn_fab : (s.endTurn).fab = s.fab := rfl
@[simp] theorem endTurn_hom : (s.endTurn).hom = s.hom := rfl
@[simp] theorem endTurn_mnd : (s.endTurn).mnd = s.mnd := rfl
@[simp] theorem endTurn_dsp : (s.endTurn).dsp = s.dsp := rfl
@[simp] theorem endTurn_trp : (s.endTurn).trp = s.trp := rfl
@[simp] theorem endTurn_hst : (s.endTurn).hst = s.hst := rfl
@[simp] theorem endTurn_pkg : (s.endTurn).pkg = s.pkg := rfl
@[simp] theorem endTurn_counters : (s.endTurn).counters = s.counters := rfl

/-! ### bump -/

@[simp] theorem bump_agenda (r i u n : Nat) : (s.bump r i u n).agenda = s.agenda := rfl
@[simp] theorem bump_now (r i u n : Nat) : (s.bump r i u n).now = s.now := rfl
@[simp] theorem bump_cur (r i u n : Nat) : (s.bump r i u n).cur = s.cur := rfl
@[simp] theorem bump_out (r i u n : Nat) : (s.bump r i u n).out = s.out := rfl
@[simp] theorem bump_mem (r i u n : Nat) : (s.bump r i u n).mem = s.mem := rfl
@[simp] theorem bump_wstore (r i u n : Nat) : (s.bump r i u n).wstore = s.wstore := rfl
@[simp] theorem bump_wsPoison (r i u n : Nat) : (s.bump r i u n).wsPoison = s.wsPoison := rfl
@[simp] theorem bump_wsReaders (r i u n : Nat) : (s.bump r i u n).wsReaders = s.wsReaders := rfl
@[simp] theorem bump_wsWrite (r i u n : Nat) : (s.bump r i u n).wsWrite = s.wsWrite := rfl
@[simp] theorem bump_blocks (r i u n : Nat) : (s.bump r i u n).blocks = s.blocks := rfl
@[simp] theorem bump_cores (r i u n : Nat) : (s.bump r i u n).cores = s.cores := rfl
@[simp] theorem bump_accs (r i u n : Nat) : (s.bump r i u n).accs = s.accs := rfl
@[simp] theorem bump_nextId (r i u n : Nat) : (s.bump r i u n).nextId = s.nextId := rfl
@[simp] theorem bump_dir (r i u n : Nat) : (s.bump r i u n).dir = s.dir := rfl
@[simp] theorem bump_net (r i u n : Nat) : (s.bump r i u n).net = s.net := rfl
@[simp] theorem bump_flits (r i u n : Nat) : (s.bump r i u n).flits = s.flits := rfl
@[simp] theorem bump_credits (r i u n : Nat) : (s.bump r i u n).credits = s.credits := rfl
@[simp] theorem bump_vcs (r i u n : Nat) : (s.bump r i u n).vcs = s.vcs := rfl
@[simp] theorem bump_pkts (r i u n : Nat) : (s.bump r i u n).pkts = s.pkts := rfl
@[simp] theorem bump_stallAt (r i u n : Nat) : (s.bump r i u n).stallAt = s.stallAt := rfl
@[simp] theorem bump_repl (r i u n : Nat) : (s.bump r i u n).repl = s.repl := rfl
@[simp] theorem bump_hold (r i u n : Nat) : (s.bump r i u n).hold = s.hold := rfl
@[simp] theorem bump_xlt (r i u n : Nat) : (s.bump r i u n).xlt = s.xlt := rfl
@[simp] theorem bump_fab (r i u n : Nat) : (s.bump r i u n).fab = s.fab := rfl
@[simp] theorem bump_hom (r i u n : Nat) : (s.bump r i u n).hom = s.hom := rfl
@[simp] theorem bump_mnd (r i u n : Nat) : (s.bump r i u n).mnd = s.mnd := rfl
@[simp] theorem bump_dsp (r i u n : Nat) : (s.bump r i u n).dsp = s.dsp := rfl
@[simp] theorem bump_trp (r i u n : Nat) : (s.bump r i u n).trp = s.trp := rfl
@[simp] theorem bump_hst (r i u n : Nat) : (s.bump r i u n).hst = s.hst := rfl
@[simp] theorem bump_pkg (r i u n : Nat) : (s.bump r i u n).pkg = s.pkg := rfl

/-! ### modCore -/

@[simp] theorem modCore_agenda (c : Nat) (f : Core → Core) : (s.modCore c f).agenda = s.agenda := rfl
@[simp] theorem modCore_now (c : Nat) (f : Core → Core) : (s.modCore c f).now = s.now := rfl
@[simp] theorem modCore_cur (c : Nat) (f : Core → Core) : (s.modCore c f).cur = s.cur := rfl
@[simp] theorem modCore_out (c : Nat) (f : Core → Core) : (s.modCore c f).out = s.out := rfl
@[simp] theorem modCore_mem (c : Nat) (f : Core → Core) : (s.modCore c f).mem = s.mem := rfl
@[simp] theorem modCore_wstore (c : Nat) (f : Core → Core) : (s.modCore c f).wstore = s.wstore := rfl
@[simp] theorem modCore_wsPoison (c : Nat) (f : Core → Core) : (s.modCore c f).wsPoison = s.wsPoison := rfl
@[simp] theorem modCore_wsReaders (c : Nat) (f : Core → Core) : (s.modCore c f).wsReaders = s.wsReaders := rfl
@[simp] theorem modCore_wsWrite (c : Nat) (f : Core → Core) : (s.modCore c f).wsWrite = s.wsWrite := rfl
@[simp] theorem modCore_blocks (c : Nat) (f : Core → Core) : (s.modCore c f).blocks = s.blocks := rfl
@[simp] theorem modCore_accs (c : Nat) (f : Core → Core) : (s.modCore c f).accs = s.accs := rfl
@[simp] theorem modCore_nextId (c : Nat) (f : Core → Core) : (s.modCore c f).nextId = s.nextId := rfl
@[simp] theorem modCore_dir (c : Nat) (f : Core → Core) : (s.modCore c f).dir = s.dir := rfl
@[simp] theorem modCore_net (c : Nat) (f : Core → Core) : (s.modCore c f).net = s.net := rfl
@[simp] theorem modCore_flits (c : Nat) (f : Core → Core) : (s.modCore c f).flits = s.flits := rfl
@[simp] theorem modCore_credits (c : Nat) (f : Core → Core) : (s.modCore c f).credits = s.credits := rfl
@[simp] theorem modCore_vcs (c : Nat) (f : Core → Core) : (s.modCore c f).vcs = s.vcs := rfl
@[simp] theorem modCore_pkts (c : Nat) (f : Core → Core) : (s.modCore c f).pkts = s.pkts := rfl
@[simp] theorem modCore_stallAt (c : Nat) (f : Core → Core) : (s.modCore c f).stallAt = s.stallAt := rfl
@[simp] theorem modCore_repl (c : Nat) (f : Core → Core) : (s.modCore c f).repl = s.repl := rfl
@[simp] theorem modCore_hold (c : Nat) (f : Core → Core) : (s.modCore c f).hold = s.hold := rfl
@[simp] theorem modCore_xlt (c : Nat) (f : Core → Core) : (s.modCore c f).xlt = s.xlt := rfl
@[simp] theorem modCore_fab (c : Nat) (f : Core → Core) : (s.modCore c f).fab = s.fab := rfl
@[simp] theorem modCore_hom (c : Nat) (f : Core → Core) : (s.modCore c f).hom = s.hom := rfl
@[simp] theorem modCore_mnd (c : Nat) (f : Core → Core) : (s.modCore c f).mnd = s.mnd := rfl
@[simp] theorem modCore_dsp (c : Nat) (f : Core → Core) : (s.modCore c f).dsp = s.dsp := rfl
@[simp] theorem modCore_trp (c : Nat) (f : Core → Core) : (s.modCore c f).trp = s.trp := rfl
@[simp] theorem modCore_hst (c : Nat) (f : Core → Core) : (s.modCore c f).hst = s.hst := rfl
@[simp] theorem modCore_pkg (c : Nat) (f : Core → Core) : (s.modCore c f).pkg = s.pkg := rfl
@[simp] theorem modCore_counters (c : Nat) (f : Core → Core) : (s.modCore c f).counters = s.counters := rfl

/-! ### setDir -/

@[simp] theorem setDir_agenda (k : Nat) (e : DirE) : (s.setDir k e).agenda = s.agenda := rfl
@[simp] theorem setDir_now (k : Nat) (e : DirE) : (s.setDir k e).now = s.now := rfl
@[simp] theorem setDir_cur (k : Nat) (e : DirE) : (s.setDir k e).cur = s.cur := rfl
@[simp] theorem setDir_out (k : Nat) (e : DirE) : (s.setDir k e).out = s.out := rfl
@[simp] theorem setDir_mem (k : Nat) (e : DirE) : (s.setDir k e).mem = s.mem := rfl
@[simp] theorem setDir_wstore (k : Nat) (e : DirE) : (s.setDir k e).wstore = s.wstore := rfl
@[simp] theorem setDir_wsPoison (k : Nat) (e : DirE) : (s.setDir k e).wsPoison = s.wsPoison := rfl
@[simp] theorem setDir_wsReaders (k : Nat) (e : DirE) : (s.setDir k e).wsReaders = s.wsReaders := rfl
@[simp] theorem setDir_wsWrite (k : Nat) (e : DirE) : (s.setDir k e).wsWrite = s.wsWrite := rfl
@[simp] theorem setDir_blocks (k : Nat) (e : DirE) : (s.setDir k e).blocks = s.blocks := rfl
@[simp] theorem setDir_cores (k : Nat) (e : DirE) : (s.setDir k e).cores = s.cores := rfl
@[simp] theorem setDir_accs (k : Nat) (e : DirE) : (s.setDir k e).accs = s.accs := rfl
@[simp] theorem setDir_nextId (k : Nat) (e : DirE) : (s.setDir k e).nextId = s.nextId := rfl
@[simp] theorem setDir_net (k : Nat) (e : DirE) : (s.setDir k e).net = s.net := rfl
@[simp] theorem setDir_flits (k : Nat) (e : DirE) : (s.setDir k e).flits = s.flits := rfl
@[simp] theorem setDir_credits (k : Nat) (e : DirE) : (s.setDir k e).credits = s.credits := rfl
@[simp] theorem setDir_vcs (k : Nat) (e : DirE) : (s.setDir k e).vcs = s.vcs := rfl
@[simp] theorem setDir_pkts (k : Nat) (e : DirE) : (s.setDir k e).pkts = s.pkts := rfl
@[simp] theorem setDir_stallAt (k : Nat) (e : DirE) : (s.setDir k e).stallAt = s.stallAt := rfl
@[simp] theorem setDir_repl (k : Nat) (e : DirE) : (s.setDir k e).repl = s.repl := rfl
@[simp] theorem setDir_hold (k : Nat) (e : DirE) : (s.setDir k e).hold = s.hold := rfl
@[simp] theorem setDir_xlt (k : Nat) (e : DirE) : (s.setDir k e).xlt = s.xlt := rfl
@[simp] theorem setDir_fab (k : Nat) (e : DirE) : (s.setDir k e).fab = s.fab := rfl
@[simp] theorem setDir_hom (k : Nat) (e : DirE) : (s.setDir k e).hom = s.hom := rfl
@[simp] theorem setDir_mnd (k : Nat) (e : DirE) : (s.setDir k e).mnd = s.mnd := rfl
@[simp] theorem setDir_dsp (k : Nat) (e : DirE) : (s.setDir k e).dsp = s.dsp := rfl
@[simp] theorem setDir_trp (k : Nat) (e : DirE) : (s.setDir k e).trp = s.trp := rfl
@[simp] theorem setDir_hst (k : Nat) (e : DirE) : (s.setDir k e).hst = s.hst := rfl
@[simp] theorem setDir_pkg (k : Nat) (e : DirE) : (s.setDir k e).pkg = s.pkg := rfl
@[simp] theorem setDir_counters (k : Nat) (e : DirE) : (s.setDir k e).counters = s.counters := rfl

/-! ### setL1 -/

@[simp] theorem setL1_agenda (c k : Nat) (e : L1E) : (s.setL1 c k e).agenda = s.agenda := rfl
@[simp] theorem setL1_now (c k : Nat) (e : L1E) : (s.setL1 c k e).now = s.now := rfl
@[simp] theorem setL1_cur (c k : Nat) (e : L1E) : (s.setL1 c k e).cur = s.cur := rfl
@[simp] theorem setL1_out (c k : Nat) (e : L1E) : (s.setL1 c k e).out = s.out := rfl
@[simp] theorem setL1_mem (c k : Nat) (e : L1E) : (s.setL1 c k e).mem = s.mem := rfl
@[simp] theorem setL1_wstore (c k : Nat) (e : L1E) : (s.setL1 c k e).wstore = s.wstore := rfl
@[simp] theorem setL1_wsPoison (c k : Nat) (e : L1E) : (s.setL1 c k e).wsPoison = s.wsPoison := rfl
@[simp] theorem setL1_wsReaders (c k : Nat) (e : L1E) : (s.setL1 c k e).wsReaders = s.wsReaders := rfl
@[simp] theorem setL1_wsWrite (c k : Nat) (e : L1E) : (s.setL1 c k e).wsWrite = s.wsWrite := rfl
@[simp] theorem setL1_blocks (c k : Nat) (e : L1E) : (s.setL1 c k e).blocks = s.blocks := rfl
@[simp] theorem setL1_accs (c k : Nat) (e : L1E) : (s.setL1 c k e).accs = s.accs := rfl
@[simp] theorem setL1_nextId (c k : Nat) (e : L1E) : (s.setL1 c k e).nextId = s.nextId := rfl
@[simp] theorem setL1_dir (c k : Nat) (e : L1E) : (s.setL1 c k e).dir = s.dir := rfl
@[simp] theorem setL1_net (c k : Nat) (e : L1E) : (s.setL1 c k e).net = s.net := rfl
@[simp] theorem setL1_flits (c k : Nat) (e : L1E) : (s.setL1 c k e).flits = s.flits := rfl
@[simp] theorem setL1_credits (c k : Nat) (e : L1E) : (s.setL1 c k e).credits = s.credits := rfl
@[simp] theorem setL1_vcs (c k : Nat) (e : L1E) : (s.setL1 c k e).vcs = s.vcs := rfl
@[simp] theorem setL1_pkts (c k : Nat) (e : L1E) : (s.setL1 c k e).pkts = s.pkts := rfl
@[simp] theorem setL1_stallAt (c k : Nat) (e : L1E) : (s.setL1 c k e).stallAt = s.stallAt := rfl
@[simp] theorem setL1_repl (c k : Nat) (e : L1E) : (s.setL1 c k e).repl = s.repl := rfl
@[simp] theorem setL1_hold (c k : Nat) (e : L1E) : (s.setL1 c k e).hold = s.hold := rfl
@[simp] theorem setL1_xlt (c k : Nat) (e : L1E) : (s.setL1 c k e).xlt = s.xlt := rfl
@[simp] theorem setL1_fab (c k : Nat) (e : L1E) : (s.setL1 c k e).fab = s.fab := rfl
@[simp] theorem setL1_hom (c k : Nat) (e : L1E) : (s.setL1 c k e).hom = s.hom := rfl
@[simp] theorem setL1_mnd (c k : Nat) (e : L1E) : (s.setL1 c k e).mnd = s.mnd := rfl
@[simp] theorem setL1_dsp (c k : Nat) (e : L1E) : (s.setL1 c k e).dsp = s.dsp := rfl
@[simp] theorem setL1_trp (c k : Nat) (e : L1E) : (s.setL1 c k e).trp = s.trp := rfl
@[simp] theorem setL1_hst (c k : Nat) (e : L1E) : (s.setL1 c k e).hst = s.hst := rfl
@[simp] theorem setL1_pkg (c k : Nat) (e : L1E) : (s.setL1 c k e).pkg = s.pkg := rfl
@[simp] theorem setL1_counters (c k : Nat) (e : L1E) : (s.setL1 c k e).counters = s.counters := rfl

/-! ### delL1 -/

@[simp] theorem delL1_agenda (c k : Nat) : (s.delL1 c k).agenda = s.agenda := rfl
@[simp] theorem delL1_now (c k : Nat) : (s.delL1 c k).now = s.now := rfl
@[simp] theorem delL1_cur (c k : Nat) : (s.delL1 c k).cur = s.cur := rfl
@[simp] theorem delL1_out (c k : Nat) : (s.delL1 c k).out = s.out := rfl
@[simp] theorem delL1_mem (c k : Nat) : (s.delL1 c k).mem = s.mem := rfl
@[simp] theorem delL1_wstore (c k : Nat) : (s.delL1 c k).wstore = s.wstore := rfl
@[simp] theorem delL1_wsPoison (c k : Nat) : (s.delL1 c k).wsPoison = s.wsPoison := rfl
@[simp] theorem delL1_wsReaders (c k : Nat) : (s.delL1 c k).wsReaders = s.wsReaders := rfl
@[simp] theorem delL1_wsWrite (c k : Nat) : (s.delL1 c k).wsWrite = s.wsWrite := rfl
@[simp] theorem delL1_blocks (c k : Nat) : (s.delL1 c k).blocks = s.blocks := rfl
@[simp] theorem delL1_accs (c k : Nat) : (s.delL1 c k).accs = s.accs := rfl
@[simp] theorem delL1_nextId (c k : Nat) : (s.delL1 c k).nextId = s.nextId := rfl
@[simp] theorem delL1_dir (c k : Nat) : (s.delL1 c k).dir = s.dir := rfl
@[simp] theorem delL1_net (c k : Nat) : (s.delL1 c k).net = s.net := rfl
@[simp] theorem delL1_flits (c k : Nat) : (s.delL1 c k).flits = s.flits := rfl
@[simp] theorem delL1_credits (c k : Nat) : (s.delL1 c k).credits = s.credits := rfl
@[simp] theorem delL1_vcs (c k : Nat) : (s.delL1 c k).vcs = s.vcs := rfl
@[simp] theorem delL1_pkts (c k : Nat) : (s.delL1 c k).pkts = s.pkts := rfl
@[simp] theorem delL1_stallAt (c k : Nat) : (s.delL1 c k).stallAt = s.stallAt := rfl
@[simp] theorem delL1_repl (c k : Nat) : (s.delL1 c k).repl = s.repl := rfl
@[simp] theorem delL1_hold (c k : Nat) : (s.delL1 c k).hold = s.hold := rfl
@[simp] theorem delL1_xlt (c k : Nat) : (s.delL1 c k).xlt = s.xlt := rfl
@[simp] theorem delL1_fab (c k : Nat) : (s.delL1 c k).fab = s.fab := rfl
@[simp] theorem delL1_hom (c k : Nat) : (s.delL1 c k).hom = s.hom := rfl
@[simp] theorem delL1_mnd (c k : Nat) : (s.delL1 c k).mnd = s.mnd := rfl
@[simp] theorem delL1_dsp (c k : Nat) : (s.delL1 c k).dsp = s.dsp := rfl
@[simp] theorem delL1_trp (c k : Nat) : (s.delL1 c k).trp = s.trp := rfl
@[simp] theorem delL1_hst (c k : Nat) : (s.delL1 c k).hst = s.hst := rfl
@[simp] theorem delL1_pkg (c k : Nat) : (s.delL1 c k).pkg = s.pkg := rfl
@[simp] theorem delL1_counters (c k : Nat) : (s.delL1 c k).counters = s.counters := rfl

/-! ### setGrid -/

@[simp] theorem setGrid_agenda (g : Grid) : (s.setGrid g).agenda = s.agenda := rfl
@[simp] theorem setGrid_now (g : Grid) : (s.setGrid g).now = s.now := rfl
@[simp] theorem setGrid_cur (g : Grid) : (s.setGrid g).cur = s.cur := rfl
@[simp] theorem setGrid_out (g : Grid) : (s.setGrid g).out = s.out := rfl
@[simp] theorem setGrid_mem (g : Grid) : (s.setGrid g).mem = s.mem := rfl
@[simp] theorem setGrid_wstore (g : Grid) : (s.setGrid g).wstore = s.wstore := rfl
@[simp] theorem setGrid_wsPoison (g : Grid) : (s.setGrid g).wsPoison = s.wsPoison := rfl
@[simp] theorem setGrid_wsReaders (g : Grid) : (s.setGrid g).wsReaders = s.wsReaders := rfl
@[simp] theorem setGrid_wsWrite (g : Grid) : (s.setGrid g).wsWrite = s.wsWrite := rfl
@[simp] theorem setGrid_blocks (g : Grid) : (s.setGrid g).blocks = s.blocks := rfl
@[simp] theorem setGrid_cores (g : Grid) : (s.setGrid g).cores = s.cores := rfl
@[simp] theorem setGrid_accs (g : Grid) : (s.setGrid g).accs = s.accs := rfl
@[simp] theorem setGrid_nextId (g : Grid) : (s.setGrid g).nextId = s.nextId := rfl
@[simp] theorem setGrid_dir (g : Grid) : (s.setGrid g).dir = s.dir := rfl
@[simp] theorem setGrid_net (g : Grid) : (s.setGrid g).net = s.net := rfl
@[simp] theorem setGrid_flits (g : Grid) : (s.setGrid g).flits = s.flits := rfl
@[simp] theorem setGrid_credits (g : Grid) : (s.setGrid g).credits = s.credits := rfl
@[simp] theorem setGrid_vcs (g : Grid) : (s.setGrid g).vcs = s.vcs := rfl
@[simp] theorem setGrid_pkts (g : Grid) : (s.setGrid g).pkts = s.pkts := rfl
@[simp] theorem setGrid_stallAt (g : Grid) : (s.setGrid g).stallAt = s.stallAt := rfl
@[simp] theorem setGrid_repl (g : Grid) : (s.setGrid g).repl = s.repl := rfl
@[simp] theorem setGrid_hold (g : Grid) : (s.setGrid g).hold = s.hold := rfl
@[simp] theorem setGrid_xlt (g : Grid) : (s.setGrid g).xlt = s.xlt := rfl
@[simp] theorem setGrid_fab (g : Grid) : (s.setGrid g).fab = s.fab := rfl
@[simp] theorem setGrid_hom (g : Grid) : (s.setGrid g).hom = s.hom := rfl
@[simp] theorem setGrid_mnd (g : Grid) : (s.setGrid g).mnd = s.mnd := rfl
@[simp] theorem setGrid_trp (g : Grid) : (s.setGrid g).trp = s.trp := rfl
@[simp] theorem setGrid_hst (g : Grid) : (s.setGrid g).hst = s.hst := rfl
@[simp] theorem setGrid_pkg (g : Grid) : (s.setGrid g).pkg = s.pkg := rfl
@[simp] theorem setGrid_counters (g : Grid) : (s.setGrid g).counters = s.counters := rfl

/-! ### emit -/

@[simp] theorem emit_agenda (o : Out) : (s.emit o).agenda = s.agenda := rfl
@[simp] theorem emit_now (o : Out) : (s.emit o).now = s.now := rfl
@[simp] theorem emit_cur (o : Out) : (s.emit o).cur = s.cur := rfl
@[simp] theorem emit_mem (o : Out) : (s.emit o).mem = s.mem := rfl
@[simp] theorem emit_wstore (o : Out) : (s.emit o).wstore = s.wstore := rfl
@[simp] theorem emit_wsPoison (o : Out) : (s.emit o).wsPoison = s.wsPoison := rfl
@[simp] theorem emit_wsReaders (o : Out) : (s.emit o).wsReaders = s.wsReaders := rfl
@[simp] theorem emit_wsWrite (o : Out) : (s.emit o).wsWrite = s.wsWrite := rfl
@[simp] theorem emit_blocks (o : Out) : (s.emit o).blocks = s.blocks := rfl
@[simp] theorem emit_cores (o : Out) : (s.emit o).cores = s.cores := rfl
@[simp] theorem emit_accs (o : Out) : (s.emit o).accs = s.accs := rfl
@[simp] theorem emit_nextId (o : Out) : (s.emit o).nextId = s.nextId := rfl
@[simp] theorem emit_dir (o : Out) : (s.emit o).dir = s.dir := rfl
@[simp] theorem emit_net (o : Out) : (s.emit o).net = s.net := rfl
@[simp] theorem emit_flits (o : Out) : (s.emit o).flits = s.flits := rfl
@[simp] theorem emit_credits (o : Out) : (s.emit o).credits = s.credits := rfl
@[simp] theorem emit_vcs (o : Out) : (s.emit o).vcs = s.vcs := rfl
@[simp] theorem emit_pkts (o : Out) : (s.emit o).pkts = s.pkts := rfl
@[simp] theorem emit_stallAt (o : Out) : (s.emit o).stallAt = s.stallAt := rfl
@[simp] theorem emit_repl (o : Out) : (s.emit o).repl = s.repl := rfl
@[simp] theorem emit_hold (o : Out) : (s.emit o).hold = s.hold := rfl
@[simp] theorem emit_xlt (o : Out) : (s.emit o).xlt = s.xlt := rfl
@[simp] theorem emit_fab (o : Out) : (s.emit o).fab = s.fab := rfl
@[simp] theorem emit_hom (o : Out) : (s.emit o).hom = s.hom := rfl
@[simp] theorem emit_mnd (o : Out) : (s.emit o).mnd = s.mnd := rfl
@[simp] theorem emit_dsp (o : Out) : (s.emit o).dsp = s.dsp := rfl
@[simp] theorem emit_trp (o : Out) : (s.emit o).trp = s.trp := rfl
@[simp] theorem emit_hst (o : Out) : (s.emit o).hst = s.hst := rfl
@[simp] theorem emit_pkg (o : Out) : (s.emit o).pkg = s.pkg := rfl
@[simp] theorem emit_counters (o : Out) : (s.emit o).counters = s.counters := rfl

/-! ### send -/

@[simp] theorem send_agenda (m : Msg) : (s.send m).agenda = s.agenda := rfl
@[simp] theorem send_now (m : Msg) : (s.send m).now = s.now := rfl
@[simp] theorem send_cur (m : Msg) : (s.send m).cur = s.cur := rfl
@[simp] theorem send_out (m : Msg) : (s.send m).out = s.out := rfl
@[simp] theorem send_mem (m : Msg) : (s.send m).mem = s.mem := rfl
@[simp] theorem send_wstore (m : Msg) : (s.send m).wstore = s.wstore := rfl
@[simp] theorem send_wsPoison (m : Msg) : (s.send m).wsPoison = s.wsPoison := rfl
@[simp] theorem send_wsReaders (m : Msg) : (s.send m).wsReaders = s.wsReaders := rfl
@[simp] theorem send_wsWrite (m : Msg) : (s.send m).wsWrite = s.wsWrite := rfl
@[simp] theorem send_blocks (m : Msg) : (s.send m).blocks = s.blocks := rfl
@[simp] theorem send_cores (m : Msg) : (s.send m).cores = s.cores := rfl
@[simp] theorem send_accs (m : Msg) : (s.send m).accs = s.accs := rfl
@[simp] theorem send_nextId (m : Msg) : (s.send m).nextId = s.nextId := rfl
@[simp] theorem send_dir (m : Msg) : (s.send m).dir = s.dir := rfl
@[simp] theorem send_flits (m : Msg) : (s.send m).flits = s.flits ++ m.flits s.pkg.caps s.now s.pkts := rfl
@[simp] theorem send_credits (m : Msg) : (s.send m).credits = s.credits := rfl
@[simp] theorem send_vcs (m : Msg) : (s.send m).vcs = s.vcs := rfl
@[simp] theorem send_pkts (m : Msg) : (s.send m).pkts = s.pkts + 1 := rfl
@[simp] theorem send_stallAt (m : Msg) : (s.send m).stallAt = s.stallAt := rfl
@[simp] theorem send_repl (m : Msg) : (s.send m).repl = s.repl := rfl
@[simp] theorem send_hold (m : Msg) : (s.send m).hold = s.hold := rfl
@[simp] theorem send_xlt (m : Msg) : (s.send m).xlt = s.xlt := rfl
@[simp] theorem send_fab (m : Msg) : (s.send m).fab = s.fab := rfl
@[simp] theorem send_hom (m : Msg) : (s.send m).hom = s.hom := rfl
@[simp] theorem send_mnd (m : Msg) : (s.send m).mnd = s.mnd := rfl
@[simp] theorem send_dsp (m : Msg) : (s.send m).dsp = s.dsp := rfl
@[simp] theorem send_trp (m : Msg) : (s.send m).trp = s.trp := rfl
@[simp] theorem send_hst (m : Msg) : (s.send m).hst = s.hst := rfl
@[simp] theorem send_pkg (m : Msg) : (s.send m).pkg = s.pkg := rfl
@[simp] theorem send_counters (m : Msg) : (s.send m).counters = s.counters := rfl

/-! ### modBlk -/

@[simp] theorem modBlk_agenda (b : Nat) (f : Block → Block) : (s.modBlk b f).agenda = s.agenda := by unfold modBlk; split <;> rfl
@[simp] theorem modBlk_now (b : Nat) (f : Block → Block) : (s.modBlk b f).now = s.now := by unfold modBlk; split <;> rfl
@[simp] theorem modBlk_cur (b : Nat) (f : Block → Block) : (s.modBlk b f).cur = s.cur := by unfold modBlk; split <;> rfl
@[simp] theorem modBlk_out (b : Nat) (f : Block → Block) : (s.modBlk b f).out = s.out := by unfold modBlk; split <;> rfl
@[simp] theorem modBlk_mem (b : Nat) (f : Block → Block) : (s.modBlk b f).mem = s.mem := by unfold modBlk; split <;> rfl
@[simp] theorem modBlk_wstore (b : Nat) (f : Block → Block) : (s.modBlk b f).wstore = s.wstore := by unfold modBlk; split <;> rfl
@[simp] theorem modBlk_wsPoison (b : Nat) (f : Block → Block) : (s.modBlk b f).wsPoison = s.wsPoison := by unfold modBlk; split <;> rfl
@[simp] theorem modBlk_wsReaders (b : Nat) (f : Block → Block) : (s.modBlk b f).wsReaders = s.wsReaders := by unfold modBlk; split <;> rfl
@[simp] theorem modBlk_wsWrite (b : Nat) (f : Block → Block) : (s.modBlk b f).wsWrite = s.wsWrite := by unfold modBlk; split <;> rfl
@[simp] theorem modBlk_cores (b : Nat) (f : Block → Block) : (s.modBlk b f).cores = s.cores := by unfold modBlk; split <;> rfl
@[simp] theorem modBlk_accs (b : Nat) (f : Block → Block) : (s.modBlk b f).accs = s.accs := by unfold modBlk; split <;> rfl
@[simp] theorem modBlk_nextId (b : Nat) (f : Block → Block) : (s.modBlk b f).nextId = s.nextId := by unfold modBlk; split <;> rfl
@[simp] theorem modBlk_dir (b : Nat) (f : Block → Block) : (s.modBlk b f).dir = s.dir := by unfold modBlk; split <;> rfl
@[simp] theorem modBlk_net (b : Nat) (f : Block → Block) : (s.modBlk b f).net = s.net := by unfold modBlk; split <;> rfl
@[simp] theorem modBlk_flits (b : Nat) (f : Block → Block) : (s.modBlk b f).flits = s.flits := by unfold modBlk; split <;> rfl
@[simp] theorem modBlk_credits (b : Nat) (f : Block → Block) : (s.modBlk b f).credits = s.credits := by unfold modBlk; split <;> rfl
@[simp] theorem modBlk_vcs (b : Nat) (f : Block → Block) : (s.modBlk b f).vcs = s.vcs := by unfold modBlk; split <;> rfl
@[simp] theorem modBlk_pkts (b : Nat) (f : Block → Block) : (s.modBlk b f).pkts = s.pkts := by unfold modBlk; split <;> rfl
@[simp] theorem modBlk_stallAt (b : Nat) (f : Block → Block) : (s.modBlk b f).stallAt = s.stallAt := by unfold modBlk; split <;> rfl
@[simp] theorem modBlk_repl (b : Nat) (f : Block → Block) : (s.modBlk b f).repl = s.repl := by unfold modBlk; split <;> rfl
@[simp] theorem modBlk_hold (b : Nat) (f : Block → Block) : (s.modBlk b f).hold = s.hold := by unfold modBlk; split <;> rfl
@[simp] theorem modBlk_xlt (b : Nat) (f : Block → Block) : (s.modBlk b f).xlt = s.xlt := by unfold modBlk; split <;> rfl
@[simp] theorem modBlk_fab (b : Nat) (f : Block → Block) : (s.modBlk b f).fab = s.fab := by unfold modBlk; split <;> rfl
@[simp] theorem modBlk_hom (b : Nat) (f : Block → Block) : (s.modBlk b f).hom = s.hom := by unfold modBlk; split <;> rfl
@[simp] theorem modBlk_mnd (b : Nat) (f : Block → Block) : (s.modBlk b f).mnd = s.mnd := by unfold modBlk; split <;> rfl
@[simp] theorem modBlk_dsp (b : Nat) (f : Block → Block) : (s.modBlk b f).dsp = s.dsp := by unfold modBlk; split <;> rfl
@[simp] theorem modBlk_trp (b : Nat) (f : Block → Block) : (s.modBlk b f).trp = s.trp := by unfold modBlk; split <;> rfl
@[simp] theorem modBlk_hst (b : Nat) (f : Block → Block) : (s.modBlk b f).hst = s.hst := by unfold modBlk; split <;> rfl
@[simp] theorem modBlk_pkg (b : Nat) (f : Block → Block) : (s.modBlk b f).pkg = s.pkg := by unfold modBlk; split <;> rfl
@[simp] theorem modBlk_counters (b : Nat) (f : Block → Block) : (s.modBlk b f).counters = s.counters := by unfold modBlk; split <;> rfl

/-! ### modGrp -/

@[simp] theorem modGrp_agenda (b g : Nat) (f : Group → Group) : (s.modGrp b g f).agenda = s.agenda := modBlk_agenda s b _
@[simp] theorem modGrp_now (b g : Nat) (f : Group → Group) : (s.modGrp b g f).now = s.now := modBlk_now s b _
@[simp] theorem modGrp_cur (b g : Nat) (f : Group → Group) : (s.modGrp b g f).cur = s.cur := modBlk_cur s b _
@[simp] theorem modGrp_out (b g : Nat) (f : Group → Group) : (s.modGrp b g f).out = s.out := modBlk_out s b _
@[simp] theorem modGrp_mem (b g : Nat) (f : Group → Group) : (s.modGrp b g f).mem = s.mem := modBlk_mem s b _
@[simp] theorem modGrp_wstore (b g : Nat) (f : Group → Group) : (s.modGrp b g f).wstore = s.wstore := modBlk_wstore s b _
@[simp] theorem modGrp_wsPoison (b g : Nat) (f : Group → Group) : (s.modGrp b g f).wsPoison = s.wsPoison := modBlk_wsPoison s b _
@[simp] theorem modGrp_wsReaders (b g : Nat) (f : Group → Group) : (s.modGrp b g f).wsReaders = s.wsReaders := modBlk_wsReaders s b _
@[simp] theorem modGrp_wsWrite (b g : Nat) (f : Group → Group) : (s.modGrp b g f).wsWrite = s.wsWrite := modBlk_wsWrite s b _
@[simp] theorem modGrp_cores (b g : Nat) (f : Group → Group) : (s.modGrp b g f).cores = s.cores := modBlk_cores s b _
@[simp] theorem modGrp_accs (b g : Nat) (f : Group → Group) : (s.modGrp b g f).accs = s.accs := modBlk_accs s b _
@[simp] theorem modGrp_nextId (b g : Nat) (f : Group → Group) : (s.modGrp b g f).nextId = s.nextId := modBlk_nextId s b _
@[simp] theorem modGrp_dir (b g : Nat) (f : Group → Group) : (s.modGrp b g f).dir = s.dir := modBlk_dir s b _
@[simp] theorem modGrp_net (b g : Nat) (f : Group → Group) : (s.modGrp b g f).net = s.net := modBlk_net s b _
@[simp] theorem modGrp_flits (b g : Nat) (f : Group → Group) : (s.modGrp b g f).flits = s.flits := modBlk_flits s b _
@[simp] theorem modGrp_credits (b g : Nat) (f : Group → Group) : (s.modGrp b g f).credits = s.credits := modBlk_credits s b _
@[simp] theorem modGrp_vcs (b g : Nat) (f : Group → Group) : (s.modGrp b g f).vcs = s.vcs := modBlk_vcs s b _
@[simp] theorem modGrp_pkts (b g : Nat) (f : Group → Group) : (s.modGrp b g f).pkts = s.pkts := modBlk_pkts s b _
@[simp] theorem modGrp_stallAt (b g : Nat) (f : Group → Group) : (s.modGrp b g f).stallAt = s.stallAt := modBlk_stallAt s b _
@[simp] theorem modGrp_repl (b g : Nat) (f : Group → Group) : (s.modGrp b g f).repl = s.repl := modBlk_repl s b _
@[simp] theorem modGrp_hold (b g : Nat) (f : Group → Group) : (s.modGrp b g f).hold = s.hold := modBlk_hold s b _
@[simp] theorem modGrp_xlt (b g : Nat) (f : Group → Group) : (s.modGrp b g f).xlt = s.xlt := modBlk_xlt s b _
@[simp] theorem modGrp_fab (b g : Nat) (f : Group → Group) : (s.modGrp b g f).fab = s.fab := modBlk_fab s b _
@[simp] theorem modGrp_hom (b g : Nat) (f : Group → Group) : (s.modGrp b g f).hom = s.hom := modBlk_hom s b _
@[simp] theorem modGrp_mnd (b g : Nat) (f : Group → Group) : (s.modGrp b g f).mnd = s.mnd := modBlk_mnd s b _
@[simp] theorem modGrp_dsp (b g : Nat) (f : Group → Group) : (s.modGrp b g f).dsp = s.dsp := modBlk_dsp s b _
@[simp] theorem modGrp_trp (b g : Nat) (f : Group → Group) : (s.modGrp b g f).trp = s.trp := modBlk_trp s b _
@[simp] theorem modGrp_hst (b g : Nat) (f : Group → Group) : (s.modGrp b g f).hst = s.hst := modBlk_hst s b _
@[simp] theorem modGrp_pkg (b g : Nat) (f : Group → Group) : (s.modGrp b g f).pkg = s.pkg := modBlk_pkg s b _
@[simp] theorem modGrp_counters (b g : Nat) (f : Group → Group) : (s.modGrp b g f).counters = s.counters := modBlk_counters s b _

/-! ### modThr -/

@[simp] theorem modThr_agenda (b g l : Nat) (f : Thread → Thread) : (s.modThr b g l f).agenda = s.agenda := modGrp_agenda s b g _
@[simp] theorem modThr_now (b g l : Nat) (f : Thread → Thread) : (s.modThr b g l f).now = s.now := modGrp_now s b g _
@[simp] theorem modThr_cur (b g l : Nat) (f : Thread → Thread) : (s.modThr b g l f).cur = s.cur := modGrp_cur s b g _
@[simp] theorem modThr_out (b g l : Nat) (f : Thread → Thread) : (s.modThr b g l f).out = s.out := modGrp_out s b g _
@[simp] theorem modThr_mem (b g l : Nat) (f : Thread → Thread) : (s.modThr b g l f).mem = s.mem := modGrp_mem s b g _
@[simp] theorem modThr_wstore (b g l : Nat) (f : Thread → Thread) : (s.modThr b g l f).wstore = s.wstore := modGrp_wstore s b g _
@[simp] theorem modThr_wsPoison (b g l : Nat) (f : Thread → Thread) : (s.modThr b g l f).wsPoison = s.wsPoison := modGrp_wsPoison s b g _
@[simp] theorem modThr_wsReaders (b g l : Nat) (f : Thread → Thread) : (s.modThr b g l f).wsReaders = s.wsReaders := modGrp_wsReaders s b g _
@[simp] theorem modThr_wsWrite (b g l : Nat) (f : Thread → Thread) : (s.modThr b g l f).wsWrite = s.wsWrite := modGrp_wsWrite s b g _
@[simp] theorem modThr_cores (b g l : Nat) (f : Thread → Thread) : (s.modThr b g l f).cores = s.cores := modGrp_cores s b g _
@[simp] theorem modThr_accs (b g l : Nat) (f : Thread → Thread) : (s.modThr b g l f).accs = s.accs := modGrp_accs s b g _
@[simp] theorem modThr_nextId (b g l : Nat) (f : Thread → Thread) : (s.modThr b g l f).nextId = s.nextId := modGrp_nextId s b g _
@[simp] theorem modThr_dir (b g l : Nat) (f : Thread → Thread) : (s.modThr b g l f).dir = s.dir := modGrp_dir s b g _
@[simp] theorem modThr_net (b g l : Nat) (f : Thread → Thread) : (s.modThr b g l f).net = s.net := modGrp_net s b g _
@[simp] theorem modThr_flits (b g l : Nat) (f : Thread → Thread) : (s.modThr b g l f).flits = s.flits := modGrp_flits s b g _
@[simp] theorem modThr_credits (b g l : Nat) (f : Thread → Thread) : (s.modThr b g l f).credits = s.credits := modGrp_credits s b g _
@[simp] theorem modThr_vcs (b g l : Nat) (f : Thread → Thread) : (s.modThr b g l f).vcs = s.vcs := modGrp_vcs s b g _
@[simp] theorem modThr_pkts (b g l : Nat) (f : Thread → Thread) : (s.modThr b g l f).pkts = s.pkts := modGrp_pkts s b g _
@[simp] theorem modThr_stallAt (b g l : Nat) (f : Thread → Thread) : (s.modThr b g l f).stallAt = s.stallAt := modGrp_stallAt s b g _
@[simp] theorem modThr_repl (b g l : Nat) (f : Thread → Thread) : (s.modThr b g l f).repl = s.repl := modGrp_repl s b g _
@[simp] theorem modThr_hold (b g l : Nat) (f : Thread → Thread) : (s.modThr b g l f).hold = s.hold := modGrp_hold s b g _
@[simp] theorem modThr_xlt (b g l : Nat) (f : Thread → Thread) : (s.modThr b g l f).xlt = s.xlt := modGrp_xlt s b g _
@[simp] theorem modThr_fab (b g l : Nat) (f : Thread → Thread) : (s.modThr b g l f).fab = s.fab := modGrp_fab s b g _
@[simp] theorem modThr_hom (b g l : Nat) (f : Thread → Thread) : (s.modThr b g l f).hom = s.hom := modGrp_hom s b g _
@[simp] theorem modThr_mnd (b g l : Nat) (f : Thread → Thread) : (s.modThr b g l f).mnd = s.mnd := modGrp_mnd s b g _
@[simp] theorem modThr_dsp (b g l : Nat) (f : Thread → Thread) : (s.modThr b g l f).dsp = s.dsp := modGrp_dsp s b g _
@[simp] theorem modThr_trp (b g l : Nat) (f : Thread → Thread) : (s.modThr b g l f).trp = s.trp := modGrp_trp s b g _
@[simp] theorem modThr_hst (b g l : Nat) (f : Thread → Thread) : (s.modThr b g l f).hst = s.hst := modGrp_hst s b g _
@[simp] theorem modThr_pkg (b g l : Nat) (f : Thread → Thread) : (s.modThr b g l f).pkg = s.pkg := modGrp_pkg s b g _
@[simp] theorem modThr_counters (b g l : Nat) (f : Thread → Thread) : (s.modThr b g l f).counters = s.counters := modGrp_counters s b g _

/-! ### progress -/

@[simp] theorem progress_agenda (b : Nat) : (s.progress b).agenda = s.agenda := modBlk_agenda s b _
@[simp] theorem progress_now (b : Nat) : (s.progress b).now = s.now := modBlk_now s b _
@[simp] theorem progress_cur (b : Nat) : (s.progress b).cur = s.cur := modBlk_cur s b _
@[simp] theorem progress_out (b : Nat) : (s.progress b).out = s.out := modBlk_out s b _
@[simp] theorem progress_mem (b : Nat) : (s.progress b).mem = s.mem := modBlk_mem s b _
@[simp] theorem progress_wstore (b : Nat) : (s.progress b).wstore = s.wstore := modBlk_wstore s b _
@[simp] theorem progress_wsPoison (b : Nat) : (s.progress b).wsPoison = s.wsPoison := modBlk_wsPoison s b _
@[simp] theorem progress_wsReaders (b : Nat) : (s.progress b).wsReaders = s.wsReaders := modBlk_wsReaders s b _
@[simp] theorem progress_wsWrite (b : Nat) : (s.progress b).wsWrite = s.wsWrite := modBlk_wsWrite s b _
@[simp] theorem progress_cores (b : Nat) : (s.progress b).cores = s.cores := modBlk_cores s b _
@[simp] theorem progress_accs (b : Nat) : (s.progress b).accs = s.accs := modBlk_accs s b _
@[simp] theorem progress_nextId (b : Nat) : (s.progress b).nextId = s.nextId := modBlk_nextId s b _
@[simp] theorem progress_dir (b : Nat) : (s.progress b).dir = s.dir := modBlk_dir s b _
@[simp] theorem progress_net (b : Nat) : (s.progress b).net = s.net := modBlk_net s b _
@[simp] theorem progress_flits (b : Nat) : (s.progress b).flits = s.flits := modBlk_flits s b _
@[simp] theorem progress_credits (b : Nat) : (s.progress b).credits = s.credits := modBlk_credits s b _
@[simp] theorem progress_vcs (b : Nat) : (s.progress b).vcs = s.vcs := modBlk_vcs s b _
@[simp] theorem progress_pkts (b : Nat) : (s.progress b).pkts = s.pkts := modBlk_pkts s b _
@[simp] theorem progress_stallAt (b : Nat) : (s.progress b).stallAt = s.stallAt := modBlk_stallAt s b _
@[simp] theorem progress_repl (b : Nat) : (s.progress b).repl = s.repl := modBlk_repl s b _
@[simp] theorem progress_hold (b : Nat) : (s.progress b).hold = s.hold := modBlk_hold s b _
@[simp] theorem progress_xlt (b : Nat) : (s.progress b).xlt = s.xlt := modBlk_xlt s b _
@[simp] theorem progress_fab (b : Nat) : (s.progress b).fab = s.fab := modBlk_fab s b _
@[simp] theorem progress_hom (b : Nat) : (s.progress b).hom = s.hom := modBlk_hom s b _
@[simp] theorem progress_mnd (b : Nat) : (s.progress b).mnd = s.mnd := modBlk_mnd s b _
@[simp] theorem progress_dsp (b : Nat) : (s.progress b).dsp = s.dsp := modBlk_dsp s b _
@[simp] theorem progress_trp (b : Nat) : (s.progress b).trp = s.trp := modBlk_trp s b _
@[simp] theorem progress_hst (b : Nat) : (s.progress b).hst = s.hst := modBlk_hst s b _
@[simp] theorem progress_pkg (b : Nat) : (s.progress b).pkg = s.pkg := modBlk_pkg s b _
@[simp] theorem progress_counters (b : Nat) : (s.progress b).counters = s.counters := modBlk_counters s b _

@[simp] theorem endTurn_cur : s.endTurn.cur = .none := rfl

end Sys2Proof.Machine.State
end

