-- ==== Sys2Proof/Laws/Views.lean ====
section
/-! SUPPORT. What the accessors of blocks, groups and threads find after an update, and lists changed lane by lane. -/

namespace Sys2Proof.Machine

/-! ### Lists changed at a list of places -/

theorem getElem?_foldl_modify {α : Type} (f : Nat → α → α) : ∀ (ls : List Nat) (ts : List α) (j : Nat), ls.Nodup →
    (ls.foldl (fun ts l => ts.modify l (f l)) ts)[j]? = if j ∈ ls then (ts[j]?).map (f j) else ts[j]? := by
  intro ls
  induction ls with
  | nil => intro ts j _; simp
  | cons l ls ih =>
    intro ts j hn
    rw [List.nodup_cons] at hn
    rw [List.foldl_cons, ih _ _ hn.2]
    by_cases hj : j = l
    · subst hj; simp [hn.1]
    · have h2 : ¬ l = j := fun h => hj h.symm
      by_cases hm : j ∈ ls <;> simp [hm, hj, h2]

theorem lanesOf_nodup (m : BitVec 32) : (lanesOf m).Nodup := List.nodup_range.filter _

theorem mem_lanesOf {m : BitVec 32} {l : Nat} : l ∈ lanesOf m ↔ m.getLsbD l = true := by
  constructor
  · intro h; exact (List.mem_filter.mp h).2
  · intro h
    refine List.mem_filter.mpr ⟨?_, h⟩
    rw [List.mem_range]
    rcases Nat.lt_or_ge l 32 with hl | hl
    · exact hl
    · rw [BitVec.getLsbD_of_ge m l hl] at h; cases h

theorem Group.modLanes_threads (y : Group) (ls : List Nat) (f : Nat → Thread → Thread) (j : Nat) (h : ls.Nodup) :
    (y.modLanes ls f).threads[j]? = if j ∈ ls then (y.threads[j]?).map (f j) else y.threads[j]? :=
  getElem?_foldl_modify f ls y.threads j h

@[simp] theorem Group.modLanes_s (y : Group) (ls : List Nat) (f : Nat → Thread → Thread) : (y.modLanes ls f).s = y.s := rfl

/-! ### Blocks, groups and threads -/

namespace State

theorem blk?_modBlk_self {s : State} {b : Nat} {x : Block} (f : Block → Block) (h : s.blk? b = some x) :
    (s.modBlk b f).blk? b = some (f x) := by
  simp only [modBlk, h]; exact find?_put_self b (f x) s.blocks

theorem blk?_modBlk_ne (s : State) {b c : Nat} (f : Block → Block) (h : c ≠ b) : (s.modBlk b f).blk? c = s.blk? c := by
  unfold modBlk; split
  · exact find?_put_ne _ s.blocks h
  · rfl

theorem blk?_of_grp? {s : State} {b g : Nat} {y : Group} (h : s.grp? b g = some y) : ∃ x, s.blk? b = some x ∧ x.groups[g]? = some y := by
  unfold grp? at h
  cases hb : s.blk? b with
  | none => simp [hb] at h
  | some x => exact ⟨x, rfl, by simpa [hb] using h⟩

theorem grp?_modGrp_self {s : State} {b g : Nat} {y : Group} (f : Group → Group) (h : s.grp? b g = some y) :
    (s.modGrp b g f).grp? b g = some (f y) := by
  obtain ⟨x, hb, hg⟩ := blk?_of_grp? h
  simp [grp?, modGrp, blk?_modBlk_self _ hb, hg]

theorem grp?_modGrp_other (s : State) {b g g' : Nat} (f : Group → Group) (h : g' ≠ g) :
    (s.modGrp b g f).grp? b g' = s.grp? b g' := by
  unfold grp? modGrp
  cases hb : s.blk? b with
  | none => simp [modBlk, hb]
  | some x =>
    rw [blk?_modBlk_self _ hb]
    simp [Ne.symm h]

theorem grp?_modGrp_ne (s : State) {b g b' g' : Nat} (f : Group → Group) (h : b' ≠ b) :
    (s.modGrp b g f).grp? b' g' = s.grp? b' g' := by
  unfold grp? modGrp
  rw [blk?_modBlk_ne s _ h]

theorem thr?_modThr_self {s : State} {b g l : Nat} {t : Thread} (f : Thread → Thread) (h : s.thr? b g l = some t) :
    (s.modThr b g l f).thr? b g l = some (f t) := by
  unfold thr? at h
  cases hg : s.grp? b g with
  | none => simp [hg] at h
  | some y =>
    have hl : y.threads[l]? = some t := by simpa [hg] using h
    simp [thr?, modThr, grp?_modGrp_self _ hg, hl]

theorem thr?_modThr_lane (s : State) {b g l l' : Nat} (f : Thread → Thread) (h : l' ≠ l) :
    (s.modThr b g l f).thr? b g l' = s.thr? b g l' := by
  unfold thr? modThr
  cases hg : s.grp? b g with
  | none =>
    have : (s.modGrp b g fun x => { x with threads := x.threads.modify l f }).grp? b g = none := by
      unfold grp? at hg ⊢
      unfold modGrp
      cases hb : s.blk? b with
      | none => simp [modBlk, hb]
      | some x =>
        rw [blk?_modBlk_self _ hb]
        simp [hb] at hg
        simp [List.getElem?_eq_none hg]
    rw [this]
  | some y => rw [grp?_modGrp_self _ hg]; simp [Ne.symm h]

theorem thr?_of_grp {s : State} {b g : Nat} {y : Group} (h : s.grp? b g = some y) (l : Nat) : s.thr? b g l = y.threads[l]? := by
  simp [thr?, h]

theorem core_modCore_self (s : State) (c : Nat) (f : Core → Core) (h : f (s.core c) ≠ Core.reset) :
    (s.modCore c f).core c = f (s.core c) := getD_putD_self_of_ne c s.cores h

theorem core_modCore_ne (s : State) {c d : Nat} (f : Core → Core) (h : d ≠ c) : (s.modCore c f).core d = s.core d :=
  getD_putD_ne Core.reset _ s.cores h

theorem blk?_of_blocks {s t : State} (h : t.blocks = s.blocks) (b : Nat) : t.blk? b = s.blk? b := by
  simp [blk?, h]

theorem grp?_of_blocks {s t : State} (h : t.blocks = s.blocks) (b g : Nat) : t.grp? b g = s.grp? b g := by
  simp [grp?, blk?, h]

theorem thr?_of_blocks {s t : State} (h : t.blocks = s.blocks) (b g l : Nat) : t.thr? b g l = s.thr? b g l := by
  simp [thr?, grp?, blk?, h]

@[simp] theorem blk?_bump (s : State) (r i u n b : Nat) : (s.bump r i u n).blk? b = s.blk? b := rfl
@[simp] theorem grp?_bump (s : State) (r i u n b g : Nat) : (s.bump r i u n).grp? b g = s.grp? b g := rfl
@[simp] theorem thr?_bump (s : State) (r i u n b g l : Nat) : (s.bump r i u n).thr? b g l = s.thr? b g l := rfl
@[simp] theorem blk?_endTurn (s : State) (b : Nat) : s.endTurn.blk? b = s.blk? b := rfl
@[simp] theorem grp?_endTurn (s : State) (b g : Nat) : s.endTurn.grp? b g = s.grp? b g := rfl
@[simp] theorem thr?_endTurn (s : State) (b g l : Nat) : s.endTurn.thr? b g l = s.thr? b g l := rfl

end State

end Sys2Proof.Machine
end

