-- ==== Sys2Proof/Laws/Issue.lean ====
section
/-! SUPPORT. The issue of one instruction: when it is performed, and all that moving its issue group on changes. -/

namespace Sys2Proof.Machine
namespace State

/-- The checks of lanes that all pass leave the state. -/
theorem runChecks_pass {own : State → Cur → Nat → State × Chk} {i : Instr} {c : Cur} {s : State} :
    ∀ {ls : List Nat}, (∀ l ∈ ls, s.laneChecks c i l = .pass ∧ own s c l = (s, .pass)) →
    runChecks own i c s ls = (s, false, [])
  | [], _ => rfl
  | l :: ls, h => by
    have hl := h l (by simp)
    have ht := runChecks_pass (own := own) (i := i) (c := c) (s := s) (ls := ls) fun j hj => h j (by simp [hj])
    simp [runChecks, hl.1, hl.2, ht]

theorem filterMap_none {α β : Type} {f : α → Option β} : ∀ {l : List α}, (∀ a ∈ l, f a = none) → l.filterMap f = []
  | [], _ => rfl
  | a :: l, h => by
    have hr := filterMap_none (f := f) (l := l) fun b hb => h b (List.mem_cons_of_mem a hb)
    simp [h a (by simp), hr]

/-- The lanes of a mask that no listed lane is taken from. -/
@[simp] theorem andNot_maskLanes_nil (m : BitVec 32) : m &&& ~~~(maskLanes []) = m := by
  have : ~~~(maskLanes []) = BitVec.allOnes 32 := by decide
  rw [this, BitVec.and_allOnes]

end State

open State

/-- An instruction of a group that is not basting, with its threads ready, none of its guard-true lanes barred by a
transaction or holding a record that it takes, and every check passed, is performed (R107, R115, R129). -/
theorem issue_performs {i : Instr} {g : Guard} {s : State} {own : State → Cur → Nat → State × Chk}
    {act : State → Cur → List Nat → State} {c : Cur} {y : Group} (hc : s.cur = .simt c)
    (hy : s.grp? c.blk c.grp = some y) (hb : y.bast = none) (hr : s.ready c i = true)
    (hl : ∀ l ∈ s.guardTrue c g, (s.inTxn c l = true → txnAllowed i = true) ∧
      (takesDeferred i = true → s.deferredChk c l = none) ∧ s.laneChecks c i l = .pass)
    (ho : ∀ l ∈ s.guardTrue c g, own s c l = (s, .pass)) :
    issue i g s own act = .next (act (s.advance c) c (s.guardTrue c g)).endTurn := by
  have hbar : (s.guardTrue c g).filter (fun l => s.inTxn c l && !txnAllowed i) = [] := by
    rw [List.filter_eq_nil_iff]
    intro l h
    have := (hl l h).1
    cases h1 : s.inTxn c l <;> simp_all
  have hrec : takesDeferred i = true → (s.guardTrue c g).filterMap (fun l => s.deferredChk c l) = [] := fun ht =>
    filterMap_none fun l h => (hl l h).2.1 ht
  have hgt : (s.guardTrue c g).filter (fun l => !([] : List Nat).contains l) = s.guardTrue c g := by
    simp
  have hchk := runChecks_pass (own := own) (i := i) (c := c) (s := s) (ls := s.guardTrue c g)
    fun l h => ⟨(hl l h).2.2, ho l h⟩
  unfold issue
  simp only [hc, hy, hb, hr, Bool.not_true, Bool.false_eq_true, ↓reduceIte, hbar, abortBarred, List.foldl_nil, hgt,
    andNot_maskLanes_nil, hchk, List.isEmpty_nil]
  by_cases ht : takesDeferred i = true
  · simp [ht, hrec ht, State.advance]
  · simp [ht, State.advance]

theorem Group.moved_threads (c : Cur) (y : Group) (l : Nat) :
    (y.moved c).threads[l]? = if c.lanes.getLsbD l then (y.threads[l]?).map (Thread.moved c) else y.threads[l]? := by
  have := Group.modLanes_threads y (lanesOf c.lanes) (fun _ t => t.moved c) l (lanesOf_nodup c.lanes)
  simp only [mem_lanesOf] at this
  exact this

/-- Two groups differ at most in whether they have started. -/
def Group.sameBut (y z : Group) : Prop := { z with started := y.started } = y

theorem Group.sameBut_refl (y : Group) : y.sameBut y := rfl

theorem startBlocks_grp (s : State) (b g : Nat) :
    ∃ f : Group → Group, (∀ y, f y = y ∨ f y = { y with started := true }) ∧
      s.startBlocks.grp? b g = (s.grp? b g).map f := by
  have key : ∀ bs : Tab Block, ∃ f : Group → Group, (∀ y, f y = y ∨ f y = { y with started := true }) ∧
      ((find? b (bs.map fun (p : Nat × Block) => if s.gateOpen p.2 then
        (p.1, { p.2 with groups := p.2.groups.map fun y => { y with started := true } }) else (p.1, p.2))).bind
        fun x => x.groups[g]?) = ((find? b bs).bind fun x => x.groups[g]?).map f := by
    intro bs
    induction bs with
    | nil => exact ⟨id, fun y => .inl rfl, rfl⟩
    | cons p bs ih =>
      obtain ⟨k, x⟩ := p
      by_cases hk : b = k
      · subst hk
        by_cases ho : s.gateOpen x = true
        · exact ⟨fun y => { y with started := true }, fun y => .inr rfl, by simp [ho, find?]⟩
        · exact ⟨id, fun y => .inl rfl, by simp [ho, find?]⟩
      · obtain ⟨f, hf, he⟩ := ih
        refine ⟨f, hf, ?_⟩
        rw [List.map_cons]
        by_cases ho : s.gateOpen x = true
        · simpa [ho, find?, hk] using he
        · simpa [ho, find?, hk] using he
  exact key s.blocks

theorem orderNext_grp (s : State) (x : Block) (b g : Nat) :
    ∃ f : Group → Group, (∀ y, f y = y ∨ f y = { y with started := true }) ∧
      (s.orderNext x).grp? b g = (s.grp? b g).map f := by
  unfold State.orderNext
  split
  · split
    · exact startBlocks_grp _ b g
    · exact ⟨id, fun y => .inl rfl, by simp⟩
  · exact ⟨id, fun y => .inl rfl, by simp⟩

theorem openNext_grp (s : State) (n b g : Nat) :
    ∃ f : Group → Group, (∀ y, f y = y ∨ f y = { y with started := true }) ∧
      (s.openNext n).grp? b g = (s.grp? b g).map f := by
  unfold State.openNext
  split
  · split
    · exact orderNext_grp s _ b g
    · exact ⟨id, fun y => .inl rfl, by simp⟩
  · exact ⟨id, fun y => .inl rfl, by simp⟩

theorem advance_grp? (s : State) (c : Cur) (b g : Nat) :
    (s.advance c).grp? b g = (((s.modGrp c.blk c.grp (Group.moved c)).markLate c).openNext c.blk).grp? b g := rfl

theorem markLate_grp? (s : State) (c : Cur) (b g : Nat) : (s.markLate c).grp? b g = s.grp? b g := rfl

/-- The group of an issue group that moves on. -/
theorem advance_grp {s : State} {c : Cur} {y : Group} (h : s.grp? c.blk c.grp = some y) :
    ∃ y', (s.advance c).grp? c.blk c.grp = some y' ∧ (y' = y.moved c ∨ y' = { y.moved c with started := true }) := by
  obtain ⟨f, hf, he⟩ := openNext_grp ((s.modGrp c.blk c.grp (Group.moved c)).markLate c) c.blk c.blk c.grp
  refine ⟨f (y.moved c), ?_, hf _⟩
  rw [advance_grp?, he, markLate_grp?, State.grp?_modGrp_self _ h]
  rfl

/-- Another group is unchanged, but may start. -/
theorem advance_other {s : State} {c : Cur} {b g : Nat} (h : ¬(b = c.blk ∧ g = c.grp)) :
    ∃ f : Group → Group, (∀ y, f y = y ∨ f y = { y with started := true }) ∧
      (s.advance c).grp? b g = (s.grp? b g).map f := by
  obtain ⟨f, hf, he⟩ := openNext_grp ((s.modGrp c.blk c.grp (Group.moved c)).markLate c) c.blk b g
  refine ⟨f, hf, ?_⟩
  rw [advance_grp?, he, markLate_grp?]
  congr 1
  by_cases hb : b = c.blk
  · subst hb
    exact State.grp?_modGrp_other s _ fun hg => h ⟨rfl, hg⟩
  · exact State.grp?_modGrp_ne s _ hb

/-! ### What an issue group that moves on leaves -/

namespace State

@[simp] theorem orderNext_agenda (s : State) (x : Block) : (s.orderNext x).agenda = s.agenda := by
  unfold orderNext; repeat' split
  all_goals rfl

@[simp] theorem openNext_agenda (s : State) (b : Nat) : (s.openNext b).agenda = s.agenda := by
  unfold openNext; repeat' split
  all_goals simp

@[simp] theorem markLate_agenda (s : State) (c : Cur) : (s.markLate c).agenda = s.agenda := rfl

@[simp] theorem passOn_agenda (s : State) (c : Cur) : (s.passOn c).agenda = s.agenda := by
  simp [passOn]

@[simp] theorem advance_agenda (s : State) (c : Cur) : (s.advance c).agenda = s.agenda := by
  simp [advance, countIssue]

@[simp] theorem orderNext_now (s : State) (x : Block) : (s.orderNext x).now = s.now := by
  unfold orderNext; repeat' split
  all_goals rfl

@[simp] theorem openNext_now (s : State) (b : Nat) : (s.openNext b).now = s.now := by
  unfold openNext; repeat' split
  all_goals simp

@[simp] theorem markLate_now (s : State) (c : Cur) : (s.markLate c).now = s.now := rfl

@[simp] theorem passOn_now (s : State) (c : Cur) : (s.passOn c).now = s.now := by
  simp [passOn]

@[simp] theorem advance_now (s : State) (c : Cur) : (s.advance c).now = s.now := by
  simp [advance, countIssue]

@[simp] theorem orderNext_cur (s : State) (x : Block) : (s.orderNext x).cur = s.cur := by
  unfold orderNext; repeat' split
  all_goals rfl

@[simp] theorem openNext_cur (s : State) (b : Nat) : (s.openNext b).cur = s.cur := by
  unfold openNext; repeat' split
  all_goals simp

@[simp] theorem markLate_cur (s : State) (c : Cur) : (s.markLate c).cur = s.cur := rfl

@[simp] theorem passOn_cur (s : State) (c : Cur) : (s.passOn c).cur = s.cur := by
  simp [passOn]

@[simp] theorem advance_cur (s : State) (c : Cur) : (s.advance c).cur = s.cur := by
  simp [advance, countIssue]

@[simp] theorem orderNext_out (s : State) (x : Block) : (s.orderNext x).out = s.out := by
  unfold orderNext; repeat' split
  all_goals rfl

@[simp] theorem openNext_out (s : State) (b : Nat) : (s.openNext b).out = s.out := by
  unfold openNext; repeat' split
  all_goals simp

@[simp] theorem markLate_out (s : State) (c : Cur) : (s.markLate c).out = s.out := rfl

@[simp] theorem passOn_out (s : State) (c : Cur) : (s.passOn c).out = s.out := by
  simp [passOn]

@[simp] theorem advance_out (s : State) (c : Cur) : (s.advance c).out = s.out := by
  simp [advance, countIssue]

@[simp] theorem orderNext_mem (s : State) (x : Block) : (s.orderNext x).mem = s.mem := by
  unfold orderNext; repeat' split
  all_goals rfl

@[simp] theorem openNext_mem (s : State) (b : Nat) : (s.openNext b).mem = s.mem := by
  unfold openNext; repeat' split
  all_goals simp

@[simp] theorem markLate_mem (s : State) (c : Cur) : (s.markLate c).mem = s.mem := rfl

@[simp] theorem passOn_mem (s : State) (c : Cur) : (s.passOn c).mem = s.mem := by
  simp [passOn]

@[simp] theorem advance_mem (s : State) (c : Cur) : (s.advance c).mem = s.mem := by
  simp [advance, countIssue]

@[simp] theorem orderNext_wstore (s : State) (x : Block) : (s.orderNext x).wstore = s.wstore := by
  unfold orderNext; repeat' split
  all_goals rfl

@[simp] theorem openNext_wstore (s : State) (b : Nat) : (s.openNext b).wstore = s.wstore := by
  unfold openNext; repeat' split
  all_goals simp

@[simp] theorem markLate_wstore (s : State) (c : Cur) : (s.markLate c).wstore = s.wstore := rfl

@[simp] theorem passOn_wstore (s : State) (c : Cur) : (s.passOn c).wstore = s.wstore := by
  simp [passOn]

@[simp] theorem advance_wstore (s : State) (c : Cur) : (s.advance c).wstore = s.wstore := by
  simp [advance, countIssue]

@[simp] theorem orderNext_wsPoison (s : State) (x : Block) : (s.orderNext x).wsPoison = s.wsPoison := by
  unfold orderNext; repeat' split
  all_goals rfl

@[simp] theorem openNext_wsPoison (s : State) (b : Nat) : (s.openNext b).wsPoison = s.wsPoison := by
  unfold openNext; repeat' split
  all_goals simp

@[simp] theorem markLate_wsPoison (s : State) (c : Cur) : (s.markLate c).wsPoison = s.wsPoison := rfl

@[simp] theorem passOn_wsPoison (s : State) (c : Cur) : (s.passOn c).wsPoison = s.wsPoison := by
  simp [passOn]

@[simp] theorem advance_wsPoison (s : State) (c : Cur) : (s.advance c).wsPoison = s.wsPoison := by
  simp [advance, countIssue]

@[simp] theorem orderNext_wsReaders (s : State) (x : Block) : (s.orderNext x).wsReaders = s.wsReaders := by
  unfold orderNext; repeat' split
  all_goals rfl

@[simp] theorem openNext_wsReaders (s : State) (b : Nat) : (s.openNext b).wsReaders = s.wsReaders := by
  unfold openNext; repeat' split
  all_goals simp

@[simp] theorem markLate_wsReaders (s : State) (c : Cur) : (s.markLate c).wsReaders = s.wsReaders := rfl

@[simp] theorem passOn_wsReaders (s : State) (c : Cur) : (s.passOn c).wsReaders = s.wsReaders := by
  simp [passOn]

@[simp] theorem advance_wsReaders (s : State) (c : Cur) : (s.advance c).wsReaders = s.wsReaders := by
  simp [advance, countIssue]

@[simp] theorem orderNext_wsWrite (s : State) (x : Block) : (s.orderNext x).wsWrite = s.wsWrite := by
  unfold orderNext; repeat' split
  all_goals rfl

@[simp] theorem openNext_wsWrite (s : State) (b : Nat) : (s.openNext b).wsWrite = s.wsWrite := by
  unfold openNext; repeat' split
  all_goals simp

@[simp] theorem markLate_wsWrite (s : State) (c : Cur) : (s.markLate c).wsWrite = s.wsWrite := rfl

@[simp] theorem passOn_wsWrite (s : State) (c : Cur) : (s.passOn c).wsWrite = s.wsWrite := by
  simp [passOn]

@[simp] theorem advance_wsWrite (s : State) (c : Cur) : (s.advance c).wsWrite = s.wsWrite := by
  simp [advance, countIssue]

@[simp] theorem orderNext_cores (s : State) (x : Block) : (s.orderNext x).cores = s.cores := by
  unfold orderNext; repeat' split
  all_goals rfl

@[simp] theorem openNext_cores (s : State) (b : Nat) : (s.openNext b).cores = s.cores := by
  unfold openNext; repeat' split
  all_goals simp

@[simp] theorem markLate_cores (s : State) (c : Cur) : (s.markLate c).cores = s.cores := rfl

@[simp] theorem passOn_cores (s : State) (c : Cur) : (s.passOn c).cores = s.cores := by
  simp [passOn]

@[simp] theorem advance_cores (s : State) (c : Cur) : (s.advance c).cores = s.cores := by
  simp [advance, countIssue]

@[simp] theorem orderNext_nextId (s : State) (x : Block) : (s.orderNext x).nextId = s.nextId := by
  unfold orderNext; repeat' split
  all_goals rfl

@[simp] theorem openNext_nextId (s : State) (b : Nat) : (s.openNext b).nextId = s.nextId := by
  unfold openNext; repeat' split
  all_goals simp

@[simp] theorem markLate_nextId (s : State) (c : Cur) : (s.markLate c).nextId = s.nextId := rfl

@[simp] theorem passOn_nextId (s : State) (c : Cur) : (s.passOn c).nextId = s.nextId := by
  simp [passOn]

@[simp] theorem advance_nextId (s : State) (c : Cur) : (s.advance c).nextId = s.nextId := by
  simp [advance, countIssue]

@[simp] theorem orderNext_dir (s : State) (x : Block) : (s.orderNext x).dir = s.dir := by
  unfold orderNext; repeat' split
  all_goals rfl

@[simp] theorem openNext_dir (s : State) (b : Nat) : (s.openNext b).dir = s.dir := by
  unfold openNext; repeat' split
  all_goals simp

@[simp] theorem markLate_dir (s : State) (c : Cur) : (s.markLate c).dir = s.dir := rfl

@[simp] theorem passOn_dir (s : State) (c : Cur) : (s.passOn c).dir = s.dir := by
  simp [passOn]

@[simp] theorem advance_dir (s : State) (c : Cur) : (s.advance c).dir = s.dir := by
  simp [advance, countIssue]

@[simp] theorem orderNext_net (s : State) (x : Block) : (s.orderNext x).net = s.net := by
  unfold orderNext; repeat' split
  all_goals rfl

@[simp] theorem openNext_net (s : State) (b : Nat) : (s.openNext b).net = s.net := by
  unfold openNext; repeat' split
  all_goals simp

@[simp] theorem markLate_net (s : State) (c : Cur) : (s.markLate c).net = s.net := rfl

@[simp] theorem passOn_net (s : State) (c : Cur) : (s.passOn c).net = s.net := by
  simp [passOn]

@[simp] theorem advance_net (s : State) (c : Cur) : (s.advance c).net = s.net := by
  simp [advance, countIssue]

@[simp] theorem orderNext_flits (s : State) (x : Block) : (s.orderNext x).flits = s.flits := by
  unfold orderNext; repeat' split
  all_goals rfl

@[simp] theorem openNext_flits (s : State) (b : Nat) : (s.openNext b).flits = s.flits := by
  unfold openNext; repeat' split
  all_goals simp

@[simp] theorem markLate_flits (s : State) (c : Cur) : (s.markLate c).flits = s.flits := rfl

@[simp] theorem passOn_flits (s : State) (c : Cur) : (s.passOn c).flits = s.flits := by
  simp [passOn]

@[simp] theorem advance_flits (s : State) (c : Cur) : (s.advance c).flits = s.flits := by
  simp [advance, countIssue]

@[simp] theorem orderNext_credits (s : State) (x : Block) : (s.orderNext x).credits = s.credits := by
  unfold orderNext; repeat' split
  all_goals rfl

@[simp] theorem openNext_credits (s : State) (b : Nat) : (s.openNext b).credits = s.credits := by
  unfold openNext; repeat' split
  all_goals simp

@[simp] theorem markLate_credits (s : State) (c : Cur) : (s.markLate c).credits = s.credits := rfl

@[simp] theorem passOn_credits (s : State) (c : Cur) : (s.passOn c).credits = s.credits := by
  simp [passOn]

@[simp] theorem advance_credits (s : State) (c : Cur) : (s.advance c).credits = s.credits := by
  simp [advance, countIssue]

@[simp] theorem orderNext_hold (s : State) (x : Block) : (s.orderNext x).hold = s.hold := by
  unfold orderNext; repeat' split
  all_goals rfl

@[simp] theorem openNext_hold (s : State) (b : Nat) : (s.openNext b).hold = s.hold := by
  unfold openNext; repeat' split
  all_goals simp

@[simp] theorem markLate_hold (s : State) (c : Cur) : (s.markLate c).hold = s.hold := rfl

@[simp] theorem passOn_hold (s : State) (c : Cur) : (s.passOn c).hold = s.hold := by
  simp [passOn]

@[simp] theorem advance_hold (s : State) (c : Cur) : (s.advance c).hold = s.hold := by
  simp [advance, countIssue]

@[simp] theorem orderNext_xlt (s : State) (x : Block) : (s.orderNext x).xlt = s.xlt := by
  unfold orderNext; repeat' split
  all_goals rfl

@[simp] theorem openNext_xlt (s : State) (b : Nat) : (s.openNext b).xlt = s.xlt := by
  unfold openNext; repeat' split
  all_goals simp

@[simp] theorem markLate_xlt (s : State) (c : Cur) : (s.markLate c).xlt = s.xlt := rfl

@[simp] theorem passOn_xlt (s : State) (c : Cur) : (s.passOn c).xlt = s.xlt := by
  simp [passOn]

@[simp] theorem advance_xlt (s : State) (c : Cur) : (s.advance c).xlt = s.xlt := by
  simp [advance, countIssue]

@[simp] theorem orderNext_fab (s : State) (x : Block) : (s.orderNext x).fab = s.fab := by
  unfold orderNext; repeat' split
  all_goals rfl

@[simp] theorem openNext_fab (s : State) (b : Nat) : (s.openNext b).fab = s.fab := by
  unfold openNext; repeat' split
  all_goals simp

@[simp] theorem markLate_fab (s : State) (c : Cur) : (s.markLate c).fab = s.fab := rfl

@[simp] theorem passOn_fab (s : State) (c : Cur) : (s.passOn c).fab = s.fab := by
  simp [passOn]

@[simp] theorem advance_fab (s : State) (c : Cur) : (s.advance c).fab = s.fab := by
  simp [advance, countIssue]

@[simp] theorem orderNext_hom (s : State) (x : Block) : (s.orderNext x).hom = s.hom := by
  unfold orderNext; repeat' split
  all_goals rfl

@[simp] theorem openNext_hom (s : State) (b : Nat) : (s.openNext b).hom = s.hom := by
  unfold openNext; repeat' split
  all_goals simp

@[simp] theorem markLate_hom (s : State) (c : Cur) : (s.markLate c).hom = s.hom := rfl

@[simp] theorem passOn_hom (s : State) (c : Cur) : (s.passOn c).hom = s.hom := by
  simp [passOn]

@[simp] theorem advance_hom (s : State) (c : Cur) : (s.advance c).hom = s.hom := by
  simp [advance, countIssue]

@[simp] theorem orderNext_mnd (s : State) (x : Block) : (s.orderNext x).mnd = s.mnd := by
  unfold orderNext; repeat' split
  all_goals rfl

@[simp] theorem openNext_mnd (s : State) (b : Nat) : (s.openNext b).mnd = s.mnd := by
  unfold openNext; repeat' split
  all_goals simp

@[simp] theorem markLate_mnd (s : State) (c : Cur) : (s.markLate c).mnd = s.mnd := rfl

@[simp] theorem passOn_mnd (s : State) (c : Cur) : (s.passOn c).mnd = s.mnd := by
  simp [passOn]

@[simp] theorem advance_mnd (s : State) (c : Cur) : (s.advance c).mnd = s.mnd := by
  simp [advance, countIssue]

@[simp] theorem orderNext_trp (s : State) (x : Block) : (s.orderNext x).trp = s.trp := by
  unfold orderNext; repeat' split
  all_goals rfl

@[simp] theorem openNext_trp (s : State) (b : Nat) : (s.openNext b).trp = s.trp := by
  unfold openNext; repeat' split
  all_goals simp

@[simp] theorem markLate_trp (s : State) (c : Cur) : (s.markLate c).trp = s.trp := rfl

@[simp] theorem passOn_trp (s : State) (c : Cur) : (s.passOn c).trp = s.trp := by
  simp [passOn]

@[simp] theorem advance_trp (s : State) (c : Cur) : (s.advance c).trp = s.trp := by
  simp [advance, countIssue]

@[simp] theorem orderNext_hst (s : State) (x : Block) : (s.orderNext x).hst = s.hst := by
  unfold orderNext; repeat' split
  all_goals rfl

@[simp] theorem openNext_hst (s : State) (b : Nat) : (s.openNext b).hst = s.hst := by
  unfold openNext; repeat' split
  all_goals simp

@[simp] theorem markLate_hst (s : State) (c : Cur) : (s.markLate c).hst = s.hst := rfl

@[simp] theorem passOn_hst (s : State) (c : Cur) : (s.passOn c).hst = s.hst := by
  simp [passOn]

@[simp] theorem advance_hst (s : State) (c : Cur) : (s.advance c).hst = s.hst := by
  simp [advance, countIssue]

@[simp] theorem orderNext_pkg (s : State) (x : Block) : (s.orderNext x).pkg = s.pkg := by
  unfold orderNext; repeat' split
  all_goals rfl

@[simp] theorem openNext_pkg (s : State) (b : Nat) : (s.openNext b).pkg = s.pkg := by
  unfold openNext; repeat' split
  all_goals simp

@[simp] theorem markLate_pkg (s : State) (c : Cur) : (s.markLate c).pkg = s.pkg := rfl

@[simp] theorem passOn_pkg (s : State) (c : Cur) : (s.passOn c).pkg = s.pkg := by
  simp [passOn]

@[simp] theorem advance_pkg (s : State) (c : Cur) : (s.advance c).pkg = s.pkg := by
  simp [advance, countIssue]

end State

end Sys2Proof.Machine
end

