-- ==== Sys2Proof/Laws/Tile.lean ====
section
/-! SUPPORT. The extent of a tile, or of a restored scratchpad, when it is written: it keeps the
canonical form. -/

namespace Sys2Proof.Machine

/-- The canonical form, said of every pair of entries. -/
theorem Memory.wf_iff : ∀ {m : Memory},
    Memory.wf m = true ↔ m.Pairwise (fun p q => p.1 < q.1) ∧ ∀ p ∈ m, p.2 ≠ 0
  | [] => by simp [Memory.wf]
  | [(a, b)] => by simp [Memory.wf]
  | (a, b) :: (c, d) :: t => by
    have ih := Memory.wf_iff (m := (c, d) :: t)
    rw [Memory.wf, Bool.and_eq_true, Bool.and_eq_true, ih]
    simp only [bne_iff_ne, decide_eq_true_eq, List.pairwise_cons, List.mem_cons, forall_eq_or_imp]
    constructor
    · rintro ⟨⟨hb, hac⟩, ⟨hc, ht⟩, hd, hn⟩
      exact ⟨⟨⟨hac, fun p hp => Nat.lt_trans hac (hc p hp)⟩, hc, ht⟩, hb, hd, hn⟩
    · rintro ⟨⟨⟨hac, _⟩, hc, ht⟩, hb, hd, hn⟩
      exact ⟨⟨hb, hac⟩, ⟨hc, ht⟩, hd, hn⟩

/-- Writing an extent keeps the canonical form. -/
theorem Memory.fill_wf {m : Memory} (n : Nat) (f : Nat → Byte) (h : m.wf = true) : (m.fill n f).wf = true := by
  obtain ⟨hp, hn⟩ := Memory.wf_iff.mp h
  refine Memory.wf_iff.mpr ⟨?_, ?_⟩
  · refine List.pairwise_append.mpr ⟨?_, hp.filter _, ?_⟩
    · refine List.pairwise_filterMap.mpr (List.pairwise_lt_range.imp ?_)
      intro i j hij p hpi q hqj
      simp only [Option.ite_none_left_eq_some, Option.some.injEq] at hpi hqj
      obtain ⟨-, rfl⟩ := hpi
      obtain ⟨-, rfl⟩ := hqj
      exact hij
    · intro p hpf q hq
      obtain ⟨i, hi, hpi⟩ := List.mem_filterMap.mp hpf
      simp only [Option.ite_none_left_eq_some, Option.some.injEq] at hpi
      obtain ⟨-, rfl⟩ := hpi
      have := (List.mem_filter.mp hq).2
      simp only [decide_eq_true_eq] at this
      exact Nat.lt_of_lt_of_le (List.mem_range.mp hi) this
  · intro p hp'
    rcases List.mem_append.mp hp' with hpf | hpm
    · obtain ⟨i, _, hpi⟩ := List.mem_filterMap.mp hpf
      simp only [Option.ite_none_left_eq_some, Option.some.injEq] at hpi
      obtain ⟨hne, rfl⟩ := hpi
      exact hne
    · exact hn p (List.mem_filter.mp hpm).1

end Sys2Proof.Machine
end

