-- ==== Sys2Proof/Tests/Slice0.lean ====
section
/-! SUPPORT. Own tests: the decoder on words written out from the spec's encodings, the well-formedness checks on terms that
they refuse, single steps, and for every statement of the obligations a state that meets its hypotheses. -/

set_option maxRecDepth 100000
set_option exponentiation.threshold 1024

open Sys2Proof Sys2Proof.Machine Host

namespace Sys2Proof.Tests

/-! ### Small states -/

/-- A guard that is always true, and the two shorter heads with it. -/
def gT : Guard := ⟨0xFF, 0, 0, 0⟩
def h64 : Hd := ⟨gT, .l64⟩
def h96 (x : BitVec 24) : Hd := ⟨gT, .l96 x⟩

/-- The issue group of lane 0 at the first instruction of line 0. -/
def c0 : Cur := ⟨0, 0, 1, 4, 12⟩

/-- A group of one placed thread of each kind u, on core 0. -/
def grpOf (us : List Thread) : Group := { Group.placed with threads := us }

/-- A state in which the group y of the only block issues for lane 0. -/
def sOf (y : Group) : State :=
  { State.reset with blocks := [(0, { Block.placed [] with groups := [y] })], cur := .simt c0 }

/-- Two privileged threads, of which the first issues. -/
def y2 : Group := grpOf [Thread.placed, Thread.placed]
def s2 : State := sOf y2

/-- The same, unprivileged and of an ASID of its own. -/
def user : Thread := { Thread.placed with priv := false }
def yU : Group := grpOf [user, user]
def sU : State :=
  { State.reset with blocks := [(0, { Block.placed [] with asid := 1, groups := [yU] })], cur := .simt c0 }

/-! ### Witnesses: the forms that compute -/

theorem wit_ValueForms : Claim.Issues s2 c0 y2 (.iadd h64 .u32 false false (.v 1) (.v 2) (.k 3)) gT
    ∧ (Claim.valueOf (.iadd h64 .u32 false false (.v 1) (.v 2) (.k 3))).isSome = true := by
  unfold Claim.Issues; decide

theorem wit_FloatForms : Claim.Issues s2 c0 y2 (.fadd h64 ⟨false, false, 0⟩ ⟨false, false, false, false, false, false⟩ (.v 1) (.v 2) (.v 3)) gT
    ∧ (Claim.floatOf (.fadd h64 ⟨false, false, 0⟩ ⟨false, false, false, false, false, false⟩ (.v 1) (.v 2) (.v 3))).isSome = true
    ∧ (s2.blk? 0).isSome = true := by
  unfold Claim.Issues; decide

/-! ### Witnesses: predicates, control, traps -/

theorem wit_PredicatesAndVotes :
    (Claim.Issues s2 c0 y2 (.pmov h64 1 2) gT ∧ (Claim.predOf (.pmov h64 1 2)).isSome = true)
    ∧ Claim.Issues s2 c0 y2 (.voteBallot h64 (.v 3) 1) gT ∧ (Claim.wholeOf (.voteBallot h64 (.v 3) 1)).isSome = true := by
  unfold Claim.Issues; decide

/-- The line at address 0 with an instruction at word 1, in the instruction cache of core 0. -/
def cached (s : State) : State :=
  { s with cores := [(0, { Machine.Core.reset with icache := [⟨0, 0, lineOf [1, 0], true, true⟩] })] }

/-- A thread one call deep, whose caller kept two registers of a window of 16. -/
def called : Thread := { Thread.placed with depth := 1, links := [⟨4, 2, 1, 8, [7, 8]⟩] }

theorem wit_ControlTransfers :
    Claim.Issues s2 c0 y2 (.nop h64) ⟨0xFF, 0, 0, 0⟩
    ∧ (Claim.Issues (cached s2) c0 y2 (.bra (h96 0)) gT ∧ (Claim.branchOf (.bra (h96 0))).isSome = true
      ∧ Claim.Lands (cached s2) c0 ((cached s2).guardTrue c0 gT) (fun _ => Claim.directTarget c0 (.l96 0)))
    ∧ (Claim.Issues (cached s2) c0 y2 (.call (h96 0) 8) gT ∧ (Claim.callOf (.call (h96 0) 8)).isSome = true
      ∧ ∀ l ∈ (cached s2).guardTrue c0 gT, ∀ u, y2.threads[l]? = some u → 8 ≤ u.v.length ∧ u.links.length < 8)
    ∧ (Claim.Issues (cached (sOf (grpOf [called]))) c0 (grpOf [called]) (.ret gT) gT
      ∧ Claim.Lands (cached (sOf (grpOf [called]))) c0 ((cached (sOf (grpOf [called]))).guardTrue c0 gT) (fun _ => 4)
      ∧ (called.depth ≠ 0 ∧ called.links.getLast? = some ⟨4, 2, 1, 8, [7, 8]⟩ ∧ called.links.length = 1)) := by
  unfold Claim.Issues Claim.Lands
  refine ⟨by decide, by decide, ⟨by decide, by decide, ?_⟩, by decide⟩
  have h : ((cached s2).guardTrue c0 gT) = [0] := by decide
  intro l hl u hu
  rw [h, List.mem_singleton] at hl
  subst hl
  have := Option.some.inj hu
  subst this
  decide

theorem wit_WindowAndModeForms :
    (Claim.Issues s2 c0 y2 (.alloc gT 64 8) gT ∧ (64#8).toNat ≤ Claim.allotment s2 c0 ∧ ∀ u ∈ y2.threads, u.links = [])
    ∧ (Claim.Issues s2 c0 y2 (.alloc gT 72 8) gT ∧ s2.guardTrue c0 gT = [0] ∧ Claim.allotment s2 c0 < (72#8).toNat)
    ∧ (Claim.Issues (sOf (grpOf [Thread.placed])) c0 (grpOf [Thread.placed]) (.basteOff h64) gT
      ∧ (grpOf [Thread.placed]).converged 1 = true ∧ ((sOf (grpOf [Thread.placed])).guardTrue c0 gT).head? = some 0) := by
  unfold Claim.Issues; decide

theorem wit_ThreadsEnd :
    (Claim.Issues s2 c0 y2 (.exit gT) gT ∧ s2.guardTrue c0 gT = [0] ∧ s2.batchBusy 0 0 0 = false ∧ s2.queued 0 0 0 = false
      ∧ s2.inFlight 0 0 0 = 0 ∧ s2.deferredChk c0 0 = none ∧ Thread.placed.depth = 0
      ∧ (y2.threads[1]?).map (·.exited) = some false)
    ∧ (Claim.Issues (sOf (grpOf [Thread.placed])) c0 (grpOf [Thread.placed]) (.exit gT) gT
      ∧ (sOf (grpOf [Thread.placed])).guardTrue c0 gT = [0]) := by
  unfold Claim.Issues; decide

/-- A trap unit with a handler for every code. -/
def handled (s : State) : State := { s with trp := ⟨0x1000, -1, 0, false⟩ }

theorem wit_TrapForms :
    (Claim.Issues (handled sU) c0 yU (.brk h64 5) gT ∧ (handled sU).trp.hmask.getLsbD 0x31 = true ∧ (handled sU).trp.hvec ≠ 0
      ∧ ((handled sU).blk? 0).isSome = true ∧ user.priv = false ∧ user.txn = none)
    ∧ (Claim.Issues s2 c0 y2 (.eret gT) gT ∧ (s2.blk? 0).isSome = true ∧ Thread.placed.replay = [])
    ∧ (sU.cur = .simt c0 ∧ sU.grp? 0 0 = some yU ∧ yU.bast = none ∧ sU.ready c0 (.eret gT) = true
      ∧ sU.guardTrue c0 gT = [0] ∧ yU.threads[0]? = some user ∧ user.priv = false ∧ user.txn = none
      ∧ user.deferred = none ∧ swrFree (sysRegNum (.l96 0x120)) = false) := by
  unfold Claim.Issues; decide

/-! ### Witnesses: loads, stores and atomics -/

/-- A block of ASID 1 whose lease is the first MiB, which it may write. -/
def leased : Block :=
  { Block.placed [] with
    asid := 1
    fr := { LFrame.zero with ws := true, scratch := 4096, ranges := [⟨0, 2 ^ 20, true⟩] }
    groups := [yU] }

def sL : State := { State.reset with blocks := [(0, leased)], cur := .simt c0 }

/-- A page of cacheable memory of this package at address 0. -/
def page : Tlb := ⟨1, 0, 2 ^ 20, 0, true, true, true, false, 0, false, false, true, 0, false⟩

/-- The same, with the page in the TLB of cluster 0. -/
def sT : State := { sL with xlt := { sL.xlt with tlb := [(0, [page])] } }

/-- Sector 0 in an L1, under its name at address 0. -/
def lineE (st : L1St) : L1E := ⟨st, SecVal.zero, 1, 0, true, 0, 0, none, none⟩

/-- The same, with the sector in the L1 of core 0. -/
def sC (st : L1St) : State := { sT with cores := [(0, { Machine.Core.reset with l1 := [(0, lineE st)] })] }

theorem pool_free : Claim.PoolFree sT 0 0 0 := by
  unfold Claim.PoolFree
  refine ⟨by decide, by decide, ?_, ?_⟩ <;> intro r h
  · rw [show sT.fab.unacked = [] from rfl] at h; cases h
  · rw [show sT.hst.reqs = [] from rfl] at h; cases h

def ldS : Instr := .ld h64 .w32 false .s false 0 (.v 1) (.v 2)
def ldG : Instr := .ld h64 .w32 false .g false 0 (.v 1) (.v 2)
def ldQ (p : Spc) : Instr := .ld h64 .w128 false p false 0 (.v 4) (.v 2)

theorem wit_LoadForms :
    (Claim.Issues sL c0 yU ldS gT ∧ (Claim.loadOf ldS).isSome = true ∧ Claim.Quiet sL c0 ∧ sL.guardTrue c0 gT = [0]
      ∧ user.exited = false ∧ yU.storeQ = [] ∧ Claim.onChip sL c0 ldS (effAddr .s .l64 yU user 0 (.v 2)) 4 = some 0)
    ∧ (Claim.Issues (sC .e) c0 yU ldG gT ∧ (Claim.loadOf ldG).isSome = true ∧ retSpc ldG = .g ∧ Claim.Quiet (sC .e) c0
      ∧ (sC .e).guardTrue c0 gT = [0] ∧ user.txn = none
      ∧ Claim.Hits (sC .e) ((sC .e).agent 0 0 0) (effAddr .g .l64 yU user 0 (.v 2)) 4 0 (lineE .e))
    ∧ (Claim.Issues sL c0 yU (ldQ .s) gT ∧ (Claim.loadOf (ldQ .s)).isSome = true ∧ Claim.halved (ldQ .s) = true
      ∧ Claim.Live sL c0 yU gT ∧ Claim.onChip sL c0 (ldQ .s) (effAddr .s .l64 yU user 0 (.v 2)) 16 = some 0
      ∧ Claim.Issues (sC .e) c0 yU (ldQ .g) gT
      ∧ Claim.Hits (sC .e) ((sC .e).agent 0 0 0) (effAddr .g .l64 yU user 0 (.v 2)) 16 0 (lineE .e))
    ∧ (Claim.Issues sT c0 yU ldG gT ∧ Claim.Quiet sT c0 ∧ sT.guardTrue c0 gT = [0]
      ∧ sT.leaseOk 0 false (effAddr .g .l64 yU user 0 (.v 2)) 4 false = true
      ∧ Claim.Misses sT (sT.agent 0 0 0) (effAddr .g .l64 yU user 0 (.v 2)) 0 ∧ sT.conflicts 0 false (some (0, 0, 0)) = []
      ∧ Claim.PoolFree sT 0 0 0) := by
  have live : Claim.Live sL c0 yU gT := by
    refine ⟨by decide, ?_⟩
    have h : sL.guardTrue c0 gT = [0] := by decide
    intro l hl u hu
    rw [h, List.mem_singleton] at hl
    subst hl
    exact Option.some.inj hu ▸ (by decide : user.exited = false)
  unfold Claim.Issues Claim.Quiet Claim.Hits Claim.Misses
  refine ⟨by decide, by decide, ⟨by decide, by decide, by decide, live, by decide, by decide, by decide⟩, by decide, by decide,
    by decide, by decide, ⟨by decide, by decide, by decide, by decide, page, by decide⟩, by decide, pool_free⟩

theorem wit_StoresIssue :
    (Claim.Issues sL c0 yU (.st h64 .w32 .s 0 (.v 2) (.v 3)) gT
      ∧ (Claim.storeOf (.st h64 .w32 .s 0 (.v 2) (.v 3))).isSome = true ∧ sL.guardTrue c0 gT = [0] ∧ sL.blk? 0 = some leased
      ∧ effAddr .s .l64 yU user 0 (.v 2) % 4 = 0 ∧ effAddr .s .l64 yU user 0 (.v 2) + 4 ≤ leased.fr.scratch)
    ∧ (Claim.Issues sL c0 yU (.czero h64 (.v 2) (.k 5)) gT ∧ src32 .l64 yU user 0 (.k 5) ≠ 0)
    ∧ (Claim.Issues sL c0 yU (.atom h64 .add .u32 .none .pkg .g (.v 1) (.v 2) (.v 3) (.v 0)) gT
      ∧ (Claim.atomOf (.atom h64 .add .u32 .none .pkg .g (.v 1) (.v 2) (.v 3) (.v 0))).isSome = true ∧ Claim.Quiet sL c0
      ∧ yU.pmask = 0 ∧ effAddr .g .l64 yU user 0 (.v 2) % 4 = 0
      ∧ sL.leaseOk 0 user.priv (effAddr .g .l64 yU user 0 (.v 2)) 4 true = true) := by
  unfold Claim.Issues Claim.Quiet; decide

/-- A thread whose V2 holds an address that is not aligned. -/
def odd : Thread := { user with v := user.v.set 2 2 }

theorem wit_Misaligned :
    Claim.Issues (sOf (grpOf [odd])) c0 (grpOf [odd]) ldG gT ∧ (sOf (grpOf [odd])).guardTrue c0 gT = [0]
      ∧ (grpOf [odd]).threads[0]? = some odd ∧ effAddr .g .l64 (grpOf [odd]) odd 0 (.v 2) % 4 ≠ 0
      ∧ (Claim.loadOf ldG).isSome = true ∧ retSpc ldG ≠ .w := by
  unfold Claim.Issues; decide

/-- A store-queue entry of one lane. -/
def entry (shared : Bool) (acc : Option Nat) (k : StKind) : StEntry :=
  ⟨5, 4, shared, false, false, acc, [], 0, [], [⟨0, 0, k, false, none, false⟩]⟩

def yQ (e : StEntry) : Group := { yU with storeQ := [e] }
def sQ (s : State) (e : StEntry) : State := { s with blocks := [(0, { leased with groups := [yQ e] })] }

/-- The access of an atomic of lane 0. -/
def access (spc : Spc) : Acc :=
  ⟨7, 5, 0, 0, 4, 12, .atom h64 .add .u32 .none .pkg spc (.v 1) (.v 2) (.v 3) (.v 0), .atomic, 0, 1, 0, [], [⟨0, 0, 1, 0, .todo, false⟩]⟩

theorem wit_StoresRetire :
    ((sQ sL (entry true none (.store 4 9))).grp? 0 0 = some (yQ (entry true none (.store 4 9)))
      ∧ (sQ sL (entry true none (.store 4 9))).accs = [] ∧ leased.scratch.wf = true)
    ∧ (({ sQ sL (entry true (some 7) (.atom .add .u32 1 0)) with accs := [access .s] } : State).haltedGrp 0 0 = false
      ∧ retDst (access .s).ins = some (.v 1, 1) ∧ (access .s).seq = (entry true (some 7) (.atom .add .u32 1 0)).seq
      ∧ (StLane.plain ⟨0, 0, .atom .add .u32 1 0, false, none, false⟩) = false)
    ∧ ((sQ (sC .e) (entry false none (.store 4 9))).leaseOk 0 false 0 4 true = true
      ∧ (sQ (sC .e) (entry false none (.store 4 9))).l1Name 0 1 0 = some (0, lineE .e)
      ∧ (sQ (sC .e) (entry false none (.store 4 9))).l1? 0 0 = some (lineE .e) ∧ (lineE .e).wok = true
      ∧ (sQ (sC .e) (entry false none (.store 4 9))).conflicts 0 true (some (0, 0, 0)) = [])
    ∧ ((sQ (sC .e) (entry false none (.store 16 9))).leaseOk 0 false 0 16 true = true
      ∧ (sQ (sC .e) (entry false none (.store 16 9))).l1Name 0 1 0 = some (0, lineE .e)
      ∧ (sQ (sC .e) (entry false none (.store 16 9))).conflicts 0 true (some (0, 0, 0)) = [])
    ∧ (find? 0 (sT.core 0).pend = none ∧ sT.l1? 0 0 = none ∧ sT.txnOn (sT.agent 0 0 0) = false ∧ (15#64 : BitVec 64) ≠ -1
      ∧ sT.conflicts 0 true (some (0, 0, 0)) = [] ∧ Claim.PoolFree sT 0 0 0) := by
  exact ⟨by decide, by decide, by decide, by decide, by decide, by decide, by decide, by decide, by decide, pool_free⟩

/-! ### Witnesses: transactions, fences, maintenance -/

/-- A state of one group on a block with a lease, its page in the TLB. -/
def sG (y : Group) : State := { sT with blocks := [(0, { leased with groups := [y] })] }

/-- A thread in a transaction that has written sector 0, or nothing. -/
def inTxn (w : Tab SecVal) : Thread := { user with txn := some ⟨1, 4, [], w, 0⟩ }

theorem wit_Transactions :
    (Claim.Issues (cached s2) c0 y2 (.xbeg (h96 0) 1) gT
      ∧ Claim.Lands (cached s2) c0 ((cached s2).guardTrue c0 gT) (fun _ => Claim.directTarget c0 (.l96 0))
      ∧ (cached s2).txnCount 0 + ((cached s2).guardTrue c0 gT).length ≤ 64)
    ∧ (Claim.Issues (sG (grpOf [inTxn []])) c0 (grpOf [inTxn []]) (.xend h64 1) gT)
    ∧ (Claim.Issues { sG (grpOf [inTxn [(0, SecVal.zero)]]) with cores := (sC .e).cores } c0 (grpOf [inTxn [(0, SecVal.zero)]])
        (.xend h64 1) gT
      ∧ ({ sG (grpOf [inTxn [(0, SecVal.zero)]]) with cores := (sC .e).cores } : State).guardTrue c0 gT = [0]
      ∧ ({ sG (grpOf [inTxn [(0, SecVal.zero)]]) with cores := (sC .e).cores } : State).l1? 0 0 = some (lineE .e))
    ∧ Claim.Issues (sG (grpOf [inTxn []])) c0 (grpOf [inTxn []]) (.xabt h64 3) gT
    ∧ Claim.Issues { sG (grpOf [inTxn [(0, SecVal.zero)]]) with cores := (sC .e).cores } c0 (grpOf [inTxn [(0, SecVal.zero)]])
        (.xabt h64 3) gT := by
  unfold Claim.Issues Claim.Lands; decide

theorem wit_PrefetchAndFences :
    (Claim.Issues sT c0 yU (.pref h64 true 0 (.v 2)) gT ∧ sT.guardTrue c0 gT = [0]
      ∧ sT.leaseOk 0 user.priv (effAddr .g .l64 yU user 0 (.v 2)) 1 false = true
      ∧ Claim.Misses sT (sT.agent 0 0 0) (effAddr .g .l64 yU user 0 (.v 2)) 0
      ∧ Claim.PoolFree sT 0 0 0 ∧ (sT.dirE 0).lv = false ∧ DReq.pref 0 ∉ (sT.dirE 0).fifo ∧ (sT.dirE 0).req ≠ some (.pref 0))
    ∧ (Claim.Issues (sG (grpOf [{ user with published := true }])) c0 (grpOf [{ user with published := true }]) (.fenceAr gT .sys) gT
      ∧ (sG (grpOf [{ user with published := true }])).inFlight 0 0 0 = 0 ∧ user.seals = [] ∧ user.metFault = none
      ∧ user.met = [] ∧ (Claim.fenceOf (.fenceAr gT .sys)).isSome = true)
    ∧ (Claim.Issues sT c0 yU (.fenceRel gT .pkg) gT ∧ sT.guardTrue c0 gT = [0] ∧ sT.inFlight 0 0 0 = 0
      ∧ user.published = false ∧ (sT.core 0).drain = none ∧ (sT.core 0).pend = [] ∧ (sT.core 0).posted = []) := by
  unfold Claim.Issues Claim.Misses
  exact ⟨⟨by decide, by decide, by decide, ⟨by decide, by decide, by decide, by decide, page, by decide⟩, pool_free,
    by decide⟩, by decide, by decide⟩

/-- A thread whose maintenance of the first sector has had its only step. -/
def kept : Thread := { user with maint := some ⟨0, 5, 64, false, none⟩ }

theorem wit_Maintenance :
    (Claim.Issues (sG (grpOf [kept])) c0 (grpOf [kept]) (.cflush h64 (.v 2) (.k 5)) gT
      ∧ (Claim.maintOf (.cflush h64 (.v 2) (.k 5))).isSome = true)
    ∧ (Claim.Issues (sC .m) c0 yU (.cinv h64 (.v 2) (.k 5)) gT ∧ (sC .m).guardTrue c0 gT = [0] ∧ user.maint = none
      ∧ ((sC .m).core 0).posted = [] ∧ src32 .l64 yU user 0 (.k 5) ≠ 0
      ∧ src64 .l64 yU user 0 (.v 2) % 64 + src32 .l64 yU user 0 (.k 5) ≤ 64 ∧ src64 .l64 yU user 0 (.v 2) < 2 ^ 56
      ∧ (sC .m).leaseOk 0 false (src64 .l64 yU user 0 (.v 2)) (src32 .l64 yU user 0 (.k 5)) false = true
      ∧ (sC .m).l1Name 0 ((sC .m).agent 0 0 0).asid (src64 .l64 yU user 0 (.v 2)) = some (0, lineE .m)
      ∧ (sC .m).l1? 0 0 = some (lineE .m) ∧ find? 0 ((sC .m).core 0).pend = none) := by
  unfold Claim.Issues; decide

/-! ### Witnesses: copies and barriers -/

/-- Threads whose V4 and V5 hold a destination and V6 a length, for a copy within the scratchpad. -/
def copier : Thread := { user with v := (user.v.set 4 64).set 6 16 }

def cpyS : Instr := .cpy gT .s .s none 0 0 (.v 4) (.v 2) (.v 6)

/-- A collective of one slice of one unit, and a block that holds it. -/
def slice1 : Slice := ⟨5, 0, 0, 4, .s, .s, 64, 0, 16, 16, 0, false, false, false, 0, 0⟩
def coll1 : Coll := ⟨0, false, none, 4, [slice1], [], false⟩
def sCpy : State := { sL with blocks := [(0, { leased with colls := [coll1] })] }

theorem wit_Copies :
    (Claim.Issues (sG (grpOf [copier])) c0 (grpOf [copier]) cpyS gT ∧ (Claim.copyOf cpyS).isSome = true
      ∧ (sG (grpOf [copier])).guardTrue c0 gT = [0] ∧ leased.colls = [] ∧ leased.abandoned = false ∧ copier.seals = []
      ∧ (grpOf [copier]).ended = false ∧ copyAddr .s (grpOf [copier]) copier 0 (.v 4) = 64
      ∧ Claim.Copyable leased ⟨false, .s, .s, none, 0, 0, 64, 0, 16, 0⟩)
    ∧ (sCpy.blk? 0 = some { leased with colls := [coll1] } ∧ yU.storeQ = [] ∧ coll1.slices = [slice1]
      ∧ slice1.saddr + 16 ≤ slice1.daddr ∧ leased.fixups = [] ∧ leased.halting = [] ∧ sCpy.accs = []
      ∧ (sCpy.core yU.core).pend = [] ∧ (sCpy.core yU.core).posted = []) := by
  unfold Claim.Issues Claim.Copyable; decide

theorem wit_CopyState :
    (Claim.Issues sL c0 yU (.crdptr h64 3 (.v 1)) gT ∧ Claim.Issues sL c0 yU (.cfixq h64 (.v 1)) gT)
    ∧ (Claim.Issues sL c0 yU (.cseal h64 (.v 1)) gT ∧ user.seals = [])
    ∧ (Claim.Issues sL c0 (yU) (.cwait h64 (.k 3)) gT ∧ user.deferred = none) := by
  unfold Claim.Issues; decide

/-- A block whose barrier 0 expects two arrivals, of which none has come. -/
def sB : State := { sL with blocks := [(0, { leased with nb := ⟨0, 2, 2, 0, 0, [0, 0, 0, 0]⟩ :: List.replicate 15 Barrier.reset })] }

theorem wit_Barriers :
    (Claim.Issues sL c0 yU (.bari h64 15 (.k 2) (.k 0)) gT ∧ (leased.nb[15]?).isSome = true
      ∧ (sL.guardTrue c0 gT).head? = some 0)
    ∧ (Claim.Issues sB c0 yU (.bara h64 0) gT ∧ Claim.Issues sB c0 yU (.barx h64 0 (.k 4)) gT ∧ sB.rseqRoom 0 = true
      ∧ sB.deferredChk c0 0 = none)
    ∧ (Claim.Issues sL c0 yU (.barw h64 0) gT ∧ (Barrier.reset).cnt = 0 ∧ leased.cores = [yU.core])
    ∧ (Claim.Issues sB c0 yU (.barw h64 0) gT ∧ yU.tok.getD 0 0 = 0 ∧ sB.guardTrue c0 gT = [0]) := by
  unfold Claim.Issues; decide

/-! ### Witnesses: fabric, waits, spawns, system registers -/

/-- A thread whose V4 and V5 hold an address of sector 1 and V6 a length. -/
def mover : Thread := { user with v := (user.v.set 4 64).set 6 32 }

/-- A state with a collective of which this package is a member. -/
def sMem : State := { sG (grpOf [mover]) with fab := { State.reset.fab with colls := [⟨1, [0, 1], 0⟩] } }

def fatomI : Instr := .fatom gT .add .u32 .none .sys (.v 1) (.v 2) (.v 3) (.v 0)

theorem wit_FabricForms :
    (Claim.Issues (sG (grpOf [mover])) c0 (grpOf [mover]) (.fput gT (.v 2) (.v 4) (.v 6)) gT
      ∧ (Claim.bulkOf (.fput gT (.v 2) (.v 4) (.v 6))).isSome = true ∧ (sG (grpOf [mover])).guardTrue c0 gT = [0]
      ∧ src32 .l64 (grpOf [mover]) mover 0 (.v 6) = 32 ∧ src64 .l64 (grpOf [mover]) mover 0 (.v 2) = 0
      ∧ src64 .l64 (grpOf [mover]) mover 0 (.v 4) = 64 ∧ (sG (grpOf [mover])).unsent 0 0 0 < 4)
    ∧ (Claim.Issues sMem c0 (grpOf [mover]) (.fred gT .add .fp32 1 (.v 2) (.v 4) (.v 6)) gT
      ∧ (sMem.collective? 1).map (·.members.contains sMem.self) = some true)
    ∧ (Claim.Issues sT c0 yU (.fsigAdd gT (.v 2) (.v 4)) gT ∧ src64 .l64 yU user 0 (.v 2) % 8 = 0 ∧ sT.fab.bulks = [])
    ∧ (Claim.Issues sT c0 yU fatomI gT ∧ Claim.Quiet sT c0 ∧ sT.guardTrue c0 gT = [0]
      ∧ sT.leaseOk 0 user.priv 0 4 true = true ∧ sT.l1Name 0 (sT.agent 0 0 0).asid 0 = none
      ∧ (getD [] sT.xlt.tlb 0).find? (fun e => e.asid == (sT.agent 0 0 0).asid && e.vpage ≤ 0 && 0 < e.vpage + e.size) = some page
      ∧ page.phys 0 = 0 ∧ gpaHome page.pa = sT.self ∧ sT.homed 0 = true ∧ sT.l1? 0 0 = none ∧ (sT.core 0).posted = []
      ∧ (sT.core 0).pend = [] ∧ sT.hom.pod = [] ∧ (sT.cohRead 0).tag = none ∧ (sT.cohRead 0).psn = false
      ∧ sT.conflicts 0 true none = [] ∧ sT.mem.wf = true) := by
  unfold Claim.Issues Claim.Quiet
  refine ⟨by decide, by decide, by decide, by decide, by decide, by decide, by decide, ?_⟩
  decide

/-- The bytes that a read has given. -/
def read? : BGot → Option (List Byte)
  | .bytes bs => some bs
  | _ => none

/-- A transfer that has given bytes is its state with those bytes. -/
theorem read_eq {p : State × BGot} {bs : List Byte} (h : read? p.2 = some bs) : p = (p.1, .bytes bs) := by
  obtain ⟨s, g⟩ := p
  cases g <;> simp_all [read?]

/-- A thread that has published, and a queue fed by SPAWN from its address space. -/
def published : Thread := { user with published := true }
def sP : State :=
  { sG (grpOf [published]) with
    dsp := { State.reset.dsp with queues := [(2, ⟨0, 4, 0, true, true, 2, 0, 0, false⟩)],
                                  streams := [(2, { State.reset.streamOf 2 with asid := 1 })] } }

theorem wit_WaitsAndSpawn :
    (Claim.Issues sT c0 yU (.yield h64) gT ∧ Claim.Issues sT c0 yU (.sleep h64 (.k 9)) gT
      ∧ (Claim.waitOf 0 yU (.yield h64)).isSome = true)
    ∧ (Claim.Issues (sC .e) c0 yU (.waitmem h64 .eq (.v 2) (.k 0)) gT ∧ Claim.Quiet (sC .e) c0
      ∧ (sC .e).guardTrue c0 gT = [0] ∧ yU.storeQ = [] ∧ user.txn = none ∧ user.hold = none
      ∧ Claim.Hits (sC .e) ((sC .e).agent 0 0 0) (src64 .l64 yU user 0 (.v 2)) 4 0 (lineE .e))
    ∧ (Claim.Issues sP c0 (grpOf [published]) (.spawn h64 (.v 2) (.k 2)) gT ∧ sP.guardTrue c0 gT = [0]
      ∧ (sP.doneMask c0).getLsbD 0 = false ∧ sP.inFlight 0 0 0 = 0 ∧ src64 .l64 (grpOf [published]) published 0 (.v 2) % 32 = 0
      ∧ src32 .l64 (grpOf [published]) published 0 (.k 2) = 2 ∧ sP.takesPush 2 (sP.agent 0 0 0).asid = true
      ∧ read? (sP.readRange (sP.agent 0 0 0) (.spill 0 0 0) 0 32).2 = some (List.replicate 32 0)
      ∧ (sP.readRange (sP.agent 0 0 0) (.spill 0 0 0) 0 32).1.thr? 0 0 0 = some published
      ∧ ((sP.readRange (sP.agent 0 0 0) (.spill 0 0 0) 0 32).1.queueOf 2).room = true) := by
  unfold Claim.Issues Claim.Quiet Claim.Hits
  refine ⟨by decide, by decide, ?_⟩
  decide

def swrH : Hd := ⟨gT, .l96 0x124⟩

theorem wit_SystemRegisters :
    (Claim.Issues sT c0 yU (.srd (h96 8) (.v 1)) gT ∧ (sT.blk? 0).isSome = true)
    ∧ (Claim.rwMask (sysRegNum (.l96 0x124)) = some 0x3FF ∧ Claim.Issues s2 c0 y2 (.swr swrH (.v 1)) gT
      ∧ s2.guardTrue c0 gT = [0])
    ∧ (Claim.Issues (sOf (grpOf [{ Thread.placed with published := true }])) c0 (grpOf [{ Thread.placed with published := true }])
        (.halt gT) gT
      ∧ (sOf (grpOf [{ Thread.placed with published := true }])).guardTrue c0 gT = [0]
      ∧ (sOf (grpOf [{ Thread.placed with published := true }])).inFlight 0 0 0 = 0 ∧ Thread.placed.seals = []
      ∧ Thread.placed.metFault = none ∧ Thread.placed.met = []) := by
  unfold Claim.Issues; decide

/-- A privileged thread that has published, whose shootdown is done or not yet begun. -/
def shooter (done : Bool) : Thread := { Thread.placed with published := true, shot := done }

theorem wit_Tlbi :
    (∀ done, Claim.Issues (sOf (grpOf [shooter done])) c0 (grpOf [shooter done]) (.tlbiPage h64 (.v 2) (.k 5)) gT
      ∧ (sOf (grpOf [shooter done])).guardTrue c0 gT = [0] ∧ (sOf (grpOf [shooter done])).inFlight 0 0 0 = 0
      ∧ (Claim.tlbiOf (grpOf [shooter done]) (shooter done) 0 (.tlbiPage h64 (.v 2) (.k 5))).map (fun q => (q.2.2.1, q.2.2.2))
          = some (0, 16)
      ∧ (sOf (grpOf [shooter done])).xlt.busy = false) := by
  unfold Claim.Issues; decide

/-! ### Witnesses: tile streams -/

/-- A copy whose stream is a NOP, and the state in which it issues, at address 0 with position 2 after it. -/
def copy0 : Tile := Tile.placed [1, 0]
def tb (t : Tile) : Block := { leased with tiles := [t] }
def sI (t : Tile) : State := { sT with blocks := [(0, tb t)], cur := .tile 0 0 0 2 }

theorem wit_TileControlAndMoves :
    (Claim.TileIssues (sI copy0) 0 0 0 2 (tb copy0) copy0
      ∧ (Claim.tileOf (tb copy0) copy0 0 2 (.tileNop 0)).isSome = true
      ∧ (Claim.tileOf (tb copy0) copy0 0 2 (.tswr 0x10 7)).isSome = true
      ∧ (Claim.tileOf (tb copy0) copy0 0 2 (.tsrd 0x10 4092)).isSome = true
      ∧ (Claim.tileOf (tb copy0) copy0 0 2 (.tloop 0 1 2)).isSome = true
      ∧ (Claim.tileOf (tb copy0) copy0 0 2 (.tbra 1)).isSome = true)
    ∧ Claim.TileIssues (sI copy0) 0 0 0 2 (tb copy0) copy0 := by
  unfold Claim.TileIssues
  refine ⟨⟨by decide, by decide, by decide, by decide, by decide, by decide⟩, by decide⟩

/-- The sector of address 0 in the L1 of core 0, and that state once the issue of the instruction has been counted. -/
def sI' (t : Tile) (st : L1St) : State := { sI t with cores := (sC st).cores }
def sIq : State := (sI' copy0 .e).tileIssue 0 0 copy0
def sIw : State := (sI' copy0 .m).tileIssue 0 0 copy0

/-- The state after the one row of tile 0 has been stored. -/
def wroteRow : State :=
  ((sIw.writeAll (sIw.tileAgent 0 0) (.tile 0 0) ((copy0.slot 0).bytes 0 16)
    (State.tileRow (copy0.shape 0) false 0 0 0)).1.dropAnswers (.tile 0 0)).bump 9 2 0 16

theorem wit_TileMemory :
    (Claim.TileIssues (sI copy0) 0 0 0 2 (tb copy0) copy0 ∧ copy0.tileAddr 0 0 = (false, 0)
      ∧ tileCheck (tb copy0) (copy0.shape 0) false false 0 0 = none
      ∧ copy0.tileAddr 0 0x80000000 = (true, 0) ∧ tileCheck (tb copy0) (copy0.shape 0) false true 0 0 = none
      ∧ read? (sIq.readParts { sIq.tileAgent 0 0 with use := .ofHint 1 } (.tile 0 0) (partsOf 0 16)).2 = some (List.replicate 16 0)
      ∧ (sIq.readParts { sIq.tileAgent 0 0 with use := .ofHint 1 } (.tile 0 0) (partsOf 0 16)).1.blk? 0 = sIq.blk? 0
      ∧ (sIq.readParts { sIq.tileAgent 0 0 with use := .ofHint 1 } (.tile 0 0) (partsOf 0 16)).1.cur = (sI' copy0 .e).cur)
    ∧ (shapeRow (copy0.shape 0) ≤ (16 : Word).toNat ∧ (tb copy0).scratch.wf = true
      ∧ tileCheck (tb copy0) (copy0.shape 0) false false 0 16 = none)
    ∧ (tileLines (copy0.shape 0) false 0 0 = [(0, 16)] ∧ copy0.rowp = none ∧ (tb copy0).halting.contains copy0.core = false
      ∧ Claim.rowsWritten 0 0 copy0 0 false 0 0 sIw (List.range (shapeRows (copy0.shape 0))) wroteRow) := by
  unfold Claim.TileIssues
  refine ⟨⟨by decide, by decide, by decide, by decide, by decide, by decide, by decide, by decide⟩, by decide, by decide,
    by decide, by decide, (sIw.writeAll (sIw.tileAgent 0 0) (.tile 0 0) ((copy0.slot 0).bytes 0 16)
      (State.tileRow (copy0.shape 0) false 0 0 0)).1, [], read_eq (by decide), by decide, by decide, rfl⟩

/-- Two blocks of one partition, in clusters 0 and 1, each with a copy. -/
def pairBlock (k : Nat) (t : Tile) : Block :=
  { leased with
    blkid := k, cluster := k, cores := [4 * k], fr := { leased.fr with mcx := 1 }, tiles := [{ t with core := 4 * k }] }
def sPair (t u : Tile) : State := { sI t with blocks := [(0, pairBlock 0 t), (1, pairBlock 1 u)] }
def sender : Tile := { copy0 with wait := .send 1 2 }
def receiver : Tile := { copy0 with wait := .recv 3 5 }

theorem wit_TileLinks :
    (Claim.TileIssues (sPair copy0 copy0) 0 0 0 2 (pairBlock 0 copy0) copy0
      ∧ (sPair copy0 copy0).cuffPeer (pairBlock 0 copy0) 0 1 = some (1, 4))
    ∧ ((sPair sender receiver).blockOnCore 0 = some (0, 0, sender)
      ∧ (sPair sender receiver).blk? 0 = some (pairBlock 0 sender)
      ∧ (sPair sender receiver).tileReady 0 0 = true
      ∧ (sPair sender receiver).cuffPeer (pairBlock 0 sender) 0 1 = some (1, 4)
      ∧ (sPair sender receiver).copyOn 1 4 = some (0, { receiver with core := 4 })
      ∧ (sPair sender receiver).tileReady 1 0 = true ∧ receiver.tiles.length = 16) := by
  unfold Claim.TileIssues
  refine ⟨by decide, by decide, by decide, by decide, by decide, by decide, by decide, by decide⟩

/-- A copy with a deferred record, and a block whose barrier 3 has left the token of the copy. -/
def deferred : Tile := { copy0 with deferred := some ⟨0, 0, 0x10, 0⟩ }
def phase1 : Barrier := ⟨1, 1, 1, 0, 0, [0, 0, 0, 0]⟩
def tbPhase : Block := { tb copy0 with nb := Block.placed [] |>.nb.set 3 phase1 }
def sPhase : State := { sI copy0 with blocks := [(0, tbPhase)] }

theorem wit_TileSynchronisation :
    (Claim.TileIssues sPhase 0 0 0 2 tbPhase copy0 ∧ copy0.deferred = none ∧ tbPhase.nb[(15 : BitVec 4).toNat]? = some Barrier.reset
      ∧ tbPhase.nb[(3 : BitVec 4).toNat]? = some phase1 ∧ ∃ y ∈ tbPhase.groups, y.ended = false)
    ∧ (Claim.TileIssues (sI deferred) 0 0 0 2 (tb deferred) deferred ∧ deferred.deferred.isSome = true)
    ∧ (phase1.cnt ≠ 0 ∧ phase1.ph ≠ copy0.stok.getD (3 : BitVec 4).toNat 0 ∧ sPhase.twaitNeeds tbPhase copy0.core 3 = []) := by
  unfold Claim.TileIssues
  refine ⟨⟨by decide, by decide, by decide, by decide, yU, ?_, by decide⟩, by decide, by decide⟩
  show yU ∈ [yU]
  simp

/-- A copy whose tile 1 has four rows, so that tile 2 by tile 1 transposed has tile 0's shape. -/
def mCopy : Tile := { copy0 with ctl := [(1, 3)] }
def mI : Instr := .tmma 0 2 1 .fp32 .fp32 .fp32 false
def inFlight : Tile := { mCopy with wait := .matrix mI 0 }

/-- The same copy with an error in byte 0 of the form's first source. -/
def struck : Tile := { mCopy with bad := [(((mform? mI).map (·.a)).getD 99, 0)] }

theorem wit_Matrix :
    (Claim.isMatrix mI = true ∧ Claim.TileIssues (sI mCopy) 0 0 0 2 (tb mCopy) mCopy ∧ mCopy.wait = .none
      ∧ (sI mCopy).refuses = false ∧ matrixFault (tb mCopy) mCopy mI = none)
    ∧ ((sI inFlight).blk? 0 = some (tb inFlight) ∧ (tb inFlight).tiles[0]? = some inFlight ∧ inFlight.tiles.length = 16
      ∧ (mform? mI).isSome = true ∧ (sI inFlight).tileReady 0 0 = true ∧ formBad inFlight mI = false)
    ∧ (Claim.TileIssues (sI struck) 0 0 0 2 (tb struck) struck ∧ struck.wait = .none ∧ (sI struck).refuses = false
      ∧ shapeFault (tb struck) struck mI = none ∧ (((mform? mI).map (·.a)).getD 99, 0) ∈ struck.bad
      ∧ ((mform? mI).map (·.a)).getD 99 ∈ formReads mI
      ∧ 0 < shapeExtent (struck.shape (((mform? mI).map (·.a)).getD 99))) := by
  unfold Claim.TileIssues
  refine ⟨by decide, by decide, by decide⟩

/-! ### Witnesses: mesh, issue engine, basting -/

/-- A state with one packet, or with buffers counted as taken. -/
def sFlit (f : Flit) : State := { State.reset with flits := [f] }
def hop : Flit := ⟨0, 9, .request, false, 0, 4, 6, 0, 1, ⟨.gets, 0, 0, SecVal.zero, 0, 0, .core 0⟩⟩
def sink : Flit := { hop with dst := 0 }

/-- The payload flit of a packet whose header has gone by port 1, on the adaptive channel. -/
def tail_ : Flit := { hop with idx := 1 }
def sTail : State := { sFlit tail_ with vcs := [(channelKey 0 1 .request false, 7)] }
def sCredit : State := { State.reset with credits := [(channelKey 0 1 .request false, 2)] }

/-- A group of one thread, in the state of sT, with an instruction in line 0 of its core's instruction cache. -/
def sAt (u : Thread) (i : Instr) (st : L1St) (v : SecVal) : State :=
  { sG (grpOf [u]) with
    cores := [(0, { Machine.Core.reset with
      l1 := [(0, { lineE st with val := v })], icache := [⟨1, 0, lineOf (encode i), true, false⟩] })]
    cur := .none }

def callI : Instr := .call (h96 0) 1
def frame1 : Frame := ⟨8, 1, 0, 0, [7]⟩
def spiller : Thread := { user with
  v := List.replicate 16 0, live := 16, depth := 8, links := List.replicate 8 frame1 }
def sSpill : State :=
  { sAt spiller callI .m SecVal.zero with
    blocks := [(0, { leased with groups := [grpOf [spiller]], fr := { leased.fr with spillsz := 4096 } })] }

def retI : Instr := .ret gT
def filler : Thread := { user with v := List.replicate 8 0, live := 8, depth := 1, spill := 32 }
def sFill : State := sAt filler retI .m ⟨BitVec.ofNat 512 (2 ^ 192 + 9), none, false⟩

/-- The favoured thread is lane 1, whose PC is lower; the group's own count is at its limit. -/
def early : Thread := { user with pc := 4, ready := 4096 }
def late : Thread := { user with pc := 8, ready := 5000 }
def yWait : Group := { grpOf [late, early] with waits := 4096 }

theorem wit_IssueEvents :
    (((sFlit sink).flits.filter fun z => z.at_ == 0 && z.cls == .request) = [sink] ∧ sink.dst = 0
      ∧ ∀ z ∈ (sFlit sink).flits, z.pkt = sink.pkt → sink.idx ≤ z.idx)
    ∧ (((sFlit hop).flits.filter fun z => z.at_ == 0 && z.cls == .request) = [hop] ∧ hop.dst ≠ 0 ∧ hop.idx = 0
      ∧ (((sFlit hop).routeOf hop).any fun (p, esc) => (sFlit hop).holder (channelKey 0 p .request esc) == 0) = true
      ∧ Claim.Rising (sFlit hop).vcs)
    ∧ ((sTail.flits.filter fun z => z.at_ == 0 && z.cls == .request) = [tail_] ∧ tail_.dst ≠ 0 ∧ tail_.idx ≠ 0
      ∧ (∀ z ∈ sTail.flits, z.pkt = tail_.pkt → z.at_ = 0 → tail_.idx ≤ z.idx)
      ∧ sTail.heldBy 0 .request tail_.pkt = some (1, false) ∧ 0 < sTail.freeBuffers 0 1 .request false
      ∧ Claim.Rising sTail.vcs)
    ∧ (1 < getD 0 sCredit.credits (channelKey 0 1 .request false)
      ∧ (sCredit.flits.countP fun f => f.at_ == neighbour 0 1 && f.inPort == arrivalPort 1 && f.cls == .request
          && f.esc == false) < getD 0 sCredit.credits (channelKey 0 1 .request false))
    ∧ ((sG yWait).grp? 0 0 = some yWait ∧ yWait.fav = none ∧ 1 ∈ (sG yWait).eligible 0 yWait
      ∧ yWait.threads[1]? = some early ∧ 4096 ≤ early.ready
      ∧ (sG yWait).eligible 0 yWait = [0, 1] ∧ early.pc < late.pc)
    ∧ ((sG yWait).grp? 0 0 = some yWait ∧ 4096 ≤ yWait.waits)
    ∧ (sSpill.insAt 0 0 0 = some (callI, 16) ∧ (sSpill.blk? 0).isSome = true ∧ sSpill.thr? 0 0 0 = some spiller
      ∧ spiller.links = frame1 :: List.replicate 7 frame1 ∧ spillNeed 64 spiller callI = true
      ∧ sSpill.atFrame 0 0 0 16 spiller callI = true ∧ spiller.spill + frameBytes frame1.k ≤ 0 + 4096
      ∧ sSpill.frameBusy 0 0 0 spiller.spill (frameBytes frame1.k) = false
      ∧ read? (sSpill.writeRange (sSpill.agent 0 0 0) (.spill 0 0 0) 0 (frame1.saved.flatMap fun w => toBytes 4 w.toNat)).2
          = some []
      ∧ read? ((sSpill.writeRange (sSpill.agent 0 0 0) (.spill 0 0 0) 0
            (frame1.saved.flatMap fun w => toBytes 4 w.toNat)).1.writeRange (sSpill.agent 0 0 0) (.spill 0 0 0) 16
            (toBytes 16 (8 + 2 ^ 64))).2 = some [])
    ∧ (sFill.insAt 0 0 0 = some (retI, 12) ∧ (sFill.blk? 0).isSome = true ∧ sFill.thr? 0 0 0 = some filler
      ∧ fillNeed filler retI = true ∧ sFill.atFrame 0 0 0 12 filler retI = true
      ∧ sFill.frameBusy 0 0 0 (spillBase leased 0 0) (filler.spill - spillBase leased 0 0) = false
      ∧ read? (sFill.readRange (sFill.agent 0 0 0) (.spill 0 0 0) 16 16).2 = some (toBytes 16 (2 ^ 64))
      ∧ 0 + frameBytes 1 ≤ filler.spill
      ∧ read? ((sFill.readRange (sFill.agent 0 0 0) (.spill 0 0 0) 16 16).1.readRange (sFill.agent 0 0 0) (.spill 0 0 0) 0 4).2
          = some [9, 0, 0, 0]) := by
  unfold Claim.Rising
  refine ⟨by decide, by decide, by decide, by decide, by decide, by decide, by decide, by decide⟩

/-- A thread whose next instruction reads V1, which a load in flight will write. -/
def moveI : Instr := .mov h64 .w32 (.v 3) (.v 1)
def baster : Thread := { user with v := List.replicate 8 0, live := 8 }
def loadA : Acc := ⟨7, 0, 0, 0, 0, 4, ldG, .load, 0, 1, 0, [], [⟨0, 0, 0, 0, .todo, false⟩]⟩
def sBaste : State := { sAt baster moveI .s SecVal.zero with accs := [loadA], now := 1000 }
def basted : Group := { grpOf [baster] with bast := some (sBaste.basteRecord (grpOf [baster]) loadA) }
def lineP : L1E := { lineE .isd with baste := some 0 }
def sPref : State :=
  { sT with cores := [(0, { Machine.Core.reset with l1 := [(0, lineP)] })], net := [⟨.dataS, 0, 0, SecVal.zero, 0, 0, .core 0⟩] }

theorem wit_BastingEvents :
    ((sBaste.blk? 0).isSome = true ∧ sBaste.grp? 0 0 = some (grpOf [baster]) ∧ (grpOf [baster]).bast = none
      ∧ (grpOf [baster]).bastOn = true ∧ (grpOf [baster]).ended = false ∧ (grpOf [baster]).core ∉ leased.halting
      ∧ (sBaste.core 0).haltReq = none ∧ (∀ u ∈ (grpOf [baster]).threads, u.txn = none)
      ∧ sBaste.triggerOf 0 0 (grpOf [baster]) = some loadA
      ∧ ∀ l, l < 32 → ((grpOf [baster]).threads[l]?).any (fun u => !u.exited) = true →
        (grpOf [baster]).freeSlots (sBaste.basteRecord (grpOf [baster]) loadA) 64 l ≠ 0
          ∧ ((sBaste.basteSlots 0 0 (sBaste.basteRecord (grpOf [baster]) loadA)).slotV.getD l []).length
            + (sBaste.basteSlots 0 0 (sBaste.basteRecord (grpOf [baster]) loadA)).slotS.length
            ≤ (grpOf [baster]).freeSlots (sBaste.basteRecord (grpOf [baster]) loadA) 64 l)
    ∧ ((sG basted).grp? 0 0 = some basted ∧ basted.bast.isSome = true ∧ (sG basted).acc? 7 = none ∧ (sG basted).accs = []
      ∧ basted.bast = some (sBaste.basteRecord (grpOf [baster]) loadA)
      ∧ (sBaste.basteRecord (grpOf [baster]) loadA).trigger = 7
      ∧ (sBaste.basteRecord (grpOf [baster]) loadA).pcs.length = 1 ∧ (sBaste.basteRecord (grpOf [baster]) loadA).vs.length = 1
      ∧ (sBaste.basteRecord (grpOf [baster]) loadA).ps.length = 1 ∧ (sBaste.basteRecord (grpOf [baster]) loadA).sds.length = 1)
    ∧ (sPref.l1? 0 0 = some lineP ∧ lineP.baste.isSome = true ∧ lineP.st = .isd ∧ (sPref.msg? .dataS 0 0).isSome = true
      ∧ ∀ q ∈ sPref.net, q.kind ≠ .dataE) ∧ sPref.l1Room 0 0 = true := by
  refine ⟨by decide, by decide, by decide⟩

/-! ### Witnesses: accesses, publishes, the weight store -/

def posted1 : Posted := ⟨9, 0, 1, 0, 0, 0, 4, 0, true⟩
def sPost (st : FabStatus) : State :=
  { sT with
    cores := [(0, { Machine.Core.reset with posted := [posted1] })]
    fab := { State.reset.fab with
      unacked := [⟨1, 0, false, .home (.write 0 0 0), .posted 0 9, 0, 0, 0, some (st, SecVal.zero), [], 0, 0⟩] } }

/-- A load of the scratchpad in flight, and a thread in a transaction as old as a transaction may be. -/
def loadS : Acc := { loadA with ins := ldS }
def sLoadS : State := { sL with accs := [loadS], nextId := 8 }
/-- A load of 128 bits that has bound its half at the lower address. -/
def loadH : Acc := { loadA with ins := ldQ .s, lanes := [⟨0, 0, 0, 0, .half true 5, false⟩] }
def sWide : State := { sL with accs := [loadH], nextId := 8 }
def sTxn : State := { sG (grpOf [inTxn []]) with now := 16384 }

/-- A core whose carve-out is changing. -/
def sCarve : State :=
  { State.reset with cores := [(0, { Machine.Core.reset with carve := ⟨0, 3, true, false, false⟩ })] }

theorem wit_AccessEvents :
    (Claim.Rising (sPost .ok).cores ∧ ((sPost .ok).core 0).posted.find? (fun q => q.id == 9) = some posted1
      ∧ (sPost .ok).postedResult 0 9 = some (.ok, SecVal.zero) ∧ ((sPost .ok).core 0).drain = none)
    ∧ ((0x10 : BitVec 8) ≠ 0x12 ∧ Claim.Rising (sPost (.fault 0x10)).cores
      ∧ (sPost (.fault 0x10)).postedResult 0 9 = some (.fault 0x10, SecVal.zero)
      ∧ (sPost (.fault 0x10)).thr? 0 0 0 = some user)
    ∧ (sLoadS.acc? loadS.id = some loadS ∧ retSpc loadS.ins = .s ∧ retDst loadS.ins = some (.v 1, 1)
      ∧ sLoadS.haltedGrp 0 0 = false ∧ sLoadS.boundBefore 0 0 0 0 = true ∧ sLoadS.blk? 0 = some leased
      ∧ sLoadS.grp? 0 0 = some yU ∧ yU.bast = none ∧ yU.storeQ = [] ∧ yU.threads[0]? = some user)
    ∧ (sWide.acc? loadH.id = some loadH ∧ retBytes loadH.ins = 16 ∧ retSpc loadH.ins = .s
      ∧ retDst loadH.ins = some (.v 4, 4) ∧ sWide.boundBefore 0 0 0 0 = true)
    ∧ (sTxn.grp? 0 0 = some (grpOf [inTxn []]) ∧ sTxn.thr? 0 0 0 = some (inTxn []) ∧ (inTxn []).txn = some ⟨1, 4, [], [], 0⟩ ∧ 0 + 16384 ≤ sTxn.now)
    ∧ ((0x800001FF : Word).getLsbD 31 = true ∧ 0xFF ∈ State.reset.pkg.caps.cores)
    ∧ ((sCarve.core 0).carve.busy = true ∧ ∀ line w k, (w, k) ∈ sCarve.l1Lines 0 line → w < 8 - 3) := by
  unfold Claim.Rising
  refine ⟨by decide, by decide, by decide, by decide, by decide, by decide, by decide, fun line w k h => ?_⟩
  simp [State.l1Lines, State.l1Set, sCarve, State.reset, getD, find?] at h

/-- A publish request of core 1 to core 0, and the answer to core 1. -/
def ask (k : MKind) : Msg := ⟨k, 0, pubKey 3, SecVal.zero, 0, 5, .core 1⟩
def sAsk (k : MKind) (rseq : Word) (ps : List Posted) : State :=
  { sT with net := [ask k], cores := [(0, { Machine.Core.reset with rseq := rseq, posted := ps })] }

/-- A load of the weight store that waits for the end of a refresh window. -/
def ldwI : Instr := .ldw h64 .w32 false false (.v 1) (.v 2)
def loadW : Acc := { loadA with ins := ldwI, kind := .ldw }
def sLdw : State := { sL with accs := [loadW], now := 5000 }

/-- A write over the end of a segment, in progress, with a poisoned byte before it and one in it. -/
def sWrite : State := { State.reset with wsWrite := [(126, [1, 2, 3, 4])], wsPoison := [(0, (1 : BitVec 128) <<< 127 ||| 1)] }

theorem wit_PublishAndStoreEvents :
    ((sAsk .pubReq 0 []).net.find? (fun m => m.kind == .pubReq && m.core == 0 && m.sec == pubKey 3 && m.who == .core 1
          && (sAsk .pubReq 0 []).landed m) = some (ask .pubReq)
      ∧ ((sAsk .pubReq 0 []).core 0).inWindow 3 = false)
    ∧ (((sAsk .pubReq 3 [posted1]).core 0).inWindow 3 = true ∧ ((sAsk .pubReq 3 [posted1]).core 0).drain = none
      ∧ ((sAsk .pubReq 3 [posted1]).core 0).posted ≠ [])
    ∧ State.reset.hom.ctl.getLsbD 0 = false
    ∧ (((sAsk .pubAck 3 []).net.filter fun m => m.kind == .pubAck && m.core == 0 && m.seq == (ask .pubAck).seq
          && (sAsk .pubAck 3 []).landed m) = [ask .pubAck]
      ∧ (ask .pubAck).who = .core 1 ∧ (ask .pubAck).sec = pubKey 3 ∧ seqAbove 3 (ask .pubAck).seq = false
      ∧ (sAsk .pubAck 3 []).accs = [])
    ∧ ((State.reset.wsReaders = 0 ∧ 2 ^ 30 - 8 + [(1 : Byte), 2, 3, 4, 5, 6, 7, 8].length ≤ 2 ^ 30 ∧ (2 ^ 30 - 8) % max 1 8 = 0)
      ∧ (2 ^ 30 < (2 ^ 30 - 7) + [(1 : Byte), 2, 3, 4, 5, 6, 7, 8].length)
      ∧ ({ State.reset with wsReaders := 1 }.wsReaders ≠ 0 ∧ 4 % max 1 4 = 0)
      ∧ (4 + [(1 : Byte), 2, 3, 4, 5, 6, 7, 8].length ≤ 2 ^ 30 ∧ 4 % max 1 8 ≠ 0)
      ∧ sWrite.wsWrite = (126, [1, 2, 3, 4]) :: [] ∧ Memory.wf sWrite.wstore = true ∧ Claim.Rising sWrite.wsPoison)
    ∧ (sLdw.accs = [loadW] ∧ sLdw.refreshing 0 = false ∧ sLdw.wsBad 0 (retBytes ldwI) = false ∧ retDst ldwI = some (.v 1, 1) ∧ 0 % retBytes ldwI = 0
      ∧ sLdw.haltedGrp 0 0 = false ∧ leased.fr.ws = true ∧ sLdw.grp? 0 0 = some yU ∧ yU.threads[0]? = some user) := by
  unfold Claim.Rising
  refine ⟨by decide, by decide, by decide, by decide, by decide, by decide⟩

/-! ### Witnesses: the slice directory and the L1s -/

/-- An entry of sector 0 with its data in the LLC, and a state with it, the L1 line of core 0 and one message. -/
def ent (st : DirSt) : DirE := { DirE.reset with st := st, lv := true, owner := 9, clv := 5 }
def sDir (e : DirE) (ms : List Msg) : State := { sT with dir := [(0, e)], net := ms }
def msgOf (k : MKind) : Msg := Claim.note k 0 0 SecVal.zero 0

/-- Lines of a set of the LLC, in the ways from 0 upward, and a state in which line 0's set holds them. -/
def linesFrom (k n : Nat) : List LlcLine := (List.range n).map fun i => ⟨k + i, i, 2, none⟩
def sSet (st : State) (xs : List LlcLine) : State := st.putLlc 0 xs

/-- A set whose ways all hold lines, one request waiting. -/
def sFullSet : State :=
  { sSet sT (linesFrom 1 16) with
    dir := (0, { DirE.reset with fifo := [.gets 0] }) :: (List.range 16).map (fun i => (2 * (i + 1), { ent .i with clv := 0 }))
    net := [msgOf .gets] }
def emptied : State := { sFullSet with dir := sFullSet.dir.drop 1 }

/-- Nine pinned lines. -/
def ninePins : List LlcLine := (linesFrom 0 9).map fun x => { x with pin := some (20 + x.way) }

theorem wit_Ways :
    (∀ st ∈ [DirSt.i, .s, .x, .o], (sDir (ent st) [msgOf .gets]).llcRoom 0 = true)
    ∧ (emptied.llcRoom 0 = false ∧ emptied.msg? .gets 0 0 = some (msgOf .gets) ∧ (emptied.dirE 0).trans = .stable
      ∧ (emptied.dirE 0).fifo = [] ∧ (emptied.dirE 0).held = none
      ∧ emptied.nonBinding 0 0 = false ∧ emptied.fifoCount 0 < 64)
    ∧ ((sDir DirE.reset [msgOf .gets]).llcHolds 0 = false ∧ ((sDir DirE.reset [msgOf .gets]).llcLines 0).length < 16
      ∧ (((sDir DirE.reset [msgOf .gets]).llcLines 0).filter (·.pin.isSome)).length < 8)
    ∧ ((sSet (sDir (ent .i) [msgOf .gets]) (linesFrom 0 1)).llcLines 0).any (·.line == 0) = true
    ∧ ((ninePins.filter (·.pin.isSome)).length = 9 ∧ (ninePins.filterMap (·.pin)).Nodup
      ∧ (⟨0, 0, 2, some 20⟩ : LlcLine) ∈ ninePins ∧ ∀ y ∈ ninePins, ∀ k ∈ y.pin, 20 ≤ k) := by
  refine ⟨by decide, by decide, by decide, by decide, by decide⟩

/-- An entry whose recorded copies are of no cluster. -/
def bare (st : DirSt) : DirE := { ent st with clv := 0 }

/-- A sector with 64 requests in its FIFO. -/
def sQueued (k : MKind) : State := sDir { ent .s with fifo := List.replicate 64 (.gets 1) } [msgOf k]

theorem wit_SliceRequests :
    (∀ st ∈ [DirSt.i, .s, .x, .o], (sDir (ent st) [msgOf .gets]).msg? .gets 0 0 = some (msgOf .gets)
      ∧ (sDir (ent st) [msgOf .gets]).nonBinding 0 0 = false
      ∧ Claim.Near (sDir (ent st) [msgOf .gets]) 0 (ent st))
    ∧ (∀ st ∈ [DirSt.i, .s, .x, .o], ∀ k ∈ [MKind.getx, .getz, .upg],
      (sDir (ent st) [msgOf k]).msg? k 0 0 = some (msgOf k) ∧ Claim.Near (sDir (ent st) [msgOf k]) 0 (ent st))
    ∧ (∀ st ∈ [DirSt.s, .o], ∀ k ∈ [MKind.getx, .getz, .upg, .cinvq],
      (sDir (bare st) [msgOf k]).msg? k 0 0 = some (msgOf k) ∧ Claim.Near (sDir (bare st) [msgOf k]) 0 (bare st)
        ∧ (bare st).clusters = [])
    ∧ (∀ st ∈ [DirSt.i, .s, .x, .o], ∀ k ∈ [MKind.cflq, .cinvq],
      (sDir (ent st) [msgOf k]).msg? k 0 0 = some (msgOf k) ∧ Claim.Near (sDir (ent st) [msgOf k]) 0 (ent st))
    ∧ (∀ k ∈ [MKind.getx, .getz, .upg, .gets, .cflq, .cinvq],
      (sDir { ent .s with trans := .bI } [msgOf k]).msg? k 0 0 = some (msgOf k)
        ∧ ((sDir { ent .s with trans := .bI } [msgOf k]).dirE 0).trans ≠ .stable
        ∧ (sDir { ent .s with trans := .bI } [msgOf k]).nonBinding 0 0 = false
        ∧ (sDir { ent .s with trans := .bI } [msgOf k]).fifoCount 0 < 64)
    ∧ (∀ k ∈ [MKind.getx, .getz, .upg, .gets, .cflq, .cinvq], (sQueued k).msg? k 0 0 = some (msgOf k)
        ∧ ((sQueued k).dirE 0).fifo ≠ [] ∧ (sQueued k).nonBinding 0 0 = false ∧ 64 ≤ (sQueued k).fifoCount 0)
    ∧ ((sDir DirE.reset [msgOf .gets]).msg? .gets 0 0 = some (msgOf .gets) ∧ (sDir DirE.reset [msgOf .gets]).mnd.walks = []
      ∧ (sDir DirE.reset [msgOf .gets]).far 0 = false ∧ (sDir DirE.reset [msgOf .gets]).podFind 0 = none
      ∧ (sDir DirE.reset [msgOf .gets]).nonBinding 0 0 = false ∧ DirE.reset.trans = .stable ∧ DirE.reset.lv = false ∧ DirE.reset.st = .i)
    ∧ ((sDir { ent .i with fifo := [.gets 0, .upg 1] } []).dirE 0 = { ent .i with fifo := [.gets 0, .upg 1] }
      ∧ (sDir { ent .i with fifo := [.gets 0, .upg 1] } []).nonBinding 0 0 = false
      ∧ (sDir { ent .i with fifo := [.gets 0, .upg 1] } []).far 0 = false
      ∧ (sDir { ent .i with fifo := [.gets 0, .upg 1] } []).podFind 0 = none) := by
  unfold Claim.Near
  refine ⟨by decide, by decide, by decide, by decide, by decide, by decide, by decide, by decide⟩

/-- A state with the line of sector 0 in the L1 of core 0 and one message. -/
def sLn (st : L1St) (ms : List Msg) : State := { sC st with net := ms }

/-- The same, with a store pending, or with a thread whose CFLUSH step is with the slice. -/
def sPnd : State :=
  { sLn .imd [msgOf .dataM] with
    cores := [(0, { Machine.Core.reset with l1 := [(0, lineE .imd)], pend := [(0, ⟨15, 7, 1, []⟩)] })] }
def flusher : Thread := { user with maint := some ⟨0, 64, 0, true, none⟩ }
def sMnt : State := { sG (grpOf [flusher]) with cores := (sC .s).cores, net := [msgOf .mntAck] }

/-- One way of set 0 of core 0 is left, and line 512 lies in it; a fill of line 0 is on its way. -/
def sOneWay (k : MKind) (st : L1St) : State :=
  { sT with
    cores := [(0, { Machine.Core.reset with
      l1 := [(0, lineE st), (1024, lineE .s)], carve := ⟨7, 7, false, false, false⟩ })]
    net := [msgOf k]
    repl := ⟨[(0, ⟨[(0, 512)], 0⟩)], [], [], 0⟩ }

/-- The same, with line 512 in the footprint of a transaction. -/
def sHeldWay : State :=
  { sOneWay .dataS .isd with
    blocks := [(0, { leased with groups := [grpOf [{ user with txn := some ⟨1, 4, [1024], [], 0⟩ }]] })] }

/-- Line 0 in the way that a change of the carve-out takes. -/
def sGiven (st : L1St) : State :=
  { sT with
    cores := [(0, { Machine.Core.reset with l1 := [(0, lineE st)], carve := ⟨0, 3, true, false, false⟩ })]
    repl := ⟨[(0, ⟨[(6, 0)], 0⟩)], [], [], 0⟩ }

theorem wit_L1Ways :
    (∀ k ∈ [MKind.dataS, .dataE, .dataM], (sLn .isd [msgOf k]).l1Room 0 0 = true ∧ (sLn .isd [msgOf k]).l1Lines 0 0 = [])
    ∧ sPnd.l1Room 0 0 = true
    ∧ (∀ k ∈ [MKind.dataS, .dataE, .dataM], (sOneWay k .isd).l1Room 0 0 = false ∧ (sOneWay k .isd).l1Victim 0 0 = some 512)
    ∧ (sHeldWay.l1Room 0 0 = false ∧ sHeldWay.l1Lines 0 0 = [(0, 512)] ∧ sHeldWay.l1Ways 0 = 1
      ∧ sHeldWay.footprintOn 0 (2 * 512) = true ∧ sHeldWay.conflicts 1024 true none = [(0, 0, 0)]
      ∧ sHeldWay.l1Victim 0 0 = none ∧ sHeldWay.nonBinding 0 0 = false)
    ∧ (((sOneWay .dataS .isd).l1Set 0 512).lines.find? (·.2 == 512) = some (0, 512))
    ∧ ((sOneWay .dataS .isd).l1Lines 0 0).map (·.1) = [0]
    ∧ (sOneWay .dataS .isd).l1Given 0 0 = false
    ∧ (∀ st ∈ [L1St.s, .e, .o, .m], (sGiven st).l1Given 0 0 = true ∧ (sGiven st).l1? 0 0 = some (lineE st)
      ∧ (sGiven st).footprintOn 0 0 = false) := by
  refine ⟨by decide, by decide, by decide, by decide, by decide, by decide, by decide, by decide⟩

-- 06 R174: the way that was used last is not the next victim; the way of a .STREAM fill is.
theorem test_tree_lru : treePick (treeMark 5 false 3 1 0 0) (fun _ => true) 3 1 0 = 0 := by decide
theorem test_tree_stream : treePick (treeMark 5 true 3 1 0 0) (fun _ => true) 3 1 0 = 5 := by decide

/-- The state that an event leaves. -/
def evictSteps (i : Instr) (s : State) : Option State :=
  match exec i s with
  | .next t => some t
  | _ => none

-- 06 R174: the line that the full set gives up is written back, and then the fill goes into its way.
theorem test_l1Evict : (evictSteps (.l1Evict 0 1024) (sOneWay .dataS .isd)).map
    (fun t => ((t.l1? 0 1024).map (·.st), t.l1Room 0 0, t.net.map (·.kind))) = some (some .sia, true, [.dataS, .putc]) := by decide

theorem wit_L1Rows :
    (∀ st ∈ [L1St.m, .o, .e], ∀ k ∈ [MKind.fwdGets, .fwdWb, .fwdGetx, .fwdWbi],
      Claim.Rising (sLn st [msgOf k]).cores ∧ Claim.Rising ((sLn st [msgOf k]).core 0).l1
        ∧ (sLn st [msgOf k]).l1? 0 0 = some (lineE st) ∧ (lineE st).val.tag = none
        ∧ (∀ w, (sLn st [msgOf k]).conflicts 0 w none = []) ∧ (sLn st [msgOf k]).msg? k 0 0 = some (msgOf k))
    ∧ ((sLn .s [msgOf .inv]).msg? .inv 0 0 = some (msgOf .inv) ∧ (sLn .s [msgOf .inv]).conflicts 0 true none = []
      ∧ Claim.Rising (sLn .s [msgOf .inv]).cores ∧ Claim.Rising ((sLn .s [msgOf .inv]).core 0).l1
      ∧ (sLn .s [msgOf .inv]).l1? 0 0 = some (lineE .s))
    ∧ (∀ k ∈ [MKind.dataS, .dataE, .dataM], (sLn .isd [msgOf k]).msg? k 0 0 = some (msgOf k)
      ∧ (sLn .isd [msgOf k]).l1? 0 0 = some (lineE .isd) ∧ find? 0 ((sLn .isd [msgOf k]).core 0).pend = none)
    ∧ (sPnd.msg? .dataM 0 0 = some (msgOf .dataM) ∧ sPnd.l1? 0 0 = some (lineE .imd) ∧ Claim.Rising (sPnd.core 0).pend
      ∧ (find? 0 (sPnd.core 0).pend).isSome = true ∧ (sPnd.core 0).drain = none ∧ sPnd.conflicts 0 true none = [])
    ∧ ((sLn .sma [msgOf .upgAck]).msg? .upgAck 0 0 = some (msgOf .upgAck)
      ∧ (sLn .sma [msgOf .upgAck]).l1? 0 0 = some (lineE .sma) ∧ (sLn .s [msgOf .upgAck]).l1? 0 0 = some (lineE .s))
    ∧ ((sLn .mia [msgOf .wbAck]).msg? .wbAck 0 0 = some (msgOf .wbAck) ∧ (lineE .mia).st.named = false
      ∧ (sLn .mia [msgOf .wbAck]).l1? 0 0 = some (lineE .mia))
    ∧ (∀ st ∈ [L1St.s, .e, .o, .m], (sLn st []).l1? 0 0 = some (lineE st) ∧ (lineE st).st.stable = true
      ∧ (lineE st).val.tag = none ∧ (sLn st []).footprintOn 0 0 = false)
    ∧ (sMnt.msg? .mntAck 0 0 = some (msgOf .mntAck) ∧ sMnt.blocks.length = 1 ∧ flusher.maint = some ⟨0, 64, 0, true, none⟩
      ∧ ({ sMnt with net := sMnt.net.erase (msgOf .mntAck) } : State).vaSec 0 1 0 = some 0) := by
  unfold Claim.Rising
  refine ⟨by decide, by decide, by decide, by decide, by decide, by decide, by decide, by decide⟩

/-! ### Witnesses: answers at the slice, copies' events -/

/-- An entry of sector 0 in a transaction, with its request. -/
def busyEnt (st : DirSt) (tr : Trans) (r : DReq) : DirE := { ent st with trans := tr, req := some r }
def dirtyEnt (tr : Trans) (r : Option DReq) : DirE := { ent .i with ld := true, trans := tr, req := r }
def granted (st : DirSt) : DirE := { busyEnt .i .bD (.gets 0) with grant := some ⟨0, st, 0⟩ }

/-- An entry that has granted its sector to a core and holds the PUTM of core 4. -/
def heldEnt (p : Nat) : DirE := { granted .x with grant := some ⟨p, .x, p⟩, held := some (4, SecVal.zero) }

/-- The same, core 0's PUTM there too; cores 1 and 5 hold copies beside theirs. -/
def sTwo (p : Nat) : State :=
  { sDir (heldEnt p) [msgOf .putm] with
    cores := [(1, { Machine.Core.reset with l1 := [(0, lineE .s)] }), (5, { Machine.Core.reset with l1 := [(0, lineE .s)] })] }
def lineEnts : State := { sT with dir := [(0, { ent .i with clv := 0 }), (1, { ent .i with clv := 0 })] }

theorem wit_SliceAnswers :
    (∀ st ∈ [DirSt.x, .o], ∀ r ∈ [DReq.gets 0, .getx 0, .cflq 0],
      (sDir (busyEnt st .bF r) [msgOf .fwdData]).msg? .fwdData 0 0 = some (msgOf .fwdData)
        ∧ (sDir (busyEnt st .bF r) [msgOf .fwdData]).dirE 0 = busyEnt st .bF r
        ∧ (busyEnt st .bF r).keeps = false ∧ (sDir (busyEnt st .bF r) [msgOf .fwdData]).far 0 = false)
    ∧ (∀ st ∈ [DirSt.x, .s], ∀ k ∈ [MKind.putc, .putm],
      (sDir { ent st with owner := 0 } [msgOf k]).msg? k 0 0 = some (msgOf k)
        ∧ (sDir { ent st with owner := 0 } [msgOf k]).dirE 0 = { ent st with owner := 0 } ∧ (ent st).trans = .stable
        ∧ (ent st).lv = true ∧ (busyEnt st .bF (.gets 0)).trans ≠ .stable
        ∧ (busyEnt st .bF (.gets 0)).held = none)
    ∧ (∀ p ∈ [4, 8], (sTwo p).msg? .putm 0 0 = some (msgOf .putm)
        ∧ (sTwo p).dirE 0 = heldEnt p ∧ (heldEnt p).trans ≠ .stable
        ∧ (heldEnt p).held = some (4, SecVal.zero) ∧ ((heldEnt p).heir = some 4 ↔ p = 4)
        ∧ (sTwo p).lastHolder 4 0 = false ∧ (sTwo p).lastHolder 0 0 = false)
    ∧ (sDir (ent .i) [msgOf .upgMiss]).msg? .upgMiss 0 0 = some (msgOf .upgMiss)
    ∧ (∀ n ∈ [0, 1, 2], (sDir { busyEnt .s .bI (.getx 0) with acks := n } [msgOf .invAck]).msg? .invAck 0 0
          = some (msgOf .invAck)
        ∧ (sDir { busyEnt .s .bI (.getx 0) with acks := n } [msgOf .invAck]).dirE 0 = { busyEnt .s .bI (.getx 0) with acks := n })
    ∧ (∀ st ∈ [DirSt.x, .o, .s], (sDir (granted st) [msgOf .done]).msg? .done 0 0 = some (msgOf .done)
        ∧ (sDir (granted st) [msgOf .done]).dirE 0 = granted st ∧ (granted st).grant = some ⟨0, st, 0⟩ ∧ (granted st).held = none)
    ∧ ((sDir (busyEnt .i .bM (.gets 0)) []).dirE 0 = busyEnt .i .bM (.gets 0)
      ∧ (sDir (busyEnt .i .bM (.gets 0)) []).far 0 = false ∧ (sDir (busyEnt .i .bM (.gets 0)) []).podFind 0 = none
      ∧ (sDir (busyEnt .i .bM (.gets 0)) []).nonBinding 0 0 = false)
    ∧ ((sDir (dirtyEnt .bW (some (.cflq 0))) []).dirE 0 = dirtyEnt .bW (some (.cflq 0))
      ∧ (dirtyEnt .bW (some (.cflq 0))).lv = true ∧ (dirtyEnt .bW (some (.cflq 0))).val = SecVal.zero
      ∧ Memory.wf (sDir (dirtyEnt .bW (some (.cflq 0))) []).mem = true)
    ∧ ((sDir (busyEnt .i .bH (.gets 0)) []).dirE 0 = busyEnt .i .bH (.gets 0)
      ∧ (sDir (busyEnt .i .bH (.gets 0)) []).fab.unacked = [] ∧ (sDir (busyEnt .i .bH (.gets 0)) []).hst.reqs = []
      ∧ (sDir (busyEnt .i .bH (.gets 0)) []).nonBinding 0 0 = false)
    ∧ ((∀ k ∈ [0, 1], (lineEnts.dirE k).trans = .stable ∧ (lineEnts.dirE k).lv = true
        ∧ (lineEnts.dirE k).st = .i ∧ (lineEnts.dirE k).clv = 0)
      ∧ (sDir (dirtyEnt .bE none) []).dirE 0 = dirtyEnt .bE none ∧ Claim.Rising (sDir (dirtyEnt .bE none) []).dir
      ∧ (dirtyEnt .bE none).acks = 0)
    ∧ (sDir (ent .i) []).dirE 0 = ent .i ∧ (ent .i).lv = true := by
  unfold Claim.Rising
  refine ⟨by decide, by decide, by decide, by decide, by decide, by decide, by decide, by decide, by decide, by decide, by decide⟩

/-- A unit of a CPYM that two clusters of the partition have not acknowledged. -/
def held1 : HoldU := ⟨3, 0, 0, 0, 64, 7, [0, 1]⟩
def sHeld : State :=
  { sL with
    hold := [(0, [held1])]
    blocks := [(0, { pairBlock 0 copy0 with colls := [{ coll1 with multi := true }] }), (1, pairBlock 1 copy0)] }

/-- A copy whose stream has not been fetched. -/
def empty : Tile := { copy0 with buf := [] }

/-- A product of 32 elements with shared scales in flight, and a copy with a fault. -/
def scaledI : Instr := .tmmax 0 2 1 .e4m3 .e4m3 .fp32 false 0
def scaler : Tile := { copy0 with ctl := [(0, 0), (1, 0x40103), (2, 0x40100)], wait := .matrix scaledI 0 }
def tfault (told : Bool) : TFault := ⟨0, 0, 0x09, 0, false, told, false⟩
def faulty (told : Bool) : Tile := { copy0 with fault := some (tfault told) }
def retryBlock : Block := { tb (faulty true) with fr := { leased.fr with policy := 0x40, polset := 8 } }
def sRetry : State := { sI (faulty true) with blocks := [(0, retryBlock)] }

/-- The words of a fetched stream. -/
def words? : Fetched → Option (List Word)
  | .line ws => some ws
  | _ => none

theorem wit_CopyEvents :
    (getD [] sHeld.hold 0 = [held1] ∧ 1 ∈ held1.dsts ∧ held1.dsts.filter (· != 1) ≠ []
      ∧ (sHeld.slice? held1.blk held1.coll held1.grp).map (fun q => (q.2.1.bar, q.2.2.rem)) = some (none, 16)
      ∧ sHeld.partBlock (pairBlock 0 copy0) 1 = some 1 ∧ sHeld.blk? 1 = some (pairBlock 1 copy0)
      ∧ Memory.wf (pairBlock 1 copy0).scratch = true
      ∧ ∀ q ∈ [{ coll1 with multi := true }], q.num ≤ held1.coll ∧ (q.num = held1.coll → ∀ w ∈ q.slices, w.grp ≤ held1.grp))
    ∧ ((sI empty).blk? 0 = some (tb empty) ∧ empty.buf = [] ∧ empty.fault = none ∧ (sI empty).pkg.stopped = false
      ∧ words? ((sI empty).streamLines 0 (tb empty) 0 ((List.range empty.lines).map fun i => empty.base + 128 * i)).2.1
        = some (List.replicate 32 0)
      ∧ ((sI empty).streamLines 0 (tb empty) 0 ((List.range empty.lines).map fun i => empty.base + 128 * i)).1.blk? 0
        = some (tb empty)
      ∧ (tb empty).fr.ordered = false)
    ∧ ((sI scaler).blk? 0 = some (tb scaler) ∧ (sI scaler).tile? 0 0 = some scaler ∧ scaler.wait = .matrix scaledI 0
      ∧ matrixFault (tb scaler) scaler scaledI = none ∧ (sI scaler).tileReady 0 0 = true
      ∧ (mform? scaledI).map (fun f => (f.scales scaler).contains 0) = some true ∧ find? 0 scaler.scale = none
      ∧ scaler.scale.length < 256)
    ∧ ((sI (faulty false)).tile? 0 0 = some (faulty false) ∧ (faulty false).fault = some (tfault false)
      ∧ sRetry.blockOnCore 0 = some (0, 0, faulty true) ∧ sRetry.blk? 0 = some retryBlock ∧ (tfault true).told = true
      ∧ (faulty true).buf ≠ [] ∧ sRetry.policy retryBlock 3 = 1 ∧ (faulty true).retries < 3 ∧ sRetry.trp.ctl = 0
      ∧ sRetry.ioqShape 0 = none) := by
  refine ⟨by decide, by decide, by decide, by decide⟩

/-! ### Witnesses: the fabric engine -/

/-- A package whose home is open, with one unacknowledged request. -/
def reqOf (o : FOwner) : FReq := ⟨1, 3, false, .home (.read 0), o, 0, 70000, 0, none, [], 2, 0⟩
def sReq (o : FOwner) (now : Nat) : State :=
  { State.reset with
    now := now, hom := { State.reset.hom with ctl := 1 }
    fab := { State.reset.fab with unacked := [reqOf o], reach := [(1, [2, 5])] } }

/-- The same, its request timed out and its ABANDON on its way. -/
def dropping : FReq := { reqOf .engine with op := .abandon 3 }
def sDrop : State := { sReq .engine 0 with fab := { (sReq .engine 0).fab with unacked := [dropping] } }
def sOpen : State := { State.reset with hom := { State.reset.hom with ctl := 1 } }

def dup1 : Dup := ⟨1, 3, .inProgress, false, none, none⟩
def sDup : State := { State.reset with fab := { State.reset.fab with dups := [dup1] } }
def mig1 : Mig := ⟨1, 0, 2, 4096⟩
def sMig : State := { State.reset with fab := { State.reset.fab with migs := [mig1] } }

/-- A state in which a registration has begun, its descriptor at address 0 of memory. -/
def sColl (mem : Memory) : State :=
  { State.reset with mem := mem, fab := { State.reset.fab with collBusy := true, reach := [(0, [0]), (1, [0])] } }
def two : Memory := [(0, 5), (2, 2), (10, 1)]
def one : Memory := [(0, 5), (2, 1)]

/-- An FRED of 65 elements whose contributions are sent, and its second chunk, of one element, in the L1. -/
def fred1 : Bulk := ⟨8, 0, 0, 0, 4, 2, 0, 0, 0, 0, 0, .add, .bf16, 5, 65, [], List.replicate 65 0, false⟩
def sFred : State :=
  { sT with
    cores := [(0, { Machine.Core.reset with l1 := [(2, { lineE .m with vsec := 2 })] })]
    fab := { State.reset.fab with bulks := [fred1], colls := [⟨5, [0, 1], 0⟩] } }

/-- The bytes that a read of physical memory has given. -/
def phys? (s : State) (n : Nat) : Option (List Byte) := read? (s.physRead (partsOf s.collAddr n)).2

theorem wit_FabricEvents :
    (sOpen.hom.ctl.getLsbD 0 = true ∧ Claim.Rising sOpen.fab.low ∧ sOpen.fab.dups = []
      ∧ seqAbove 1 (getD 0 sOpen.fab.low 1) = true ∧ seqAbove 1 2 = false ∧ seqAbove 1 1 = false ∧ gpaOff 0 < 2 ^ 51
      ∧ sOpen.podBlocks 0 false = false ∧ (sOpen.cohRead 0).tag = none ∧ (sOpen.cohRead 0).psn = false
      ∧ sOpen.conflicts 0 false none = [])
    ∧ (State.reset.hom.ctl.getLsbD 0 = false ∧ seqAbove 3 (getD 0 sOpen.fab.low 1) = true ∧ seqAbove 3 2 = true)
    ∧ ((sReq (.sector 0) 0).req? 1 3 = some (reqOf (.sector 0)) ∧ (reqOf (.sector 0)).op.abandons = false
      ∧ (sReq .engine 0).req? 1 3 = some (reqOf .engine) ∧ (reqOf .engine).op.abandons = false
      ∧ sDrop.req? 1 3 = some dropping ∧ dropping.owner = .engine ∧ dropping.op.abandons = true
      ∧ State.reset.req? 1 3 = none)
    ∧ ((sReq (.sector 0) 11200).req? 1 3 = some (reqOf (.sector 0)) ∧ (sReq (.sector 0) 11200).pkg.stopped = false
      ∧ (reqOf (.sector 0)).last + 11200 ≤ (sReq (.sector 0) 11200).now ∧ getD [] (sReq (.sector 0) 11200).fab.reach 1 ≠ [])
    ∧ ((sReq (.sector 0) 70000).req? 1 3 = some (reqOf (.sector 0)) ∧ 0 + 70000 ≤ (sReq (.sector 0) 70000).now
      ∧ (((sReq (.sector 0) 70000).openReqs 1).filter fun q => q.obit && seqAbove q.seq 3) = [])
    ∧ (sDup.fab.dups = [dup1] ∧ dup1.st = .inProgress)
    ∧ (sMig.fab.migs.find? (fun m => m.asid == 1 && m.vpage == 0 && m.home == 2) = some mig1
      ∧ sMig.fab.mig.toNat % 65536 ≠ 0 ∧ sMig.fab.mig.toNat % 65536 ≤ mig1.count
      ∧ sMig.ioqShape (sMig.fab.mig.toNat / 65536 % 1024) = none)
    ∧ (0 ∈ State.reset.pkg.caps.stations ∧ 63 ∈ State.reset.pkg.caps.stations ∧ State.reset.pkg.bootFail = false ∧ Claim.Rising State.reset.fab.reach)
    ∧ ((sColl two).fab.collBusy = true ∧ phys? (sColl two) 8 = some [5, 0, 2, 0, 0, 0, 0, 0]
      ∧ ((sColl two).physRead (partsOf (sColl two).collAddr 8)).1 = sColl two
      ∧ phys? (sColl two) 12 = some [5, 0, 2, 0, 0, 0, 0, 0, 0, 0, 1, 0]
      ∧ ((sColl two).physRead (partsOf (sColl two).collAddr 12)).1 = sColl two
      ∧ (sColl two).collBad (descOf [5, 0, 2, 0, 0, 0, 0, 0, 0, 0, 1, 0]) = false
      ∧ (descOf [5, 0, 2, 0, 0, 0, 0, 0, 0, 0, 1, 0]).members = [0, 1]
      ∧ phys? (sColl one) 10 = some [5, 0, 1, 0, 0, 0, 0, 0, 0, 0]
      ∧ (descOf [5, 0, 1, 0, 0, 0, 0, 0, 0, 0]).members.length = 1)
    ∧ (sFred.fredFor 5 1 .ok = some fred1 ∧ sFred.fredFor 5 1 (.fault 0x10) = some fred1
      ∧ (sFred.collective? 5).isSome = true ∧ 1 ∉ fred1.chunks ∧ 1 < (fred1.count + 63) / 64
      ∧ fred1.chunks.length + 1 < (fred1.count + 63) / 64 ∧ min 64 (fred1.count - 64 * 1) = 1
      ∧ read? (sFred.writeRange (sFred.bulkAgent fred1) (.source 8) (0 + 64 * 2 * 1) [0, 0]).2 = some []
      ∧ (0x10 : BitVec 8) ≠ 0x12 ∧ sFred.thr? 0 0 0 = some user ∧ user.deferred = none) := by
  unfold Claim.Rising
  refine ⟨by decide, by decide, by decide, by decide, by decide, by decide, by decide, by decide, by decide, by decide⟩

/-! ### Witnesses: the home agent -/

/-- An open home with packages 0, 1 and 2 in slots of cells 0, 1 and 2, and its entries. -/
def sHome (seam : Tab (BitVec 64)) (pod : Tab PodE) : State :=
  { State.reset with
    hom := { State.reset.hom with ctl := 1, cells := [(0, 1024), (16, 1025), (32, 1026)], seam := seam, pod := pod } }
def closed : State := { sHome [] [] with hom := { (sHome [] []).hom with ctl := 0 } }

def podOwned : PodE := { PodE.fresh with st := .x, owner := 2 }
def podAsked : PodE := { podOwned with trans := .pF, acks := [2], req := some ⟨.pkg 1, .rdS⟩ }
def podAwaits : PodE := { PodE.fresh with st := .s, trans := .pI, acks := [2, 0, 1024] }

/-- The home waits for package 2 on behalf of package 1. -/
def sAsked : State := { sHome [] [(0, podAsked)] with dir := [(0, { DirE.reset with trans := .bH, req := some (.podS 1) })] }

/-- The sixteen entries of the set of sector 0, sector k * (2^31 + 2^14) each, and none free. -/
def fullSet (e : PodE) : Tab PodE := (List.range 16).map fun k => ((k + 1) * (2 ^ 31 + 2 ^ 14), e)
def sFullPod (e : PodE) : State :=
  { sHome [] (fullSet e) with repl := ⟨[], [], (List.range 16).map (fun k => ((k + 1) * (2 ^ 31 + 2 ^ 14), k)), 0⟩ }
def podShared : PodE := { PodE.fresh with st := .s, cv := 4 }

theorem wit_PodEvicts :
    (∀ k < 17, State.podSet (k * (2 ^ 31 + 2 ^ 14)) = 0)
    ∧ ∀ e ∈ [podShared, podOwned], (sFullPod e).podFind 0 = none ∧ (sFullPod e).podHasRoom 0 1 = false
      ∧ (∀ p ∈ (sFullPod e).podEntries 0, p.2.trans = .stable ∧ p.2.req = none)
      ∧ (2 ^ 31 + 2 ^ 14, e) ∈ (sFullPod e).podEntries 0
      ∧ (∀ p ∈ (sFullPod e).podEntries 0, p.1 ≠ 2 ^ 31 + 2 ^ 14 → getD 0 (sFullPod e).repl.pod (2 ^ 31 + 2 ^ 14) < getD 0 (sFullPod e).repl.pod p.1)
      ∧ (sFullPod e).llcRoom 0 = true ∧ ((sFullPod e).podSharers e .home).length = if e = podShared then 1 else 0 := by
  refine ⟨by decide, by decide⟩

/-- A state in which the stream to package 1 has as many open requests as it may. -/
def sBusy : State := { State.reset with fab := { State.reset.fab with
  unacked := (List.range 1024).map fun k => { reqOf .engine with seq := BitVec.ofNat 32 k } } }

theorem wit_HomeRows :
    ((sHome [] []).pkg.stopped = false ∧ (sHome [] []).fabRoom 1 = true ∧ sBusy.pkg.stopped = false ∧ sBusy.fabRoom 1 = false)
    ∧ (∀ seam ∈ [[], [(0, (2 : BitVec 64))]], Claim.AtHome (sHome seam []) 1 0 ∧ (sHome seam []).podFind 0 = none
      ∧ Claim.Rising (sHome seam []).cores ∧ (sHome seam []).podHasRoom 0 1 = true ∧ (sHome seam []).llcRoom 0 = true ∧ (sHome seam []).seamAllows 0 1 = (seam != []))
    ∧ (closed.homed 0 = true ∧ State.hostSec 0 = false ∧ closed.hom.ctl.getLsbD 0 = false ∧ (sHome [] []).cellOf 9 = none
      ∧ Claim.AtHome (sHome [] []) 1 0 ∧ (sHome [] []).seamAllows 0 1 = false)
    ∧ (Claim.AtHome (sHome [] [(0, podOwned)]) 1 0 ∧ (sHome [] [(0, podOwned)]).podFind 0 = some (0, podOwned)
      ∧ (sHome [] [(0, podOwned)]).podHasRoom 0 0 = true ∧ (sHome [] [(0, podOwned)]).podFull 0 = false
      ∧ (sHome [] [(0, podOwned)]).llcRoom 0 = true ∧ sAsked.llcRoom 0 = true ∧ sAsked.conflicts 0 false none = []
      ∧ sAsked.podFind 0 = some (0, podAsked) ∧ sAsked.hom.seamBusy = none ∧ (sAsked.dirE 0).held = none
      ∧ (sAsked.dirE 0).st = .i)
    ∧ ((sHome [] [(0, podAwaits)]).podFind 0 = some (0, podAwaits) ∧ podAwaits.trans ≠ .stable ∧ 0 ∈ podAwaits.acks
      ∧ 1024 ∈ podAwaits.acks ∧ podAwaits.hown = false)
    ∧ ((sHome [] [(0, podOwned)]).cellDown 2 = false ∧ ((sHome [] [(0, podOwned)]).cellOf 2).isSome = true
      ∧ (sHome [] [(0, podOwned)]).podFind 0 = some (0, podOwned) ∧ podOwned.trans = .stable ∧ podAsked.trans ≠ .stable
      ∧ sAsked.llcRoom 0 = true)
    ∧ ({ sAsked with now := 0 }.podFind 0 = some (0, podAsked) ∧ podAsked.started + podAsked.dl ≤ 0
      ∧ podAsked.acks = [podAsked.owner] ∧ sAsked.cellDown 2 = false ∧ podAsked.held = none) := by
  unfold Claim.AtHome Claim.Rising
  refine ⟨by decide, by decide, by decide, by decide, by decide, by decide, by decide⟩

/-- A far sector, homed at package 1, and what this package has of it. -/
def far1 : Nat := 2 ^ 46
def sFar (d : DirE) (rs : List FReq) : State :=
  { State.reset with dir := [(far1, d)], fab := { State.reset.fab with unacked := rs } }
def farReq : FReq := ⟨1, 3, false, .rdS far1, .sector far1, 0, 70000, 0, none, [], 2, 0⟩
def sRefused : State :=
  { sFar { DirE.reset with st := .s, trans := .bH, req := some (.gets 0) } [farReq] with
    cores := [(0, { Machine.Core.reset with l1 := [(far1, lineE .isd)] })] }

def quiet (n : Nat) : PodE := { PodE.fresh with st := .s, sz := n, touch := false }
def sSweep (n : Nat) : State := { sHome [] [(0, quiet n), (2 ^ n, quiet n)] with now := 1400000 }

theorem wit_HolderRows :
    ((sFar DirE.reset []).homed far1 = false ∧ secHome far1 = 1 ∧ (sFar DirE.reset []).mnd.walks = []
      ∧ ((sFar DirE.reset []).dirE far1).pkgst = .i ∧ find? far1 (sFar DirE.reset []).fab.kept = none
      ∧ (sFar DirE.reset []).fab.waiting = []
      ∧ (∀ p ∈ [PkgSt.s, .e, .o, .m], (sFar { ent .i with pkgst := p, owner := 0, clv := 0 } []).dirE far1
          = { ent .i with pkgst := p, owner := 0, clv := 0 })
      ∧ Claim.Rising (sFar (ent .i) []).dir ∧ Claim.Rising (sFar (ent .i) []).cores
      ∧ (sFar (ent .i) []).conflicts far1 true none = [])
    ∧ ((sFar DirE.reset [farReq]).sectorReq 1 far1 = some farReq
      ∧ sRefused.sectorReq 1 far1 = some farReq ∧ (sRefused.dirE far1).req = some (.gets 0) ∧ (sRefused.dirE far1).held = none
      ∧ (sRefused.dirE far1).st = .s ∧ sRefused.l1? 0 far1 = some (lineE .isd) ∧ find? far1 (sRefused.core 0).pend = none
      ∧ sRefused.accs = [] ∧ Claim.Rising sRefused.cores ∧ Claim.Rising (sRefused.core 0).l1)
    ∧ ((sFar { ent .i with pkgst := .s } []).homed far1 = false
      ∧ ((sFar { ent .i with pkgst := .s } []).dirE far1).pkgst ≠ .i)
    ∧ (∀ n ∈ [0, 9], (sSweep n).hom.merge.toNat % 65536 ≠ 0
      ∧ (sSweep n).hom.lastSweep + 1400 * ((sSweep n).hom.merge.toNat % 65536) ≤ (sSweep n).now
      ∧ (sSweep n).hom.pod = [(0, quiet n), (0 + 2 ^ (quiet n).sz, quiet n)] ∧ (quiet n).sz < 10
      ∧ 0 % 2 ^ ((quiet n).sz + 1) = 0)
    ∧ ((1 : Word).getLsbD 0 = true ∧ State.reset.hom.ctl.getLsbD 0 = false ∧ State.reset.cellOf State.reset.self = none
      ∧ (sHome [] []).hom.ctl.getLsbD 0 = true ∧ (0x80100000 : Word).getLsbD 31 = true ∧ (0x80100000 : Word).getLsbD 20 = true
      ∧ (∀ q ∈ closed.hom.cells, q.2 = (0x80100000 : Word).toNat / 1024 % 1024 + 1024 → q.1 = 0)
      ∧ (0xC0000000 : Word).getLsbD 30 = true ∧ (sHome [] []).seamPending = false ∧ (sHome [] []).hom.pod = []
      ∧ (sHome [] []).hom.seamBusy = none) := by
  unfold Claim.Rising
  refine ⟨by decide, by decide, by decide, by decide, by decide⟩

/-! ### Witnesses: the Mending Engine and the translation engine -/

/-- Package 0 in cell 0 and package 1 in cell 1; the engine watches. -/
def sMnd (now : Nat) : State :=
  { State.reset with
    now := now
    hom := { State.reset.hom with ctl := 1, cells := [(0, 1024), (16, 1025)] }
    mnd := { State.reset.mnd with ctl := 1, seen := [(1, 0)] } }
def sDown : State := { sMnd 0 with hom := { (sMnd 0).hom with down := 2 } }

/-- A walk of cell 1 with an entry owned there, a line homed there, or nothing left to visit. -/
def walkOf (es ls : List Nat) : Walk := ⟨1, es, ls, 0, 1, 1, 0⟩
def sWalk (es ls : List Nat) : State :=
  { sMnd 0 with
    dir := if ls = [] then [] else [(far1, { ent .i with pkgst := .e })]
    hom := { (sMnd 0).hom with pod := if es = [] then [] else [(0, { PodE.fresh with st := .x, owner := 1 })] }
    mnd := { (sMnd 0).mnd with busy := true, walks := [walkOf es ls] } }

/-- A line homed in the dead cell that L1s of clusters 0 and 2 hold. -/
def sShared : State := { sWalk [] [far1] with dir := [(far1, { ent .s with pkgst := .e, clv := 5 })] }

theorem wit_MendingEvents :
    (Claim.Alone (sMnd 42000) 1 ∧ find? 1 (sMnd 42000).mnd.seen = some 0 ∧ (sMnd 42000).cellOf 1 = some 1
      ∧ (sMnd 42000).watches = true ∧ 0 + (sMnd 42000).beaconLimit ≤ (sMnd 42000).now ∧ (sMnd 0).cellDown 1 = false
      ∧ Claim.Alone (sMnd 0) 1 ∧ (sMnd 0).mnd.ctl = 1 ∧ (sMnd 0).ioqShape 0 = none)
    ∧ ((sMnd 0).pkg.stopped = false ∧ (sMnd 14000).watches = true
      ∧ (sMnd 14000).mnd.lastSent + (sMnd 14000).beaconPeriod ≤ (sMnd 14000).now ∧ (sMnd 14000).peers = [1]
      ∧ (sMnd 14000).peers.Nodup ∧ Claim.Rising (sMnd 14000).mnd.rot)
    ∧ (sDown.hom.down.getLsbD 1 = true ∧ sDown.hom.down.getLsbD 63 = false ∧ sDown.mnd.busy = false ∧ sDown.mnd.ctl = 1)
    ∧ ((sWalk [0] []).mnd.walks = [walkOf [0] []]
      ∧ (sWalk [0] []).podFind 0 = some (0, { PodE.fresh with st := .x, owner := 1 })
      ∧ (sWalk [0] []).cellOf 1 = some 1 ∧ ((sWalk [0] []).dirE 0).lv = false ∧ 0 ∉ (sWalk [0] []).hom.poison
      ∧ (sWalk [0] []).hom.seamBusy = none ∧ Claim.Rising (sWalk [0] []).hom.pod
      ∧ (sWalk [] [far1]).mnd.walks = [walkOf [] [far1]] ∧ (sWalk [] [far1]).dirE far1 = { ent .i with pkgst := .e }
      ∧ Claim.Rising (sWalk [] [far1]).dir ∧ sShared.mnd.walks = [walkOf [] [far1]]
      ∧ sShared.dirE far1 = { ent .s with pkgst := .e, clv := 5 } ∧ Claim.Rising sShared.dir
      ∧ (sWalk [] []).mnd.busy = true ∧ (∀ w ∈ (sWalk [] []).mnd.walks, w.entries = [] ∧ w.lines = [])
      ∧ (sWalk [] []).ioqShape ((sWalk [] []).mnd.ctl.toNat / 4 % 1024) = none)
    ∧ State.reset.pkg.mchk.getLsbD 2 = false := by
  unfold Claim.Alone Claim.Rising
  refine ⟨?_, by decide, by decide, by decide, by decide⟩
  refine ⟨⟨by decide, by decide, by decide, by decide, by decide, by decide, by decide, by decide, by decide, by decide, by decide,
    by decide, by decide, ?_, by decide⟩, by decide, by decide, by decide, by decide, by decide, ⟨by decide, by decide,
    by decide, by decide, by decide, by decide, by decide, by decide, by decide, by decide, by decide, by decide, by decide, ?_,
    by decide⟩, by decide⟩
  · intro k v h
    simp [sMnd] at h
    rcases h with ⟨rfl, rfl⟩ | ⟨rfl, rfl⟩ <;> decide
  · intro k v h
    simp [sMnd] at h
    rcases h with ⟨rfl, rfl⟩ | ⟨rfl, rfl⟩ <;> decide

/-- Tables whose leaf of address 0 under ASID 1 maps 2^32 bytes, accessed but not written. -/
def tables : Memory := [(8, 1), (9, 0x10), (4096, 1), (4097, 0x20), (8192, 1), (8193, 0x30), (12288, 0x0F), (12289, 4)]
def sTab : State := { State.reset with mem := tables }
/-- The same, its root held by another package. -/
def sTabHeld : State :=
  { sTab with hom := { State.reset.hom with ctl := 1, cells := [(0, 1024), (1, 1025)],
                                            pod := [(0, { PodE.fresh with st := .x, owner := 1 })] } }
def asker : Shoot := ⟨.all, 0, 0, some (0, 0, 0), [], [], [], [], []⟩
def sShoot : State := { sL with xlt := { State.reset.xlt with busy := true, shoot := some asker } }

theorem wit_TranslationEvents :
    ((sTab.walkBy 0 1 0).1 = some (12288, 2, 0x40F) ∧ (getD [] sTab.xlt.tlb 0).length < 16
      ∧ sTab.leafBad (tlbOf 1 0 2 0x40F) = false ∧ (sTab.walkReady 0 1 0 (Want.load false)).2 = true
      ∧ (sTabHeld.walkReady 0 1 0 (Want.load false)).2 = false ∧ getD [] sTab.xlt.nodes 0 = []
      ∧ (getD [] (sTab.walkBy 0 1 0).2.xlt.nodes 0).map (fun n => (n.lvl, n.node)) = [(3, 0x3000), (4, 0x2000)])
    ∧ (∀ q ∈ [(ShKind.page, 0x80000001#32), (.asid, 0x80000801#32), (.all, 0x80001001#32)],
      q.2.toNat / 2 ^ 11 % 4 = (match q.1 with
        | .page => 0
        | .asid => 1
        | .all => 2)
      ∧ q.2.getLsbD 31 = true)
    ∧ (sT.xlt.busy = false ∧ sT.cores = [] ∧ (∀ q ∈ sT.xlt.tlb, ∀ e ∈ q.2, e.pins = 0) ∧ Claim.Rising sT.xlt.tlb)
    ∧ ((0x80000000 : Word).getLsbD 31 = true ∧ sShoot.xlt.busy = true ∧ (0x1800 : Word).toNat / 2 ^ 11 % 4 = 3)
    ∧ (sShoot.xlt.shoot = some asker ∧ sShoot.cores = [] ∧ asker.asker = some (0, 0, 0) ∧ sShoot.thr? 0 0 0 = some user) := by
  unfold Claim.Rising
  refine ⟨by decide, by decide, by decide, by decide, by decide⟩

/-! ### Witnesses: the dispatcher -/

/-- A running dispatcher, its queue q, its stream 2 of ASID 1 and its grids. -/
def qd (spn : Bool) (head tail : Nat) : Queue := ⟨0x8000, 4, 0, true, spn, 2, head, tail, false⟩
def st2 : Stream := { State.reset.streamOf 2 with asid := 1, en := true }
def sDsp (mem : Memory) (d : Queue) (gs : Tab Grid) : State :=
  { State.reset with
    mem := mem
    xlt := { State.reset.xlt with tlb := [(0, [page])] }
    pkg := { State.reset.pkg with booted := true }
    dsp := { State.reset.dsp with ctl := 1, queues := [(0, d)], streams := [(2, st2)], grids := gs } }

/-- A record at the ring's first entry, and its frame at 4096: one block of 32 threads with 64 registers each. -/
def recMem : Memory := [(4104, 1), (4108, 32), (4110, 64), (0x8009, 0x10)]
def rec1 : Record := ⟨0, 4096, 0, false, 0⟩
def frame32 : LFrame := parseFrame (2 ^ 64 + 32 * 2 ^ 96 + 64 * 2 ^ 112)

def grid1 (r : Record) (adm : Bool) (next ended : Nat) : Grid where
  id := if adm then 1 else 2 ^ 32
  queue := 0
  stream := 2
  asid := 1
  record := r
  recAddr := 0x8000
  read := true
  fr := frame32
  opened := 0
  nblk := 1
  nextBlk := next
  saved := []
  ended := ended
  admitted := adm
  admitAt := 0
  killed := false
  cores := []

/-- A queue whose descriptor lies in memory at QTBASE: ring 0x8000, 16 records, TAIL 15 and HEAD 0. -/
def qMem (flags : Byte) : Memory := [(1, 0x80), (8, flags), (16, 15)]
def sRing (flags : Byte) : State := { State.reset with mem := qMem flags }
def qOf (flags : Byte) : Queue := (sRing flags).readQueue 0

/-- A thread at a SPAWN into queue 2, its stores published. -/
def spawnI : Instr := .spawn h64 (.v 2) (.k 2)
def spawner : Thread := { published with v := List.replicate 8 0, live := 8 }
def sSpawn : State := { sAt spawner spawnI .s SecVal.zero with dsp := sP.dsp }

theorem wit_DispatchEvents :
    (((qOf 0x84).spn = false ∧ (qOf 0x84).usable = true
        ∧ ∀ n ∈ [16, 17], (n + 2 ^ 22 - (qOf 0x84).tail) % 2 ^ 22 ≠ 0 ∧ (n + 2 ^ 22 - (qOf 0x84).tail) % 2 ^ 22 < 2 ^ 21)
      ∧ (16 + 2 ^ 22 - (qOf 0x84).head) % 2 ^ 22 ≤ 2 ^ (qOf 0x84).log2n
      ∧ 2 ^ (qOf 0x84).log2n < (17 + 2 ^ 22 - (qOf 0x84).head) % 2 ^ 22
      ∧ (qOf 0x04).usable = false)
    ∧ (let s := sDsp recMem (qd false 0 1) []
      find? 0 s.dsp.queues = some (qd false 0 1) ∧ s.streamOf 2 = st2 ∧ s.dispatching = true ∧ (qd false 0 1).usable = true
      ∧ (qd false 0 1).fill ≠ 0 ∧ s.openGrid 0 = none ∧ st2.en = true ∧ st2.stopped = false ∧ st2.killed = false
      ∧ (read? ((s.setStream 2 st2).ringRead ((qd false 0 1).recAt 0)).2).map (fun l => parseRecord (ofBytes l)) = some (some rec1)
      ∧ (let s1 := ((s.setStream 2 st2).ringRead ((qd false 0 1).recAt 0)).1
        (read? (s1.readRange (s1.dispAgent 1) (.disp 0) 4096 304).2).map
          (fun l => (frameZeros (ofBytes l), parseFrame (ofBytes l) == frame32)) = some (true, true)
        ∧ (s1.readRange (s1.dispAgent 1) (.disp 0) 4096 304).1.frameOk frame32 false = true))
    ∧ (let s := sDsp [] (qd false 1 1) [(2 ^ 32, grid1 rec1 false 0 0)]
      find? (State.pendKey 0) s.dsp.grids = some (grid1 rec1 false 0 0) ∧ find? 0 s.dsp.queues = some (qd false 1 1)
      ∧ s.dispatching = true ∧ (s.leaseReady (grid1 rec1 false 0 0) false).2 = true
      ∧ s.leasePages 1 (State.leaseOf frame32 1) matches .ok _)
    ∧ (let s := sDsp [] (qd false 1 1) [(1, grid1 rec1 true 0 0)]
      s.openGrid 0 = some (grid1 rec1 true 0 0) ∧ s.dispatching = true ∧ s.blockFits frame32 63 [252] [0] = true
      ∧ frame32.cspan = 1 ∧ frame32.groups = 1 ∧ s.budgetOk 2 1 frame32 = true ∧ s.placedFirst 0 0 = false
      ∧ s.leaseFits (grid1 rec1 true 0 0) 63 = true
      ∧ (s.leaseReady (grid1 rec1 true 0 0) true).2 = true ∧ (s.pinLease (grid1 rec1 true 0 0) 63).2 = none
      ∧ (s.pinLease (grid1 rec1 true 0 0) 63).1.grid? 1 = some (grid1 rec1 true 0 0))
    ∧ (let s := sDsp [(8192, 2)] (qd false 1 1) [(1, grid1 { rec1 with join := 8192 } true 1 1)]
      (sDsp [] (qd false 1 1) [(1, grid1 rec1 true 1 1)]).grid? 1 = some (grid1 rec1 true 1 1)
      ∧ s.grid? 1 = some (grid1 { rec1 with join := 8192 } true 1 1) ∧ s.cores = []
      ∧ (let r := (s.setGrid (grid1 { rec1 with join := 8192 } true 1 1)).readRange (s.dispAgent 1) (.disp (2 ^ 10 + 1)) 8192 64
        (read? r.2).isSome = true ∧ (r.1.joinStep (s.dispAgent 1) (.disp (2 ^ 10 + 1)) 8192).2 matches some (.ok 2)))
    ∧ ((sDsp [] (qd true 0 15) []).queueOf 0).room = true
    ∧ (let c : Cur := ⟨0, 0, 1, 4, 12⟩
      sSpawn.insAt 0 0 0 = some (spawnI, 12) ∧ sSpawn.thr? 0 0 0 = some spawner ∧ (sSpawn.doneMask c).getLsbD 0 = false
      ∧ sSpawn.loadsChk c 0 = .pass ∧ (sSpawn.fenceRel c 0).2 = .pass
      ∧ (sSpawn.fenceRel c 0).1.thr? 0 0 0 = some spawner
      ∧ src64 .l64 (grpOf [spawner]) spawner 0 (.v 2) = 0 ∧ src32 .l64 (grpOf [spawner]) spawner 0 (.k 2) = 2
      ∧ (sSpawn.fenceRel c 0).1.takesPush 2 ((sSpawn.fenceRel c 0).1.agent 0 0 0).asid = true
      ∧ (let r := (sSpawn.fenceRel c 0).1.readRange ((sSpawn.fenceRel c 0).1.agent 0 0 0) (.spill 0 0 0) 0 32
        (read? r.2).isSome = true ∧ (r.1.queueOf 2).room = true)) := by
  refine ⟨by decide, by decide, ?_, by decide, ?_, by decide, by decide⟩
  · refine ⟨by decide, by decide, by decide, by decide⟩
  · refine ⟨by decide, by decide, by decide, by decide⟩

/-- Held threads; a block of a progress grid that another waits for; a grid past its deadline. -/
def heldBy (h : Hold) : Thread := { user with hold := some h }
def progress : Block :=
  { leased with gridid := 1, stream := 2, heldMark := true, fr := { leased.fr with progress := true, yield := 100 } }
def sProg : State :=
  { sDsp [] (qd false 1 1) [(1, { grid1 rec1 true 1 0 with nblk := 2 })] with
    now := 100
    blocks := [(0, progress)]
    dsp := { (sDsp [] (qd false 1 1) [(1, { grid1 rec1 true 1 0 with nblk := 2 })]).dsp with
      streams := [(2, { st2 with corelim := 1, saven := 1 })] } }
def watched : Grid := { grid1 rec1 true 0 0 with fr := { frame32 with polset := 16 } }
def sDog : State :=
  { sDsp [] (qd false 1 1) [(1, watched)] with
    now := 1400000
    dsp := { (sDsp [] (qd false 1 1) [(1, watched)]).dsp with streams := [(2, { st2 with deadline := 1 })] } }

theorem wit_RunningEvents :
    ((sG (grpOf [heldBy (.yield 0)])).thr? 0 0 0 = some (heldBy (.yield 0))
      ∧ (sG (grpOf [heldBy (.sleep 0)])).thr? 0 0 0 = some (heldBy (.sleep 0))
      ∧ (sG (grpOf [heldBy (.waitmem 0 9)])).thr? 0 0 0 = some (heldBy (.waitmem 0 9))
      ∧ (sG (grpOf [heldBy (.waitmem 0 9)])).accs = [])
    ∧ (sProg.blk? 0 = some progress ∧ sProg.yieldTimer 0 = some 100 ∧ sProg.waitsRoom 1 = some 1
      ∧ sProg.freeSave 2 = some 0)
    ∧ (sDog.grid? 1 = some watched ∧ watched.admitted = true ∧ watched.ended < watched.nblk ∧ (sDog.streamOf 2).deadline = 1
      ∧ watched.admitAt + 1400000 * 1 ≤ sDog.now ∧ watched.fr.polset.getLsbD 4 = true
      ∧ watched.fr.policy.toNat / 4 ^ 4 % 4 = 0 ∧ sDog.ioqShape (sDog.trp.ctl.toNat % 1024) = none)
    ∧ ((∀ k ∈ [0, 1, 2, 3], (BitVec.ofNat 32 (2 ^ 31 + 1024 * k + 2)).getLsbD 31 = true
        ∧ (BitVec.ofNat 32 (2 ^ 31 + 1024 * k + 2)).toNat / 1024 % 4 = k)
      ∧ (sDsp [] (qd false 1 1) []).blocks = [] ∧ Claim.Rising (sDsp [] (qd false 1 1) []).dsp.queues) := by
  unfold Claim.Rising
  refine ⟨by decide, by decide, by decide, by decide⟩

/-! ### Witnesses: the trap unit -/

/-- A block that its core is asked to halt; and a halted block with a save slot, whose stores are published. -/
def sHaltReq : State := { sT with cores := [(0, { Machine.Core.reset with haltReq := some 0 })] }
def small : LFrame := { frame32 with regs := 8 }
def saver : Block :=
  { leased with
    gridid := 1, stream := 2, fr := small, slot := some 0, halting := [0], groups := [grpOf [{ published with v := [7], live := 1 }]] }
def sSave : State :=
  { sDsp [] (qd false 1 1) [(1, grid1 rec1 true 1 0)] with blocks := [(0, saver)] }

/-- The writes of the save, and the state after them. -/
def saveParts : List (Nat × List Byte) := slotParts saver 0
def sSaved : State :=
  saveParts.foldl (fun s (q : Nat × List Byte) => s.writeHome (sSave.slotBase 2 0 + q.1) q.2)
    ([0].foldl (fun (s : State) c => s.saveL1 c) ((sSave.slotReady (sSave.slotBase 2 0) true
      (saveParts.map fun q => (q.1, q.2.length))).1.saveSettle 0))

/-- A grid with a saved block of one group, its slot all zero. -/
def savedGrid : Grid := { grid1 rec1 true 1 0 with fr := small, saved := [⟨0, 0, none, [(false, true)], []⟩] }
def sRest : State := sDsp [] (qd false 1 1) [(1, savedGrid)]
def restArea : List (Nat × Nat) := slotAreas small 0 (sRest.homeNum (sRest.slotBase 2 0 + 0x24) 2)
def restored : Block :=
  sRest.rdBlock (fun o n => sRest.homeNum (sRest.slotBase 2 0 + o) n) ⟨0, 0, none, [(false, true)], []⟩
    (sRest.blockOn savedGrid 0 63 [252] [0])

theorem wit_ContextSaved :
    sSave.blk? 0 = some saver ∧ saver.slot = some 0 ∧ sSave.saveReady 0 saver = true ∧ (sSave.savePublish 0 saver).2 = true
      ∧ (sSave.savePublish 0 saver).1 = sSave ∧ (sSave.saveSettle 0).blk? 0 = some saver ∧ saver.fixups = []
      ∧ ((sSave.grid? 1).map fun g => sSave.now - g.admitAt) = some 0
      ∧ (sSave.slotReady (sSave.slotBase 2 0) true (saveParts.map fun q => (q.1, q.2.length))).2 = true := by
  refine ⟨by decide, by decide, by decide, by decide, by decide, by decide, by decide, by decide, ?_⟩
  decide

theorem wit_ContextSaved_grid : sSaved.grid? 1 = some (grid1 rec1 true 1 0) ∧ Claim.Rising sSaved.blocks := by
  unfold Claim.Rising
  decide

theorem wit_ContextRestored :
    sRest.savedBlocks[0]? = some (1, ⟨0, 0, none, [(false, true)], []⟩) ∧ sRest.grid? 1 = some savedGrid
      ∧ sRest.dispatching = true ∧ sRest.blockFits small 63 [252] [0] = true ∧ sRest.budgetOk 2 1 small = true
      ∧ (sRest.slotReady (sRest.slotBase 2 0) false restArea).2 = true
      ∧ (sRest.leaseReady savedGrid true).2 = true
      ∧ ((sRest.slotReady (sRest.slotBase 2 0) false restArea).1.pinLease savedGrid 63).2 = none
      ∧ ((sRest.slotReady (sRest.slotBase 2 0) false restArea).1.pinLease savedGrid 63).1 = sRest
      ∧ restored.groups.all (fun y => !y.ended && y.threads.all fun u => u.replay.isEmpty && u.resume.isEmpty) = true
      ∧ restored.groups.length = 1 := by
  refine ⟨by decide, by decide, by decide, by decide, by decide, ?_, ?_, ?_, ?_, by decide⟩
  · decide
  · decide
  · decide
  · decide

theorem wit_TrapEvents :
    ((sHaltReq.core 0).haltReq = some 0 ∧ sHaltReq.pkg.stopped = false ∧ sHaltReq.blk? 0 = some leased ∧ leased.halting = []
      ∧ leased.colls = [] ∧ Claim.Rising sHaltReq.cores ∧ sHaltReq.accs = [] ∧ sHaltReq.fab.bulks = []
      ∧ sHaltReq.copyOn 0 0 = none
      ∧ ∀ q ∈ sHaltReq.blocks, ∀ y ∈ q.2.groups, y.bast = none ∧ ∀ u ∈ y.threads, u.txn = none)
    ∧ ((0x80000000 : Word).getLsbD 31 = true ∧ (0x7FFFFFFF : Word).getLsbD 31 = false)
    ∧ ((511 : Nat) < 512 ∧ -2 ^ 39 ≤ (-2 ^ 39 : Int) ∧ (-2 ^ 39 : Int) < 2 ^ 39 ∧ 2 ^ 56 - 1 < 2 ^ 56) := by
  unfold Claim.Rising
  refine ⟨by decide, by decide, by decide⟩

/-! ### Witnesses: the host port and the package -/

/-- A request toward the host, old enough for its deadline, in a package whose link is up or not. -/
def hreq (op : HostOp) (o : FOwner) (sent : Bool) : HostReq := ⟨4, op, o, 0, sent, none⟩
def sHst (r : HostReq) (up : Bool) (now : Nat) : State :=
  { State.reset with
    now := now, nextId := 5, hst := { State.reset.hst with ctl := 7, up := up, cxl := up, reqs := [r] } }
def hread (o : FOwner) : HostReq := hreq (.read 8 8) o true
def hwrite : HostReq := hreq (.write 8 8 0) (.disp 3) false
def hatom (afb rel : Bool) : HostReq := hreq (.atomic 8 afb rel (.atom 8 .add .u32 1 0)) (.disp 3) true
def hflush : HostReq := hreq (.flush 8 (.atom 8 .add .u32 1 0)) (.disp 3) true
def hcoh (o : FOwner) : HostReq := hreq (.coherent 8 (.atom 8 .add .u32 1 0)) o true
def hown (o : HomeOp) : HostReq := hreq (.coherent 0 o) (.sector 0) true
def sGetH : State := { sHst (hread (.sector 0)) false 70000 with dir := [(0, { DirE.reset with trans := .bH })] }

/-- A package with one host request and one sector that the host owns. -/
def hostOwned : PodE := { PodE.fresh with st := .x, hown := true }
def sGone (now : Nat) : State :=
  { sHst (hread (.disp 3)) true now with hom := { State.reset.hom with pod := [(0, hostOwned)] } }

theorem wit_HostEvents :
    (((sHst (hread (.disp 3)) true 0).hostReq? 4 = some (hread (.disp 3)) ∧ (hread (.disp 3)).sent = true
        ∧ (hread (.disp 3)).op.posted = false)
      ∧ Claim.unsliced (hread (.disp 3))
      ∧ (hread (.disp 3)).madeAt + 1400 * max 1 (State.reset.fab.tmo.toNat % 65536) ≤ 70000
      ∧ sGetH.hostReq? 4 = some (hread (.sector 0)) ∧ (hread (.sector 0)).op.posted = false ∧ (sGetH.dirE 0).trans = .bH)
    ∧ ((∀ up, (sHst hwrite up 70000).hostReq? 4 = some hwrite ∧ (sHst hwrite up 70000).hst.up = up)
      ∧ Claim.unsliced hwrite ∧ hwrite.op.posted = true)
    ∧ ((∀ afb rel, (sHst (hatom afb rel) true 0).hostReq? 4 = some (hatom afb rel)) ∧ Claim.unsliced (hatom true true)
      ∧ Claim.unsliced (hatom false true) ∧ (sHst (hatom true true) true 0).hst.cxl = true
      ∧ (sHst hflush true 0).hostReq? 4 = some hflush ∧ hflush.sent = true)
    ∧ ((∀ op ∈ [HomeOp.read 0, .write 0 0 0], (sHst (hown op) true 0).hostReq? 4 = some (hown op)
        ∧ ((sHst (hown op) true 0).dirE 0).pkgst = .i)
      ∧ (sHst (hcoh (.disp 3)) true 0).hostReq? 4 = some (hcoh (.disp 3))
      ∧ (sHst (hcoh (.disp 3)) true 0).hst.reqs.filter (State.fallsBack 0) = [hcoh (.disp 3)]
      ∧ ((sHst (hcoh (.disp 3)) true 0).dirE 0).trans = .stable)
    ∧ ((sGone 0).hst.up = true ∧ (sGone 0).hst.down = false ∧ (sGone 0).cores = [] ∧ (sGone 0).dir = []
      ∧ (sGone 0).hst.reqs = [hread (.disp 3)] ∧ (sGone 0).hom.pod = [(0, hostOwned)] ∧ hostOwned.trans = .stable
      ∧ 0 ∉ (sGone 0).hom.poison
      ∧ State.reset.hst.up = false ∧ { State.reset with pkg := { State.reset.pkg with booted := true } }.pkg.booted = true
      ∧ (sHst hwrite false 0).hst.ctl.getLsbD 0 = true)
    ∧ ((sGone 140000).hst.ctl.getLsbD 2 = true
      ∧ (sGone 140000).hst.lastSent + 1400 * max 1 ((sGone 140000).hst.hb.toNat % 65536) ≤ (sGone 140000).now
      ∧ (sGone 420000).hst.lastBeat + 1400 * max 1 ((sGone 420000).hst.hb.toNat % 65536)
          * max 1 ((sGone 420000).hst.hb.toNat / 65536 % 16) ≤ (sGone 420000).now) := by
  unfold Claim.unsliced
  refine ⟨⟨by decide, fun sec h => ?_, by decide, by decide, by decide, by decide⟩, ⟨by decide, fun sec h => ?_, by decide⟩,
    ⟨by decide, fun sec h => ?_, fun sec h => ?_, by decide⟩, by decide, by decide, by decide⟩
  all_goals exact absurd h (by simp [hread, hwrite, hatom, hreq])

/-- A package whose link is up with CXL and whose HBM below 1 GiB is device memory of the host. -/
def sHdm : State := { State.reset with hst := { State.reset.hst with up := true, cxl := true, hdm := 0x00010000 } }
def sSvc : State := { State.reset with hst := { State.reset.hst with svcmem := 0x00010001 } }

theorem wit_HostAccesses :
    ((State.reset.hst.up = false ∧ sHdm.inHdm (gpaOff (2 ^ 30)) = false)
      ∧ sHdm.hst.down = false ∧ sHdm.hst.up = true ∧ sHdm.hst.cxl = true ∧ sHdm.inHdm (gpaOff (2 ^ 30 - 64)) = true
      ∧ sHdm.mnd.walks = [] ∧ sHdm.podFind ((2 ^ 30 - 64) / 64) = none ∧ (sHdm.cohRead ((2 ^ 30 - 64) / 64)).tag = none
      ∧ sHdm.conflicts ((2 ^ 30 - 64) / 64) true none = [] ∧ sHdm.mem.wf = true ∧ sHdm.cores = [] ∧ sHdm.net = []
      ∧ (sHdm.dirE ((2 ^ 30 - 64) / 64)).trans = .stable)
    ∧ (Claim.Rising State.reset.hst.ioqTail ∧ Claim.Rising State.reset.hst.ioqHead ∧ State.halfAbove 1 0 = true
      ∧ State.halfAbove 0 0 = false ∧ State.halfAbove (2 ^ 31) 0 = false ∧ (0x20000 : Nat) ≤ 0x20000)
    ∧ ((2 ^ 52 ≤ 2 ^ 52 ∧ 2 % max 1 (svcBytes (.read 4)) ≠ 0)
      ∧ (2 ^ 39 - 8 < sSvc.pkg.caps.mem * 2 ^ 30 ∧ sSvc.inSvc (2 ^ 39 - 8) = false ∧ sSvc.podFind ((2 ^ 39 - 8) / 64) = none
        ∧ (sSvc.cohRead ((2 ^ 39 - 8) / 64)).psn = false ∧ sSvc.conflicts ((2 ^ 39 - 8) / 64) false none = [])
      ∧ sSvc.inSvc (2 ^ 30) = true ∧ sSvc.inSvc (2 ^ 31 - 8) = true ∧ (sSvc.cohRead (2 ^ 30 / 64)).psn = false
      ∧ sSvc.conflicts (2 ^ 30 / 64) true none = [] ∧ sSvc.mem.wf = true)
    ∧ (∀ t ∈ [Turn.barRead 0x3938 4, .mgtRead 0x727, .mgtWrite 0x721 5],
      ({ State.reset with agenda := [t] } : State).agenda = t :: [] ∧ State.reset.unitRead 0 0x721 = 2300) := by
  unfold Claim.Rising
  refine ⟨by decide, by decide, by decide, by decide⟩

theorem wit_PackageAndRegisters :
    (min (State.reset.pkg.pwrcap.toNat % 4096) 2300 < 2301 ∧ State.reset.pkg.throttling = none
      ∧ ¬min (State.reset.pkg.pwrcap.toNat % 4096) 2300 < 2300 ∧ State.reset.pkg.booted = false
      ∧ State.reset.pkg.bootFail = false
      ∧ { State.reset.pkg with throttling := some 0 }.throttling = some 0 ∧ { State.reset.pkg with booted := true }.booted = true)
    ∧ Claim.Rising State.reset.counters
    ∧ (({ State.reset with agenda := [.soft .corrected] } : State).agenda = .soft .corrected :: []
      ∧ State.reset.pkg.eccCe ≠ -1 ∧ State.reset.homed 0 = true ∧ State.reset.pkg.eccUe ≠ -1
      ∧ ((sI copy0).tile? 0 0).isSome = true) := by
  unfold Claim.Rising
  refine ⟨by decide, by decide, by decide⟩

-- 16 R425 and 22 R545: an uncorrectable error in home HBM poisons its sector and is counted, at unit 5.
theorem test_softError : (match step { State.reset with agenda := [.soft (.hbm 9)] } with
    | .next t => (t.hom.poison, t.pkg.eccUe, t.pkg.eccLoc, (t.memSec 9).psn)
    | _ => ([], 0, 0, false)) = ([9], 1, 5, true) := by decide

-- 21 R531 rule 4: MAX of a 32-bit AMO is signed, MAXU is not.
theorem test_amoMax : (amoNew .max 4 0xFFFFFFFF 1, amoNew .maxu 4 0xFFFFFFFF 1) = (1, 0xFFFFFFFF) := by decide

-- 21 R521: the host reads MGT_PWRCAP, 2,300 at reset, in its slot of BAR0.
theorem test_barRead : (match step { State.reset with agenda := [.barRead 0x3908 4] } with
    | .next t => t.out
    | _ => []) = [.bar 0x3908 2300] := by decide

/-! ### Decoding words written out from the encodings of the spec -/

def refused? (r : Except DecodeFault Instr) : Option DecodeFault :=
  match r with
  | .ok _ => none
  | .error e => some e

theorem test_decode_iadd : (decodeSimtWords [0x0803FC81, 0x01030201]).toOption
    = some (.iadd h64 .s32 false true (.v 1) (.v 2) (.v 3)) := by decide
theorem test_decode_icmp : (decodeSimtWords [0x0044C0E9, 0x11030251]).toOption
    = some (.icmp ⟨⟨0x30, 1, 2, 0⟩, .l64⟩ .s32 .lt ⟨1, 2, .u⟩ (.v 2) (.v 3)) := by decide
theorem test_decode_ffma : (decodeSimtWords [0x0003FD4A, 0x02030201, 0x00000004]).toOption
    = some (.ffma (h96 0) ⟨false, false, 0⟩ ⟨true, false, false, false, false, false⟩ (.v 1) (.v 2) (.v 3) (.v 4)) := by decide
theorem test_decode_qadd4 : (decodeSimtWords [0x2003FDA1, 0x01070605]).toOption
    = some (.qadd4 h64 ⟨false, false, 1⟩ ⟨false, false, false, false, false, false⟩ false true (.v 5) (.v 6) (.v 7)) := by decide
theorem test_decode_cvt : (decodeSimtWords [0x0003FDC1, 0x43020201]).toOption
    = some (.cvt h64 ⟨false, false, 0⟩ .bf16 .fp16 1 false (.v 1) (.v 2)) := by decide
theorem test_decode_cvtSat : (decodeSimtWords [0x0003FDC1, 0xA5020403]).toOption
    = some (.cvt h64 ⟨false, false, 0⟩ .e5m2 .fp16 2 true (.v 3) (.v 4)) := by decide
theorem test_decode_cvtmxQ : (decodeSimtWords [0x2003FDC5, 0x180B0A0C]).toOption
    = some (.cvtmxQ h64 ⟨false, false, 1⟩ .e4m3 true (.v 12) (.v 10) (.v 11)) := by decide
theorem test_decode_bra : (decodeSimtWords [0x0003FC06, 0, 0xFFFFFF00]).toOption
    = some (.bra (h96 0xFFFFFF)) := by decide
theorem test_decode_basteOn : (decodeSimtWords [0x0003FC4E, 0x0100FF00, 0x00006400]).toOption
    = some (.basteOn (h96 100) .imm) := by decide
theorem test_decode_ld : (decodeSimtWords [0x0003FE42, 0x02000201, 0xFFFFFC00]).toOption
    = some (.ld (h96 0xFFFFFC) .w32 false .g false 0 (.v 1) (.v 2)) := by decide
theorem test_decode_ldw : (decodeSimtWords [0x0003FE4D, 0x02000204]).toOption
    = some (.ldw h64 .w32 false false (.v 4) (.v 2)) := by decide
theorem test_decode_cas128 : (decodeSimtWords [0x0803FE5E, 0x40E00208, 0x000000E0]).toOption
    = some (.cas128 (h96 0) .acq .blk .g (.v 8) (.v 2) (.k 0) (.k 0)) := by decide
theorem test_decode_lda : (decodeSimtWords [0x2803FE81, 0x12000201]).toOption
    = some (.lda h64 .w32 false .s .sys 0 (.v 1) (.v 2)) := by decide
theorem test_decode_strel : (decodeSimtWords [0x1003FE86, 0x02070200, 0x00004000]).toOption
    = some (.strel (h96 64) .w32 .g .pkg 0 (.v 2) (.v 7)) := by decide
theorem test_decode_cflush : (decodeSimtWords [0x0003FEE1, 0x00E50200]).toOption
    = some (.cflush h64 (.v 2) (.k 5)) := by decide
theorem test_decode_cinv : (decodeSimtWords [0x0003FEE5, 0x00E70200]).toOption
    = some (.cinv h64 (.v 2) (.k 7)) := by decide
theorem test_decode_cpy : (decodeSimtWords [0x0003FF02, 0x01020413, 0x02ABCD06]).toOption
    = some (.cpy gT .s .g (some 3) 0xABCD 2 (.v 4) (.v 2) (.v 6)) := by decide
theorem test_decode_barw : (decodeSimtWords [0x0003FF29, 0x0000000F]).toOption
    = some (.barw h64 15) := by decide
theorem test_decode_fred : (decodeSimtWords [0x0003FF4E, 0x06040200, 0x00001206]).toOption
    = some (.fred gT .max .bf16 0x12 (.v 2) (.v 4) (.v 6)) := by decide
theorem test_decode_spawn : (decodeSimtWords [0x0003FFC1, 0x00E20200]).toOption
    = some (.spawn h64 (.v 2) (.k 2)) := by decide
theorem test_decode_srd : (decodeSimtWords [0x0003FFEA, 1, 0x00012600]).toOption
    = some (.srd (h96 0x126) (.v 1)) := by decide
theorem test_decode_halt : (decodeSimtWords [0x0003FFF1, 0]).toOption
    = some (.halt gT) := by decide
theorem test_decode_tswr : (decodeTileWords [0x00000382, 0x00000010, 7]).toOption
    = some (.tswr 0x10 7) := by decide
theorem test_decode_tld : (decodeTileWords [0x00000F87, 0x00000600, 0x80000040, 0x100]).toOption
    = some (.tld 3 2 true 0x80000040 0x100) := by decide
theorem test_decode_tmma : (decodeTileWords [0x000C87A9, 0x00806200]).toOption
    = some (.tmma 1 2 3 .fp16 .bf16 .fp32 true) := by decide
theorem test_decode_tcvt : (decodeTileWords [0x080087B9, 0x00040400]).toOption
    = some (.tcvt 1 2 .e4m3 .fp32 true 2) := by decide
theorem test_decode_unassigned : refused? (decodeSimtWords [0x00000051, 0]) = some .illegalOpcode := by decide
theorem test_decode_xend_scalar : refused? (decodeSimtWords [0x0003FE6D, 0x00000080]) = some .illegalEncoding := by decide
theorem test_encode_iadd : encode (.iadd h64 .s32 false true (.v 1) (.v 2) (.v 3)) = [0x0803FC81, 0x01030201] := by decide

/-! ### The well-formedness checks refuse -/

theorem test_wf_alignment : (Instr.mov h64 .w64 (.v 1) (.v 2)).wf = false := by decide
theorem test_wf_destination : (Instr.mov h64 .w32 (.k 1) (.v 2)).wf = false := by decide
theorem test_wf_immediate_length : (Instr.mov h64 .w32 (.v 1) .imm).wf = false := by decide
theorem test_wf_unread_extension : (Instr.mov (h96 1) .w32 (.v 1) (.v 2)).wf = false := by decide
theorem test_wf_width : (Instr.mov h64 .w16 (.v 1) (.v 2)).wf = false := by decide
theorem test_wf_no_immediate : (Instr.st (h96 0) .w32 .g 0 (.v 2) .imm).wf = false := by decide
theorem test_wf_nop : (Instr.nop (h96 1)).wf = false := by decide
theorem test_wf_bra : (Instr.bra h64).wf = false := by decide
theorem test_wf_alloc : (Instr.alloc gT 12 0).wf = false ∧ (Instr.alloc gT 8 9).wf = false := by decide
theorem test_wf_qswap : (Instr.qswap h64 3 (.v 1) (.v 2)).wf = false := by decide
theorem test_wf_redux : (Instr.redux h64 .add true (.v 1) (.v 2)).wf = false := by decide
theorem test_wf_shfl : (Instr.shfl h64 .pick 6 (.v 1) (.v 2) (.k 0)).wf = false := by decide
theorem test_wf_brk : (Instr.brk (h96 0) 1).wf = false := by decide
theorem test_wf_cwait : (Instr.cwait h64 (.p 1)).wf = false := by decide
theorem test_wf_three_sources : (Instr.iadd3 h64 .u32 (.v 1) (.v 2) (.v 3) (.v 4)).wf = false := by decide
theorem test_wf_integer_types : (Instr.imulh h64 .u8x4 (.v 1) (.v 2) (.v 3)).wf = false
    ∧ (Instr.rot h64 .s32 false (.v 1) (.v 2) (.v 3)).wf = false
    ∧ (Instr.iabs h64 .u32 false (.v 1) (.v 2)).wf = false
    ∧ (Instr.isad (h96 0) .u64 (.v 1) (.v 2) (.v 4) (.v 6)).wf = false
    ∧ (Instr.bfi (h96 0) .s32 (.v 1) (.v 2) (.v 3) (.v 4)).wf = false := by decide
theorem test_wf_rounding : (Instr.fadd h64 ⟨false, false, 7⟩ ⟨false, false, false, false, false, false⟩ (.v 1) (.v 2) (.v 3)).wf
    = false := by decide
theorem test_wf_flags_two : (Instr.fadd h64 ⟨false, false, 0⟩ ⟨false, false, true, false, false, false⟩ (.v 1) (.v 2) (.v 3)).wf
    = false := by decide
theorem test_wf_flags_one : (Instr.frnd h64 ⟨false, false, 0⟩ ⟨false, true, false, false, false, false⟩ (.v 1) (.v 2)).wf
    = false := by decide
theorem test_wf_cvt_size : (Instr.cvt h64 ⟨false, false, 0⟩ .fp64 .fp32 2 false (.v 0) (.v 4)).wf = false := by decide
theorem test_wf_space : (Instr.ld h64 .w32 false .w false 0 (.v 1) (.v 2)).wf = false
    ∧ (Instr.lda h64 .w128 false .g .pkg 0 (.v 4) (.v 2)).wf = false
    ∧ (Instr.ld h64 .w32 true .g false 0 (.v 1) (.v 2)).wf = false
    ∧ (Instr.ldv h64 .w128 .g false 0 (.v 4) (.v 2)).wf = false := by decide
theorem test_wf_atomics : (Instr.atom h64 .add .u32 .none .pkg .g (.v 1) (.v 2) (.v 4) (.v 5)).wf = false
    ∧ (Instr.atom h64 .inc .u32 .none .pkg .g (.v 1) (.v 2) (.v 4) (.v 5)).wf = false
    ∧ (Instr.red h64 .add .u32 .acq .pkg .g (.v 2) (.v 4) (.v 0)).wf = false
    ∧ (Instr.red h64 .exch .u32 .none .pkg .g (.v 2) (.v 4) (.v 0)).wf = false := by decide
theorem test_wf_registers : (Instr.srd (h96 0x200) (.v 1)).wf = false ∧ (Instr.srd (h96 0x726) (.v 1)).wf = false
    ∧ (Instr.srd (h96 0x726) (.v 2)).wf = true := by decide
theorem test_wf_address_register : (Instr.cflush h64 (.k 2) (.k 5)).wf = false ∧ (Instr.spawn h64 (.k 2) (.k 2)).wf = false := by
  decide
theorem test_wf_tile : (Instr.tileNop 0).wf = false ∧ (Instr.tswr 0x2C 0).wf = false
    ∧ (Instr.tmma 0 1 2 .fp32 .fp16 .fp32 false).wf = false ∧ (Instr.tmma 0 1 2 .fp16 .fp16 .e4m3 false).wf = false
    ∧ (Instr.tmmas 0 1 2 0 .fp32 .fp32 .fp32 false).wf = false ∧ (Instr.tmmax 0 1 2 .fp16 .e4m3 .fp32 false 0).wf = false
    ∧ (Instr.tscale 0 1 .fp32 7 0).wf = false ∧ (Instr.tcvt 0 1 .fp64 .fp32 false 0).wf = false := by decide
theorem test_wf_event : (Instr.gets 0 0).wf = false := by decide

/-! ### Every other form, on one word written out from its row of 02 R55 or R57 -/

/-- The words decode to the instruction, which is encoded by them. -/
def reads (dec : List Word → Except DecodeFault Instr) (l : List (List Word × Instr)) : Bool :=
  l.all fun (ws, i) => (dec ws).toOption == some i && encode i == ws

theorem test_words_control : reads decodeSimtWords [
    ([0x00000001, 0x00000000], .nop ⟨⟨0, 0, 0, 0⟩, .l64⟩),
    ([0x0003FC09, 0x00000400], .brx gT (.v 4)),
    ([0x0003FC0E, 0x00000009, 0x00001000], .call (h96 16) 9),
    ([0x0003FC11, 0x00008605], .callx gT 5 (.s 6)),
    ([0x0003FC15, 0x00000000], .ret gT),
    ([0x0003FC19, 0x00000000], .exit gT),
    ([0x0003FC1D, 0x00000318], .alloc gT 24 3),
    ([0x2003FC21, 0x9AC3C2C1], .plop h64 1 2 3 4 0x9A),
    ([0x0003FC25, 0x0000C2C1], .pmov h64 1 2),
    ([0x0003FC25, 0x0100C4C3], .pmovNot h64 3 4),
    ([0x2803FC29, 0x01060402], .sel h64 true (.v 2) (.v 4) (.v 6) 5),
    ([0x0003FC2D, 0x02000C08], .mov h64 .w128 (.v 8) (.v 12)),
    ([0x0003FC33, 0x00000003, 0x00000000, 0x12345678], .movi ⟨gT, .l128 0x12345678⟩ false (.v 3)),
    ([0x0003FC35, 0x0EE10201], .shfl h64 .slide 3 (.v 1) (.v 2) (.k 1)),
    ([0x0003FC39, 0x02000201], .qswap h64 2 (.v 1) (.v 2)),
    ([0x0003FC3D, 0x03000201], .qbcast h64 3 (.v 1) (.v 2)),
    ([0x0003FC41, 0x0000C2C1], .voteAll h64 1 2),
    ([0x0003FC41, 0x0100C2C1], .voteAny h64 1 2),
    ([0x0003FC41, 0x0200C2C1], .voteUni h64 1 2),
    ([0x0003FC41, 0x0300C281], .voteBallot h64 (.s 1) 2),
    ([0x0003FC45, 0x0A000281], .redux h64 .max true (.s 1) (.v 2)),
    ([0x0003FC49, 0x5A000000], .brk h64 0x5A),
    ([0x0003FC4D, 0x00000000], .basteOff h64)] = true := by decide

theorem test_words_integer : reads decodeSimtWords [
    ([0x0003FC86, 0x01030201, 0x00000004], .iadd3 (h96 0) .s32 (.v 1) (.v 2) (.v 3) (.v 4)),
    ([0x0803FC89, 0x01030201], .imul h64 .s32 true (.v 1) (.v 2) (.v 3)),
    ([0x0003FC8D, 0x00030201], .imulh h64 .u32 (.v 1) (.v 2) (.v 3)),
    ([0x0803FC92, 0x01030201, 0x00000004], .imad (h96 0) .s32 true (.v 1) (.v 2) (.v 3) (.v 4)),
    ([0x0003FC96, 0x00030102, 0x00000004], .imadW (h96 0) .u32 (.v 2) (.v 1) (.v 3) (.v 4)),
    ([0x0003FC99, 0x03030201], .imin h64 .s16x2 (.v 1) (.v 2) (.v 3)),
    ([0x0003FC9D, 0x04030201], .imax h64 .u8x4 (.v 1) (.v 2) (.v 3)),
    ([0x0803FCA1, 0x05000201], .iabs h64 .s8x4 true (.v 1) (.v 2)),
    ([0x0003FCA6, 0x02030201, 0x00000004], .isad (h96 0) .u16x2 (.v 1) (.v 2) (.v 3) (.v 4)),
    ([0x0003FCAA, 0xE8030201, 0x00000004], .log3 (h96 0) 0xE8 (.v 1) (.v 2) (.v 3) (.v 4)),
    ([0x0003FCAD, 0x08E20201], .shl h64 .u32 true (.v 1) (.v 2) (.k 2)),
    ([0x0003FCB1, 0x06E20402], .shr h64 .u64 false (.v 2) (.v 4) (.k 2)),
    ([0x0003FCB5, 0x09030201], .sar h64 .s32 true (.v 1) (.v 2) (.v 3)),
    ([0x0003FCB9, 0x0E030402], .rot h64 .u64 true (.v 2) (.v 4) (.v 3)),
    ([0x0003FCBE, 0x01030201, 0x00000004], .fsh (h96 0) true false (.v 1) (.v 2) (.v 3) (.v 4)),
    ([0x0003FCC1, 0x01030201], .bfx h64 .s32 (.v 1) (.v 2) (.v 3)),
    ([0x0003FCC6, 0x06060402, 0x00000007], .bfi (h96 0) .u64 (.v 2) (.v 4) (.v 6) (.v 7)),
    ([0x0003FCCA, 0x00030201, 0x003210FF], .prmt (h96 0x3210) (.v 1) (.v 2) (.v 3) .imm),
    ([0x0003FCCD, 0x06000201], .popc h64 true (.v 1) (.v 2)),
    ([0x0003FCD1, 0x00000201], .clz h64 false (.v 1) (.v 2)),
    ([0x0003FCD5, 0x00000201], .ctz h64 false (.v 1) (.v 2)),
    ([0x0003FCD9, 0x00000201], .brev h64 false (.v 1) (.v 2)),
    ([0x0003FCDD, 0x0B060402], .lea h64 3 true (.v 2) (.v 4) (.v 6)),
    ([0x0803FCE2, 0x02030201, 0x00000004], .idp4 (h96 0) false true true (.v 1) (.v 2) (.v 3) (.v 4)),
    ([0x0003FCE6, 0x05030201, 0x00000004], .idp2 (h96 0) true false true false (.v 1) (.v 2) (.v 3) (.v 4)),
    ([0x0003FCED, 0x00EA0200], .i2p h64 (.v 2) (.k 10)),
    ([0x0003FCF1, 0x00000007], .p2i h64 (.v 7))] = true := by decide

theorem test_words_floating : reads decodeSimtWords [
    ([0x4803FD41, 0x22030201], .fadd h64 ⟨true, false, 2⟩ ⟨true, false, false, false, true, false⟩ (.v 1) (.v 2) (.v 3)),
    ([0x3003FD45, 0x22030201], .fmul h64 ⟨false, true, 1⟩ ⟨true, false, false, false, true, false⟩ (.v 1) (.v 2) (.v 3)),
    ([0x4803FD4D, 0x22030201], .fmin h64 ⟨true, false, 2⟩ ⟨true, false, false, false, true, false⟩ (.v 1) (.v 2) (.v 3)),
    ([0x3003FD51, 0x22030201], .fmax h64 ⟨false, true, 1⟩ ⟨true, false, false, false, true, false⟩ (.v 1) (.v 2) (.v 3)),
    ([0x4803FD55, 0x12000201], .frnd h64 ⟨true, false, 2⟩ ⟨true, false, false, true, false, false⟩ (.v 1) (.v 2)),
    ([0x0003FD59, 0x00000201], .fclass h64 (.v 1) (.v 2)),
    ([0x0803FD5D, 0x0C030291], .fcmp h64 ⟨true, false, 0⟩ .gtu ⟨1, 2, .a⟩ (.v 2) (.v 3)),
    ([0x0003FD61, 0x00000200], .fsetmodeWmode h64 (.v 2)),
    ([0x0003FD61, 0x01000003], .fsetmodeRmode h64 (.v 3)),
    ([0x0003FD61, 0x02000003], .fsetmodeRstat h64 (.v 3)),
    ([0x0003FD61, 0x03000200], .fsetmodeCstat h64 (.v 2)),
    ([0x4803FD65, 0x22060402], .dadd h64 ⟨true, false, 2⟩ ⟨true, false, false, false, true, false⟩ (.v 2) (.v 4) (.v 6)),
    ([0x3003FD69, 0x22060402], .dmul h64 ⟨false, true, 1⟩ ⟨true, false, false, false, true, false⟩ (.v 2) (.v 4) (.v 6)),
    ([0x4803FD71, 0x22060402], .dmin h64 ⟨true, false, 2⟩ ⟨true, false, false, false, true, false⟩ (.v 2) (.v 4) (.v 6)),
    ([0x3003FD75, 0x22060402], .dmax h64 ⟨false, true, 1⟩ ⟨true, false, false, false, true, false⟩ (.v 2) (.v 4) (.v 6)),
    ([0x4803FD6E, 0x18060402, 0x00000008], .dfma (h96 0) ⟨true, false, 2⟩ ⟨false, false, true, true, false, false⟩ (.v 2) (.v 4) (.v 6) (.v 8)),
    ([0x1003FD79, 0x07040263], .dcmp h64 ⟨false, true, 0⟩ .nan ⟨3, 4, .u⟩ (.v 2) (.v 4))] = true := by decide

theorem test_words_packed : reads decodeSimtWords [
    ([0x4803FD81, 0x22030201], .hadd2 h64 ⟨true, false, 2⟩ ⟨true, false, false, false, true, false⟩ (.v 1) (.v 2) (.v 3)),
    ([0x3003FD85, 0x22030201], .hmul2 h64 ⟨false, true, 1⟩ ⟨true, false, false, false, true, false⟩ (.v 1) (.v 2) (.v 3)),
    ([0x4803FD91, 0x22030201], .badd2 h64 ⟨true, false, 2⟩ ⟨true, false, false, false, true, false⟩ (.v 1) (.v 2) (.v 3)),
    ([0x3003FD95, 0x22030201], .bmul2 h64 ⟨false, true, 1⟩ ⟨true, false, false, false, true, false⟩ (.v 1) (.v 2) (.v 3)),
    ([0x4803FD8A, 0x18030201, 0x00000004], .hfma2 (h96 0) ⟨true, false, 2⟩ ⟨false, false, true, true, false, false⟩ (.v 1) (.v 2) (.v 3) (.v 4)),
    ([0x3003FD9A, 0x18030201, 0x00000004], .bfma2 (h96 0) ⟨false, true, 1⟩ ⟨false, false, true, true, false, false⟩ (.v 1) (.v 2) (.v 3) (.v 4)),
    ([0x4803FD8D, 0xA2030201], .hmnmx2 h64 ⟨true, false, 2⟩ ⟨true, false, false, false, true, false⟩ true (.v 1) (.v 2) (.v 3)),
    ([0x4803FDA5, 0xA2030201], .qmul4 h64 ⟨true, false, 2⟩ ⟨true, false, false, false, true, false⟩ true false (.v 1) (.v 2) (.v 3)),
    ([0x3003FDAA, 0x19030201, 0x00000004], .qfma4 (h96 0) ⟨false, true, 1⟩ ⟨false, false, true, true, false, false⟩ false true (.v 1) (.v 2) (.v 3) (.v 4)),
    ([0x2003FDC5, 0x0B000401], .cvtmx h64 ⟨false, false, 1⟩ .e2m3 true (.v 1) (.v 4))] = true := by decide

theorem test_words_special : reads decodeSimtWords [
    ([0x1003FDE1, 0x12000201], .rcp h64 ⟨false, true, 0⟩ ⟨true, false, false, true, false, false⟩ (.v 1) (.v 2)),
    ([0x1003FDE5, 0x12000201], .rsq h64 ⟨false, true, 0⟩ ⟨true, false, false, true, false, false⟩ (.v 1) (.v 2)),
    ([0x1003FDE9, 0x12000201], .sqrt h64 ⟨false, true, 0⟩ ⟨true, false, false, true, false, false⟩ (.v 1) (.v 2)),
    ([0x1003FDED, 0x12000201], .ex2 h64 ⟨false, true, 0⟩ ⟨true, false, false, true, false, false⟩ (.v 1) (.v 2)),
    ([0x1003FDF1, 0x12000201], .lg2 h64 ⟨false, true, 0⟩ ⟨true, false, false, true, false, false⟩ (.v 1) (.v 2)),
    ([0x1003FDF5, 0x12000201], .sin h64 ⟨false, true, 0⟩ ⟨true, false, false, true, false, false⟩ (.v 1) (.v 2)),
    ([0x1003FDF9, 0x12000201], .cos h64 ⟨false, true, 0⟩ ⟨true, false, false, true, false, false⟩ (.v 1) (.v 2)),
    ([0x1003FDFD, 0x12000201], .tanh h64 ⟨false, true, 0⟩ ⟨true, false, false, true, false, false⟩ (.v 1) (.v 2)),
    ([0x0003FE02, 0x00040201, 0x00000006], .hrand (h96 0) (.v 1) (.v 2) (.v 4) (.v 6)),
    ([0x0003FE06, 0x02030201, 0x00000004], .drop (h96 0) .bf16x2 (.v 1) (.v 2) (.v 3) (.v 4))] = true := by decide

theorem test_words_memory : reads decodeSimtWords [
    ([0x2003FE46, 0x03040200, 0x00001000], .st (h96 0x10) .w64 .g 2 (.v 2) (.v 4)),
    ([0x1803FE49, 0x14008204], .ldv h64 .w128 .s true 1 (.v 4) (.s 2)),
    ([0x1003FE52, 0x48040201, 0x00000005], .atom (h96 0) .dec .u32 .acq .pkg .g (.v 1) (.v 2) (.v 4) (.v 5)),
    ([0x4803FE55, 0x86040201], .atomf h64 .max true .rel .blk .s (.v 1) (.v 2) (.v 4)),
    ([0x2803FE5A, 0xD0060402, 0x00000008], .cas (h96 0) true .ar .sys .g (.v 2) (.v 4) (.v 6) (.v 8)),
    ([0x2003FE61, 0xA4040200], .red h64 .or .u64 .rel .pod .g (.v 2) (.v 4) (.v 0)),
    ([0x3003FE65, 0x01000200], .pref h64 true 3 (.v 2)),
    ([0x0003FE6A, 0x00000007, 0x00000800], .xbeg (h96 8) 7),
    ([0x0003FE6D, 0x00000007], .xend h64 7),
    ([0x0003FE71, 0x21000000], .xabt h64 0x21),
    ([0x0803FE89, 0x00000000], .fenceAcq gT .blk),
    ([0x1803FE89, 0x01000000], .fenceRel gT .cell),
    ([0x2803FE89, 0x02000000], .fenceAr gT .sys),
    ([0x0003FEE9, 0x00E70200], .czero h64 (.v 2) (.k 7))] = true := by decide

theorem test_words_copyAndFabric : reads decodeSimtWords [
    ([0x0003FF06, 0x01020400, 0x00004006], .cpym gT .g none 0x40 (.v 4) (.v 2) (.v 6)),
    ([0x0003FF09, 0x00000001], .cseal h64 (.v 1)),
    ([0x0003FF0D, 0x00000100], .cwait h64 (.v 1)),
    ([0x0003FF11, 0x05000001], .crdptr h64 5 (.v 1)),
    ([0x0003FF15, 0x00000001], .cfixq h64 (.v 1)),
    ([0x0003FF21, 0x00020103], .bari h64 3 (.v 1) (.v 2)),
    ([0x0003FF25, 0x00000007], .bara h64 7),
    ([0x0003FF2D, 0x00020009], .barx h64 9 (.v 2)),
    ([0x0003FF42, 0x00040200, 0x00000006], .fput gT (.v 2) (.v 4) (.v 6)),
    ([0x0003FF46, 0x00040200, 0x00000006], .fget gT (.v 2) (.v 4) (.v 6)),
    ([0x0003FF4A, 0x00040200, 0x00000000], .fsigSet gT (.v 2) (.v 4)),
    ([0x0003FF4A, 0x01040200, 0x00000000], .fsigAdd gT (.v 2) (.v 4)),
    ([0x0003FF52, 0xE9040208, 0x00000406], .fatom gT .cas .u64 .ar .pod (.v 8) (.v 2) (.v 4) (.v 6))] = true := by decide

theorem test_words_system : reads decodeSimtWords [
    ([0x0003FFC5, 0x00000000], .yield h64),
    ([0x0003FFC9, 0x02040200], .waitmem h64 .ge (.v 2) (.v 4)),
    ([0x0003FFCE, 0x0000FF00, 0x00006400], .sleep (h96 100) .imm),
    ([0x0003FFE1, 0x42000000], .trap gT 0x42),
    ([0x0003FFE5, 0x00000000], .eret gT),
    ([0x0003FFEF, 0x00000200, 0x00000000, 0x00000721], .swr ⟨gT, .l128 0x721⟩ (.v 2)),
    ([0x0003FFF5, 0x00040200], .tlbiPage h64 (.v 2) (.v 4)),
    ([0x0003FFF5, 0x01040000], .tlbiAsid h64 (.v 4)),
    ([0x0003FFF5, 0x02000000], .tlbiAll h64)] = true := by decide

theorem test_words_tile : reads decodeTileWords [
    ([0x00000002, 0x00000000, 0x00000000], .tileNop 2),
    ([0x00000382, 0x00000111, 0x00002000], .tsrd 0x11 0x2000),
    ([0x0001438B, 0x00000400, 0x00000040, 0x00000100], .tst 5 true 0x40 0x100),
    ([0x00001B8D, 0x00000000], .tzero 6),
    ([0x0001DB8D, 0x00000100], .tmov 6 7),
    ([0x0000C391, 0x00000002], .tsend 2 3),
    ([0x00001395, 0x00000003], .trecv 3 4),
    ([0x00000399, 0x00000005], .tarrive 5),
    ([0x00000399, 0x00000106], .twait 6),
    ([0x0000039F, 0x00000001, 0xFFFFFFF0, 0x00000008], .tloop 1 0xFFFFFFF0 8),
    ([0x000003A2, 0x00000000, 0x00000020], .tbra 0x20),
    ([0x000003A5, 0x00000000], .tend),
    ([0x000C87AD, 0x0000A401], .tmmax 1 2 3 .e4m3 .e5m2 .fp32 false 1),
    ([0x010C87B1, 0x00808400], .tmmas 1 2 3 4 .e4m3 .e4m3 .fp32 true),
    ([0x000C87B5, 0x00000400], .tadd 1 2 3 .fp16),
    ([0x0C0087B6, 0x00000700, 0x40000000], .tscale 1 2 .bf16 3 0x40000000)] = true := by decide

/-! ### Witnesses: decoding and the step -/

theorem wit_RoundTripSimt : (Instr.iadd h64 .s32 false true (.v 1) (.v 2) (.v 3)).wf = true
    ∧ (encodeRaw (.iadd h64 .s32 false true (.v 1) (.v 2) (.v 3))).isSome = true := by decide

theorem wit_RoundTripTile : (Instr.tld 3 2 true 0x80000040 0x100).wf = true
    ∧ encodeRaw (.tld 3 2 true 0x80000040 0x100) = none := by decide

/-- A line whose words 1 and 2 hold the MOV, and one whose first start position holds no length. -/
def moveLine : List Word := lineOf (encode moveI)

theorem wit_LengthCodes :
    ((startAt moveLine 1).map (fun st => (st.ok, st.len)) = some (true, 2) ∧ lenWords (moveLine.getD 1 0) = some 2)
    ∧ ((startAt (lineOf []) 1).isSome = true ∧ ((lineOf []).getD 1 0).toNat % 4 = 0)
    ∧ lenWords 1 = some 2 ∧ lenWords 2 = some 3
    ∧ (match framedAt moveLine 4 with | .ins i _ => i == moveI | _ => false) = true := by decide

theorem wit_StreamOpcodes :
    (0xE0 ≤ ((0x00000381 : Word).extractLsb' 2 8).toNat ∧ ((0x00000381 : Word).extractLsb' 2 8).toNat ≤ 0xEF)
    ∧ ((0x00000081 : Word).extractLsb' 2 8 ≠ 0 ∧ ((0x00000081 : Word).extractLsb' 2 8).toNat < 0xE0)
    ∧ ((0x000003BD : Word).extractLsb' 2 8 ≠ 0 ∧ 0xEE < ((0x000003BD : Word).extractLsb' 2 8).toNat) := by decide

theorem wit_DecodedIsLegal :
    (decodeSimt 0x0803FC81 0x01030201 0 0).toOption = some (.iadd h64 .s32 false true (.v 1) (.v 2) (.v 3))
    ∧ (decodeTile 0x00000382 0x10 7 0).toOption = some (.tswr 0x10 7) := by decide

/-- The baster's group stands at the MOV, and quadrant 0 of core 0 is given its turn. -/
def sTurn : State := { sAt baster moveI .s SecVal.zero with agenda := [.issue 0 0], now := 1000 }
def turn0 : State := ({ sTurn with agenda := [], now := 1001 } : State).rotateSystem exec 0 0

/-- The line that the turn fetches, and the state after it. -/
def fetched : State × Fetched :=
  State.fetchLine { turn0 with cur := .simt ⟨0, 0, 1, 4, 4⟩ } 0 0 false 0

theorem wit_FramesWords : (startAt moveLine (4 % 128 / 4)).map (fun st => (st.ok, st.len)) = some (true, 2)
    ∧ malformed moveLine = false ∧ moveI.wf = true ∧ (encodeRaw moveI).isSome = true ∧ (encode moveI).length = 2
    ∧ (moveLine.drop (4 % 128 / 4)).take 2 = encode moveI := by decide

theorem wit_IssueRuns :
    (turn0.issueOrder 0 0).map (fun c => (c.blk, c.grp)) = [(0, 0)]
    ∧ turn0.grp? 0 0 = some (grpOf [baster])
    ∧ (turn0.issueOrder 0 0).map (fun c => (c.y, turn0.chosen exec c)) = [(grpOf [baster], grpOf [baster], some 4)]
    ∧ turn0.lanesAt 0 (grpOf [baster]) 4 = [0] ∧ baster.priv = false
    ∧ fetched.1.lanesAt 0 (grpOf [baster]) 4 = [0]
    ∧ (words? fetched.2).map (fun ws => match framedAt ws 4 with | .ins i n => i == moveI && n == 12 | _ => false) = some true
    ∧ (match exec moveI { fetched.1 with cur := .simt ⟨0, 0, 1, 4, 12⟩ } with
      | .next t => decide (t.cur = .none)
      | _ => false) = true := by decide

theorem wit_TileRuns :
    ({ sI copy0 with agenda := [.tile 0 0] } : State).tileReady 0 0 = true
    ∧ ({ sI copy0 with agenda := [.tile 0 0] } : State).tile? 0 0 = some copy0
    ∧ (copy0.framed copy0.spc).2.toOption.isSome = true := by decide

theorem wit_EventRuns : ({ State.reset with agenda := [.event .mergeSweep] } : State).agenda = .event .mergeSweep :: [] := rfl

/-- A state with a scratchpad byte written has memories in canonical form, and its step answers a next state. -/
def sWf : State :=
  { State.reset with
    blocks := [(0, { Block.placed [] with groups := [yU], scratch := Memory.setByte [] 3 7 })]
    agenda := [.event .mergeSweep] }

theorem wit_MemoriesStayCanonical : sWf.memoriesWf = true
    ∧ (match step sWf with | .next t => t.memoriesWf | _ => false) = true := by decide

/-! ### Witnesses: one location, elements and predicates -/

theorem wit_OneLocation : sL.homed 0 = true ∧ (0 : Nat) < 2 ^ 56 ∧ sL.mem.wf = true ∧ (1 : Nat) ≠ 0 ∧ sL.homed 1 = true := by decide

theorem wit_IntegerElements : 3 < ITy.s8x4.count := by decide

theorem wit_RotRotates : ((ITy.u32 = ITy.u32 ∧ 32 = 32) ∨ (ITy.u32 = ITy.u64 ∧ 32 = 64))
    ∧ Claim.Issues s2 c0 y2 (.rot h64 .u32 true (.v 1) (.v 2) (.k 3)) gT := by
  unfold Claim.Issues; decide

theorem wit_PmovSets : Claim.Issues s2 c0 y2 (if true then .pmovNot h64 1 2 else .pmov h64 1 2) gT
    ∧ Claim.Issues s2 c0 y2 (if false then .pmovNot h64 1 2 else .pmov h64 1 2) gT := by
  unfold Claim.Issues; decide

/-! ### Single instructions: the worked examples of the spec -/

/-- A privileged thread whose V1 to V8 are the values given. -/
def regsOf (vs : List Word) : Thread :=
  { Thread.placed with v := 0 :: vs ++ List.replicate (15 - vs.length) 0, live := 16 }

/-- What a form leaves in V1 and in FPSTAT and P1, issued by one thread whose registers from V1 are the values given. -/
def out (i : Instr) (vs : List Word) : Option (Word × Word × Word × Bool) :=
  match exec i (sOf (grpOf [regsOf vs])) with
  | .next t => (t.grp? 0 0).map fun y => ((y.threads.map fun u => u.v.getD 1 0).headD 0, (y.threads.map fun u => u.v.getD 2 0).headD 0, y.fpstat,
      (y.threads.map fun u => u.p.getLsbD 1).headD false)
  | _ => none

def res (i : Instr) (vs : List Word) : Option Word := (out i vs).map (·.1)
def flags (i : Instr) (vs : List Word) : Option Word := (out i vs).map (·.2.2.1)
def pairOut (i : Instr) (vs : List Word) : Option (Word × Word) := (out i vs).map fun o => (o.1, o.2.1)
def p1 (i : Instr) (vs : List Word) : Option Bool := (out i vs).map (·.2.2.2)

def near : FMod := ⟨false, false, 0⟩
def noFF : FF := ⟨false, false, false, false, false, false⟩

-- 05 R162's example.
theorem test_sar : res (.sar (h96 4) .u32 false (.v 1) (.v 1) .imm) [0x80FF7F01] = some 0xF80FF7F0 := by decide
theorem test_shr_clamp : res (.shr (h96 40) .u32 true (.v 1) (.v 1) .imm) [0x80FF7F01] = some 0 := by decide
theorem test_shr : res (.shr (h96 40) .u32 false (.v 1) (.v 1) .imm) [0x80FF7F01] = some 0x0080FF7F := by decide
-- 05 R152's example: the sum wraps to zero.
theorem test_imadW : pairOut (.imadW (h96 0) .u32 (.v 2) (.v 1) (.v 3) (.v 4)) [0xFFFFFFFF, 0, 0xFFFFFFFF, 0xFFFFFFFF, 1]
    = some (0xFFFFFFFF, 0) := by decide
theorem test_iadd_sat : res (.iadd h64 .s8x4 false true (.v 1) (.v 1) (.v 2)) [0x7F800180, 0x01FF01FF] = some 0x7F800280 := by
  decide
theorem test_icmp : p1 (.icmp h64 .s32 .ge ⟨1, 2, .n⟩ (.v 1) (.k 0)) [0xFFFFFFFF] = some false := by decide
-- 05 R165's example.
theorem test_lea_signed : (out (.lea h64 3 true (.v 2) (.v 2) (.v 1)) [0xFFFFFFFC, 0x1000, 0x7F00]).map (·.2.1)
    = some 0x0FE0 := by decide
theorem test_popc : res (.popc h64 false (.v 1) (.v 2)) [0, 0xF0F00001] = some 9 := by decide
theorem test_brev : res (.brev h64 false (.v 1) (.v 2)) [0, 0x00000001] = some 0x80000000 := by decide
-- 07 R218's example: -0.5 rounds to -1.0 down, and to -0.0 to even.
theorem test_frnd_down : (res (.frnd h64 ⟨false, false, 4⟩ noFF (.v 1) (.v 2)) [0, 0xBF000000],
    flags (.frnd h64 ⟨false, false, 4⟩ noFF (.v 1) (.v 2)) [0, 0xBF000000]) = (some 0xBF800000, some 0x10) := by decide
theorem test_frnd_even : res (.frnd h64 ⟨false, false, 1⟩ noFF (.v 1) (.v 2)) [0, 0xBF000000] = some 0x80000000 := by decide
-- 03 R86's example.
theorem test_qadd4 : (res (.qadd4 h64 ⟨false, false, 1⟩ noFF false false (.v 1) (.v 2) (.v 3)) [0, 0x7F7E3C7E, 0x38003C60],
    flags (.qadd4 h64 ⟨false, false, 1⟩ noFF false false (.v 1) (.v 2) (.v 3)) [0, 0x7F7E3C7E, 0x38003C60])
      = (some 0x7F7E447F, some 0x14) := by decide
-- 03 R93's example: -40.0 to E8M0, and E8M0 0x88 to SINT8.
theorem test_cvt_e8m0 : (res (.cvt h64 near .e8m0 .fp32 0 false (.v 1) (.v 2)) [0, 0xC2200000],
    flags (.cvt h64 near .e8m0 .fp32 0 false (.v 1) (.v 2)) [0, 0xC2200000]) = (some 0x84, some 0x10) := by decide
theorem test_cvt_s8 : (res (.cvt h64 near .s8 .e8m0 0 false (.v 1) (.v 2)) [0, 0x88],
    flags (.cvt h64 near .s8 .e8m0 0 false (.v 1) (.v 2)) [0, 0x88]) = (some 127, some 0x11) := by decide
-- 03 R80's example: 470 to E4M3, saturated and not.
theorem test_cvt_e4m3 : (res (.cvt h64 near .e4m3 .fp32 0 false (.v 1) (.v 2)) [0, 0x43EB0000],
    res (.cvt h64 near .e4m3 .fp32 0 true (.v 1) (.v 2)) [0, 0x43EB0000],
    flags (.cvt h64 near .e4m3 .fp32 0 true (.v 1) (.v 2)) [0, 0x43EB0000]) = (some 0x7F, some 0x7E, some 0x34) := by decide
theorem test_fadd : res (.fadd h64 near noFF (.v 1) (.v 2) (.v 3)) [0, 0x3F800000, 0x40000000] = some 0x40400000 := by decide
-- 1.0 / 0.0 is infinity and sets DZ.
theorem test_rcp_zero : (res (.rcp h64 near noFF (.v 1) (.v 2)) [0, 0], flags (.rcp h64 near noFF (.v 1) (.v 2)) [0, 0])
    = (some 0x7F800000, some 0x02) := by decide
-- 07 R220's example: FPSTAT 0x34 with the bits of 0x14 cleared is 0x20.
theorem test_cstat : (match exec (.fsetmodeCstat h64 (.v 1)) (sOf { grpOf [regsOf [0x14]] with fpstat := 0x34 }) with
    | .next t => (t.grp? 0 0).map (·.fpstat)
    | _ => none) = some 0x20 := by decide
-- 04 R140's example: MOVI.64 of -2.
theorem test_movi : (out (.movi (h96 0xFFFFFE) true (.v 2)) []).map (·.2.1) = some 0xFFFFFFFE := by decide
-- 03 R100's example: the tree of five contributions gives 2^24 + 4.
theorem test_tree : treeSum 3 [0x4B800000, 0x3F800000, 0x3F800000, 0x3F800000, 0x3F800000] = 0x4B800002 := by decide
-- 10 R290's example: offset 0x3600 lives in slice 108.
theorem test_slice : sliceNum State.reset.pkg.caps 0x0070000000003600 = 108 := by decide
-- 01 R19's example: the next router on the way from (1, 2, 0) to (5, 5, 1) by Z, X, Y is (1, 2, 1).
theorem test_route : neighbour (routerAt 1 2 0) portZ = routerAt 1 2 1 := by decide

/-- Lanes 0 to 27 live with V1 = LANEID + 1 and P0 set in the even lanes, lanes 28 to 31 exited: 04 R144's example. -/
def yRedux : Group :=
  grpOf ((List.range 32).map fun l => { regsOf [BitVec.ofNat 32 (l + 1)] with
    p := if l % 2 = 0 then 1 else 0, exited := decide (28 ≤ l) })
def sRedux : State :=
  { State.reset with blocks := [(0, { Block.placed [] with groups := [yRedux] })], cur := .simt ⟨0, 0, 0x0FFFFFFF, 4, 12⟩ }

theorem test_redux : (match exec (.redux ⟨⟨0xAA, 0, 0, 0⟩, .l64⟩ .add false (.v 2) (.v 1)) sRedux with
    | .next t => (t.grp? 0 0).map fun y => (y.threads.take 4).map fun u => u.v.getD 2 0
    | _ => none) = some [196, 0, 196, 0] := by decide

-- 20 R501, R510: a TRAP goes to the first instruction of the line at the handler, privileged.
theorem test_trap : (match exec (.trap gT 3) (handled sU) with
    | .next t => (t.thr? 0 0 0).map fun u => (u.pc, u.priv)
    | _ => none) = some (0x1004, true) := by decide
-- 13: TSWR writes its control register, and the position goes on.
theorem test_tswr : (match exec (.tswr 0x10 7) (sI copy0) with
    | .next t => (t.tile? 0 0).map fun x => x.spc
    | _ => none) = some 2 := by decide
-- 06 R195: INC of the maximum gives 0, MIN of signed words is signed.
theorem test_atom : (atomNew .inc .u32 7 7 7, atomNew .min .s32 0xFFFFFFFF 1 0) = (0, 0xFFFFFFFF) := by decide

end Sys2Proof.Tests
end

section
/-! PROOFS. Length codes and start positions (02 R38, R39), and the opcodes that a stream does not take (02 R58). -/

namespace Sys2Proof

/-! ### The length code of a first word (02 R38) -/

theorem toNat_lengthCode (w : Word) : (w.extractLsb' 0 2).toNat = w.toNat % 4 := by
  simp [BitVec.extractLsb'_toNat]

theorem lenWords_eq_ite (w : Word) : lenWords w = if w.toNat % 4 = 1 then some 2 else if w.toNat % 4 = 2 then some 3
    else if w.toNat % 4 = 3 then some 4 else none := by
  unfold lenWords
  rw [toNat_lengthCode]
  split
  · next h => simp [h]
  · next h => simp [h]
  · next h => simp [h]
  · next h1 h2 h3 => rw [if_neg h1, if_neg h2, if_neg h3]

theorem lenWords_eq_none_of_mod {w : Word} (h : w.toNat % 4 = 0) : lenWords w = none := by
  simp [lenWords_eq_ite, h]

/-- The code that a word has when a length is known. -/
theorem lengthCode_of_lenWords {w : Word} {n : Nat} (h : lenWords w = some n) :
    (w.extractLsb' 0 2 = 1#2 ∧ n = 2) ∨ (w.extractLsb' 0 2 = 2#2 ∧ n = 3) ∨ (w.extractLsb' 0 2 = 3#2 ∧ n = 4) := by
  simp only [← BitVec.toNat_inj, BitVec.toNat_ofNat]
  unfold lenWords at h
  split at h
  · next hc => exact .inl ⟨hc, (Option.some.inj h).symm⟩
  · next hc => exact .inr (.inl ⟨hc, (Option.some.inj h).symm⟩)
  · next hc => exact .inr (.inr ⟨hc, (Option.some.inj h).symm⟩)
  · cases h

/-- The fields are taken from the words within the length only. -/
theorem Raw.ofWords_within_length {w0 : Word} {n : Nat} (w1 w2 w3 : Word) (h : lenWords w0 = some n) :
    Raw.ofWords w0 w1 (if n < 3 then 0 else w2) (if n < 4 then 0 else w3) = Raw.ofWords w0 w1 w2 w3 := by
  obtain ⟨hc, rfl⟩ | ⟨hc, rfl⟩ | ⟨hc, rfl⟩ := lengthCode_of_lenWords h
  · simp [Raw.ofWords, hc]
  · simp [Raw.ofWords, hc]
  · rfl

theorem decodeSimt_within_length {w0 : Word} {n : Nat} (w1 w2 w3 : Word) (h : lenWords w0 = some n) :
    decodeSimt w0 w1 (if n < 3 then 0 else w2) (if n < 4 then 0 else w3) = decodeSimt w0 w1 w2 w3 :=
  congrArg decodeRaw (Raw.ofWords_within_length w1 w2 w3 h)

/-! ### Opcodes that a stream does not take (02 R58) -/

theorem decodeRaw_of_form_error {r : Raw} {e : DecodeFault} (h : decodeForm r = .error e) : decodeRaw r = .error e := by
  unfold decodeRaw
  rw [h]
  rfl

theorem decodeTRaw_of_form_error {r : TRaw} {e : DecodeFault} (h : decodeTForm r = .error e) :
    decodeTRaw r = .error e := by
  unfold decodeTRaw
  rw [h]
  rfl

/-- The opcode table of the system forms has a gap where the tile opcodes are. -/
theorem decodeSystem_of_tile_opcode {r : Raw} (hlo : 0xE0 ≤ r.opc.toNat) (hhi : r.opc.toNat ≤ 0xEF) :
    decodeSystem r = .error .illegalOpcode := by
  unfold decodeSystem
  split
  all_goals try omega
  rfl

theorem decodeForm_of_tile_opcode {r : Raw} (hlo : 0xE0 ≤ r.opc.toNat) (hhi : r.opc.toNat ≤ 0xEF) :
    decodeForm r = .error .illegalOpcode := by
  have hsystem : decodeForm r = decodeSystem r := by
    unfold decodeForm
    iterate 5 rw [if_neg (by omega)]
  rw [hsystem, decodeSystem_of_tile_opcode hlo hhi]

/-- The opcode table of tile streams: NOP, and 0xE0 to 0xEE. -/
theorem decodeTForm_of_other_opcode {r : TRaw} (hnop : r.opc.toNat ≠ 0)
    (hout : r.opc.toNat < 0xE0 ∨ 0xEE < r.opc.toNat) : decodeTForm r = .error .illegalOpcode := by
  unfold decodeTForm
  split
  all_goals try omega
  rfl

end Sys2Proof

namespace Sys2Proof.Machine

/-! ### Start positions (02 R38, R39) -/

/-- A start position of a segment that holds an instruction has the length of its word's code, within the segment. -/
theorem startsFrom_ok {ws : List Word} {fin : Nat} {st : Start} (hok : st.ok = true) : ∀ {k pos : Nat},
    st ∈ startsFrom ws fin k pos → lenWords (ws.getD st.pos 0) = some st.len ∧ st.pos + st.len ≤ fin := by
  intro k
  induction k with
  | zero => intro pos h; simp [startsFrom] at h
  | succ k ih =>
    intro pos h
    have hbad : ∀ n, st ∉ [(⟨pos, false, n⟩ : Start)] := by
      rintro n hmem
      rw [List.mem_singleton.mp hmem] at hok
      cases hok
    unfold startsFrom at h
    split at h
    · simp at h
    · dsimp only at h
      split at h
      · split at h
        · simp at h
        · exact absurd h (hbad _)
      · next n hlen =>
        split at h
        · next hfit =>
          obtain rfl | htail := List.mem_cons.mp h
          · exact ⟨hlen, hfit⟩
          · exact ih htail
        · exact absurd h (hbad _)

theorem starts_ok {ws : List Word} {st : Start} (h : st ∈ starts ws) (hok : st.ok = true) :
    lenWords (ws.getD st.pos 0) = some st.len ∧ st.pos + st.len ≤ 32 := by
  have hseg : ∃ fin k pos, fin ≤ 32 ∧ st ∈ startsFrom ws fin k pos := by
    simp only [starts, List.mem_append] at h
    obtain ((h | h) | h) | h := h
    · exact ⟨8, 4, 1, by decide, h⟩
    · exact ⟨16, 4, 8, by decide, h⟩
    · exact ⟨24, 4, 16, by decide, h⟩
    · exact ⟨32, 4, 24, by decide, h⟩
  obtain ⟨fin, k, pos, hfin, hmem⟩ := hseg
  obtain ⟨hlen, hfit⟩ := startsFrom_ok hok hmem
  exact ⟨hlen, Nat.le_trans hfit hfin⟩

theorem startAt_ok {ws : List Word} {i : Nat} {st : Start} (h : startAt ws i = some st) (hok : st.ok = true) :
    lenWords (ws.getD i 0) = some st.len ∧ i + st.len ≤ 32 := by
  have hpos : st.pos = i := by simpa using List.find?_some h
  subst hpos
  exact starts_ok (List.mem_of_find?_eq_some h) hok

theorem startAt_not_ok_of_mod {ws : List Word} {i : Nat} {st : Start} (h : startAt ws i = some st)
    (hcode : (ws.getD i 0).toNat % 4 = 0) : st.ok = false := by
  refine Bool.eq_false_iff.mpr fun hok => ?_
  obtain ⟨hlen, -⟩ := startAt_ok h hok
  rw [lenWords_eq_none_of_mod hcode] at hlen
  cases hlen

/-- What stands at a PC that frames an instruction. -/
theorem framedAt_eq_ins {ws : List Word} {pc npc : Nat} {ins : Instr} (h : framedAt ws pc = .ins ins npc) :
    ∃ st, startAt ws (pc % 128 / 4) = some st ∧ st.ok = true ∧ malformed ws = false
      ∧ npc = nextPc ws (pc / 128 * 128) (pc % 128 / 4) st.len
      ∧ decodeSimt (ws.getD (pc % 128 / 4) 0) (ws.getD (pc % 128 / 4 + 1) 0)
          (if st.len < 3 then 0 else ws.getD (pc % 128 / 4 + 2) 0)
          (if st.len < 4 then 0 else ws.getD (pc % 128 / 4 + 3) 0) = .ok ins := by
  unfold framedAt at h
  dsimp only at h
  split at h
  · cases h
  · next st hst =>
    split at h
    · cases h
    · next hgood =>
      simp only [Bool.or_eq_true, Bool.not_eq_true', not_or, Bool.not_eq_false, Bool.not_eq_true] at hgood
      obtain ⟨hok, hheader⟩ := hgood
      split at h
      · next hdec =>
        cases h
        exact ⟨st, hst, hok, hheader, rfl, hdec⟩
      · cases h

theorem decodeSimt_of_framedAt {ws : List Word} {pc npc : Nat} {ins : Instr} (h : framedAt ws pc = .ins ins npc) :
    decodeSimt (ws.getD (pc % 128 / 4) 0) (ws.getD (pc % 128 / 4 + 1) 0) (ws.getD (pc % 128 / 4 + 2) 0)
      (ws.getD (pc % 128 / 4 + 3) 0) = .ok ins := by
  obtain ⟨st, hst, hok, -, -, hdec⟩ := framedAt_eq_ins h
  obtain ⟨hlen, -⟩ := startAt_ok hst hok
  rwa [decodeSimt_within_length _ _ _ hlen] at hdec

/-- Settles O49: a start position that holds an instruction has the length of its code, and the decoder is given the
words within that length. -/
theorem lengthCodes : Obligations.LengthCodes := by
  unfold Obligations.LengthCodes
  refine ⟨lenWords_eq_ite, fun _ _ _ => startAt_ok, fun _ _ _ => startAt_not_ok_of_mod, ?_, ?_, ?_⟩
  · intro w0 w1 w2 w3 h
    exact (decodeSimt_within_length w1 w2 w3 h).symm
  · intro w0 w1 w2 w3 h
    exact (decodeSimt_within_length w1 w2 w3 h).symm
  · rintro ws pc npc _ ins rfl h
    exact decodeSimt_of_framedAt h

/-- Settles O50: neither opcode table has an entry for the other stream's opcodes, and the opcode is looked up before any
other field is checked. -/
theorem streamOpcodes : Obligations.StreamOpcodes := by
  unfold Obligations.StreamOpcodes
  refine ⟨rfl, ?_, ?_⟩
  · intro w0 w1 w2 w3 hlo hhi
    exact decodeRaw_of_form_error (decodeForm_of_tile_opcode hlo hhi)
  · intro w0 w1 w2 w3 hnop hout
    have hnop' : (w0.extractLsb' 2 8).toNat ≠ 0 := fun h => hnop (BitVec.eq_of_toNat_eq h)
    exact decodeTRaw_of_form_error (decodeTForm_of_other_opcode hnop' hout)

end Sys2Proof.Machine
end

section
/-! PROOFS. What the issue of a form that changes each guard-true thread by itself leaves (04 R115), and PMOV (04 R139). -/

namespace Sys2Proof.Machine

/-! ### Outside the issuing group -/

/-- Every block of s is in t, with its groups at most changed. -/
def State.OnlyGroups (s t : State) : Prop :=
  ∀ b x, s.blk? b = some x → ∃ ys, t.blk? b = some { x with groups := ys }

namespace State

theorem OnlyGroups.refl (s : State) : s.OnlyGroups s := fun _ x hx => ⟨x.groups, hx⟩

theorem OnlyGroups.trans {s t u : State} (hst : s.OnlyGroups t) (htu : t.OnlyGroups u) : s.OnlyGroups u := by
  intro b x hx
  obtain ⟨ys, ht⟩ := hst b x hx
  obtain ⟨zs, hu⟩ := htu b _ ht
  exact ⟨zs, hu⟩

theorem onlyGroups_modGrp (s : State) (b g : Nat) (f : Group → Group) : s.OnlyGroups (s.modGrp b g f) := by
  intro b' x hx
  by_cases hb : b' = b
  · subst hb
    exact ⟨_, blk?_modBlk_self _ hx⟩
  · exact ⟨x.groups, (blk?_modBlk_ne s _ hb).trans hx⟩

/-- Starting the groups of some entries of a table of blocks leaves the rest of each entry. -/
theorem find?_startGroups (p : Block → Bool) (b : Nat) : ∀ (bs : Tab Block) (x : Block), find? b bs = some x →
    ∃ ys, find? b (bs.map fun e => if p e.2 then
      (e.1, { e.2 with groups := e.2.groups.map fun y => { y with started := true } }) else e)
      = some { x with groups := ys }
  | [], _, h => by cases h
  | (k, z) :: bs, x, h => by
    by_cases hk : b = k
    · subst hk
      obtain rfl : z = x := by simpa [find?] using h
      by_cases hp : p z = true
      · exact ⟨z.groups.map fun y => { y with started := true }, by simp [hp, find?]⟩
      · exact ⟨z.groups, by simp [hp, find?]⟩
    · obtain ⟨ys, hys⟩ := find?_startGroups p b bs x (by simpa [find?, hk] using h)
      refine ⟨ys, ?_⟩
      rw [List.map_cons]
      by_cases hp : p z = true
      · simpa [hp, find?, hk] using hys
      · simpa [hp, find?, hk] using hys

theorem onlyGroups_startBlocks (s : State) : s.OnlyGroups s.startBlocks :=
  fun b x hx => find?_startGroups s.gateOpen b s.blocks x hx

theorem onlyGroups_orderNext (s : State) (x : Block) : s.OnlyGroups (s.orderNext x) := by
  unfold orderNext
  split
  · split
    · next g _ _ => exact onlyGroups_startBlocks (s.setGrid { g with opened := g.opened + 1 })
    · exact .refl s
  · exact .refl s

theorem onlyGroups_openNext (s : State) (b : Nat) : s.OnlyGroups (s.openNext b) := by
  unfold openNext
  split
  · split
    · exact onlyGroups_orderNext s _
    · exact .refl s
  · exact .refl s

theorem onlyGroups_advance (s : State) (c : Cur) : s.OnlyGroups (s.advance c) :=
  (onlyGroups_modGrp s c.blk c.grp (Group.moved c)).trans
    (onlyGroups_openNext ((s.modGrp c.blk c.grp (Group.moved c)).markLate c) c.blk)

/-- What a sector holds coherently depends on the caches, the messages, the directory and memory only. -/
theorem cohRead_congr {s t : State} (hcores : t.cores = s.cores) (hnet : t.net = s.net) (hdir : t.dir = s.dir)
    (hmem : t.mem = s.mem) (hhom : t.hom = s.hom) (sec : Nat) : t.cohRead sec = s.cohRead sec := by
  unfold cohRead dirE memSec
  rw [hcores, hnet, hdir, hmem, hhom]

end State

/-- An issue group that moves on and changes its own group leaves all that lies beside it. -/
theorem beside_advance_modGrp (s : State) (c : Cur) (F : Group → Group) :
    Claim.Beside c s ((s.advance c).modGrp c.blk c.grp F).endTurn := by
  refine ⟨fun a => ?bytes, by simp, by simp, by simp, by simp, by simp, by simp, by simp, by simp, by simp, by simp,
    by simp, by simp, by simp, by simp, fun b x hx => ?blocks, fun b g z hne hz => ?groups⟩
  case bytes =>
    unfold Claim.byteAt
    rw [State.cohRead_congr] <;> simp
  case blocks =>
    obtain ⟨ys, hys⟩ := (s.onlyGroups_advance c).trans ((s.advance c).onlyGroups_modGrp c.blk c.grp F) b x hx
    exact ⟨_, hys, rfl, rfl, rfl, rfl⟩
  case groups =>
    have hkeep : ((s.advance c).modGrp c.blk c.grp F).grp? b g = (s.advance c).grp? b g := by
      by_cases hb : b = c.blk
      · subst hb
        exact State.grp?_modGrp_other _ F fun hg => hne ⟨rfl, hg⟩
      · exact State.grp?_modGrp_ne _ F hb
    obtain ⟨f, hf, hgrp⟩ := advance_other (s := s) hne
    rw [State.grp?_endTurn, hkeep, hgrp, hz, Option.map_some]
    exact (hf z).imp (congrArg some) (congrArg some)

/-! ### Forms that change each guard-true thread by itself -/

theorem guardTrue_nodup (s : State) (c : Cur) (g : Guard) : (s.guardTrue c g).Nodup :=
  (lanesOf_nodup c.lanes).filter _

/-- A thread form that nothing holds back is performed: the group has moved on, at most let start, each guard-true
thread is changed, and what lies beside the group stays. -/
theorem threadForm_performs {s : State} {c : Cur} {y : Group} {i : Instr} {g : Guard}
    (hi : Claim.Issues s c y i g) (f : Group → Nat → Thread → Thread) :
    ∃ t m, threadForm i g s f = .next t ∧ (m = y.moved c ∨ m = { y.moved c with started := true })
      ∧ t.grp? c.blk c.grp = some (m.modLanes (s.guardTrue c g) (f m)) ∧ Claim.Beside c s t := by
  obtain ⟨hcur, hy, hbast, hready, hlanes⟩ := hi
  obtain ⟨m, hm, hmoved⟩ := advance_grp hy
  exact ⟨_, m, issue_performs hcur hy hbast hready hlanes fun _ _ => rfl, hmoved,
    State.grp?_modGrp_self (fun y => y.modLanes (s.guardTrue c g) (f y)) hm, beside_advance_modGrp s c _⟩

/-- The threads of a group that has moved on, and may have been let start. -/
theorem threads_of_moved {c : Cur} {y m : Group} (hm : m = y.moved c ∨ m = { y.moved c with started := true })
    (l : Nat) : m.threads[l]? = (y.threads[l]?).map (Claim.after c l) := by
  have hthreads : m.threads = (y.moved c).threads := by
    obtain rfl | rfl := hm <;> rfl
  rw [hthreads, Group.moved_threads]
  cases y.threads[l]? with
  | none => simp
  | some u => simp only [Claim.after, Option.map_some, apply_ite some]

/-! ### Predicates (04 R139) -/

/-- A predicate after one has been set. -/
theorem Thread.pred_setPred (u : Thread) (d n : BitVec 3) (v : Bool) :
    (u.setPred d v).pred n = if n = d then v else u.pred n := by
  have hbit : (1#8 <<< d.toNat).getLsbD n.toNat = decide (n = d) := by
    rw [← BitVec.twoPow_eq, BitVec.getLsbD_twoPow, decide_eq_true (show d.toNat < 8 from d.isLt), Bool.true_and,
      decide_eq_decide, BitVec.toNat_inj, eq_comm]
  have hn : n.toNat < 8 := n.isLt
  unfold setPred pred
  cases v
  · rw [if_neg Bool.false_ne_true, BitVec.getLsbD_and, BitVec.getLsbD_not, hbit, decide_eq_true hn]
    by_cases h : n = d <;> simp [h]
  · rw [if_pos rfl, BitVec.getLsbD_or, hbit]
    by_cases h : n = d <;> simp [h]

/-- The moving on of a thread leaves its predicates. -/
theorem pred_after (c : Cur) (l : Nat) (u : Thread) (n : BitVec 3) : (Claim.after c l u).pred n = u.pred n := by
  unfold Claim.after
  split <;> rfl

/-- PMOV and PMOV.NOT are one thread form. -/
theorem exec_pmov (h : Hd) (inv : Bool) (d a : BitVec 3) (s : State) :
    exec (if inv then .pmovNot h d a else .pmov h d a) s
      = threadForm (if inv then .pmovNot h d a else .pmov h d a) h.g s fun _ _ u => u.setPred d (u.pred a ^^ inv) := by
  cases inv
  · simp only [Bool.xor_false]; rfl
  · simp only [Bool.xor_true]; rfl

/-- Settles O59: PMOV is a thread form that sets one predicate, and a predicate set leaves the other seven. -/
theorem pmovSets : Obligations.PmovSets := by
  unfold Obligations.PmovSets
  refine ⟨fun h d a => ⟨rfl, rfl⟩, fun h inv d a s c y hi => ?_⟩
  obtain ⟨t, m, ht, hm, hgrp, hbeside⟩ := threadForm_performs hi fun _ _ u => u.setPred d (u.pred a ^^ inv)
  refine ⟨t, _, (exec_pmov h inv d a s).trans ht, hgrp, ?s, ?fpstat, ?fpmode, hbeside, fun l u hu => ?_⟩
  case s | fpstat | fpmode => obtain rfl | rfl := hm <;> rfl
  have hmoved : m.threads[l]? = some (Claim.after c l u) := by rw [threads_of_moved hm, hu, Option.map_some]
  rw [Group.modLanes_threads _ _ _ _ (guardTrue_nodup s c h.g), hmoved]
  by_cases hl : l ∈ s.guardTrue c h.g
  · rw [if_pos hl]
    refine ⟨_, rfl, rfl, fun n => ?_⟩
    calc ((Claim.after c l u).setPred d ((Claim.after c l u).pred a ^^ inv)).pred n
        = if n = d then u.pred a ^^ inv else u.pred n := by rw [Thread.pred_setPred, pred_after, pred_after]
      _ = if l ∈ s.guardTrue c h.g ∧ n = d then u.pred a ^^ inv else u.pred n := by simp only [hl, true_and]
  · rw [if_neg hl]
    refine ⟨_, rfl, rfl, fun n => ?_⟩
    rw [if_neg fun hset => hl hset.1]
    exact pred_after c l u n

end Sys2Proof.Machine
end

section
/-! PROOFS. What the issue of an integer form with one destination leaves (04 R115, R116; 05 R170), and ROT (05 R160). -/

namespace Sys2Proof.Machine

/-! ### Consecutive registers (02 R52) -/

@[simp] theorem setRegs_length : ∀ (n : Nat) (rs : List Word) (r x : Nat), (setRegs rs r n x).length = rs.length
  | 0, _, _, _ => rfl
  | n + 1, rs, r, x => by rw [setRegs, setRegs_length n, List.length_set]

theorem setRegs_getElem?_outside {k : Nat} : ∀ {n : Nat} {rs : List Word} {r x : Nat}, k < r ∨ r + n ≤ k →
    (setRegs rs r n x)[k]? = rs[k]?
  | 0, _, _, _, _ => rfl
  | n + 1, rs, r, x, hk => by
    rw [setRegs, setRegs_getElem?_outside (by omega), List.getElem?_set_ne (by omega)]

/-- The first of the registers written is the low word; the others hold the rest of the number. -/
theorem regsVal_setRegs : ∀ {n : Nat} {rs : List Word} {r x : Nat}, r + n ≤ rs.length →
    regsVal (setRegs rs r n x) r n = x % 2 ^ (32 * n)
  | 0, _, _, x, _ => by simp [regsVal, Nat.mod_one]
  | n + 1, rs, r, x, hlen => by
    have hlow : (setRegs (rs.set r (BitVec.ofNat 32 x)) (r + 1) n (x / 2 ^ 32)).getD r 0 = BitVec.ofNat 32 x := by
      rw [List.getD_eq_getElem?_getD, setRegs_getElem?_outside (by omega), List.getElem?_set_self (by omega)]
      rfl
    have hhigh := regsVal_setRegs (n := n) (rs := rs.set r (BitVec.ofNat 32 x)) (r := r + 1) (x := x / 2 ^ 32)
      (by rw [List.length_set]; omega)
    rw [setRegs, regsVal, hlow, hhigh, BitVec.toNat_ofNat, Nat.mul_succ, Nat.add_comm, Nat.pow_add,
      Nat.mul_comm (2 ^ (32 * n)), Nat.mod_mul, Nat.add_comm]

theorem regsSet_setRegs (rs : List Word) (r n x : Nat) : Claim.RegsSet rs (setRegs rs r n x) r n x :=
  ⟨setRegs_length n rs r x, regsVal_setRegs, fun _ => setRegs_getElem?_outside⟩

/-! ### What moving on leaves -/

/-- The moving on of a thread leaves its V registers. -/
theorem v_after (c : Cur) (l : Nat) (u : Thread) : (Claim.after c l u).v = u.v := by
  unfold Claim.after
  split <;> rfl

/-- The moving on of a group leaves its S registers. -/
theorem s_of_moved {c : Cur} {y m : Group} (hm : m = y.moved c ∨ m = { y.moved c with started := true }) :
    m.s = y.s := by
  obtain rfl | rfl := hm <;> rfl

/-- The moving on of an issue group changes no source of its threads. -/
theorem srcVal_of_moved {c : Cur} {y m : Group} (hm : m = y.moved c ∨ m = { y.moved c with started := true })
    (k : Kind) (x : Ext) (l : Nat) (u : Thread) (o : Opnd) :
    srcVal k x m (Claim.after c l u) l o = srcVal k x y u l o := by
  cases o with
  | v n => simp only [srcVal, v_after]
  | s n => simp only [srcVal, s_of_moved hm]
  | p n => simp only [srcVal, pred_after]
  | _ => rfl

/-! ### Destinations (04 R116) -/

/-- The V registers of thread u of lane l once the lanes of gt have their values written to d. -/
def dstRegs (gt : List Nat) (d : Opnd) (n : Nat) (val : Nat → Nat) (l : Nat) (u : Thread) : List Word :=
  match d with
  | .v r => if l ∈ gt then setRegs u.v r.toNat n (val l) else u.v
  | _ => u.v

theorem dstRegs_after (gt : List Nat) (d : Opnd) (n : Nat) (val : Nat → Nat) (c : Cur) (l : Nat) (u : Thread) :
    dstRegs gt d n val l (Claim.after c l u) = dstRegs gt d n val l u := by
  simp only [dstRegs, v_after]

/-- A destination is in the threads or in the S registers. -/
theorem Group.writeDst_frame (y : Group) (d : Opnd) (n : Nat) (res : List (Nat × Nat)) :
    y.writeDst d n res = { y with threads := (y.writeDst d n res).threads, s := (y.writeDst d n res).s } := by
  cases d with
  | s r => unfold writeDst; dsimp only; split <;> rfl
  | _ => rfl

theorem Group.writeDst_v (y : Group) (r : BitVec 7) (n : Nat) (gt : List Nat) (val : Nat → Nat) :
    y.writeDst (.v r) n (gt.map fun l => (l, val l)) = y.modLanes gt fun l u => u.setV r.toNat n (val l) := by
  rw [writeDst, modLanes, List.foldl_map]

theorem Group.writeDst_threads (y : Group) (d : Opnd) (n : Nat) {gt : List Nat} (val : Nat → Nat) (hgt : gt.Nodup)
    (l : Nat) : (y.writeDst d n (gt.map fun l => (l, val l))).threads[l]?
      = (y.threads[l]?).map fun u => { u with v := dstRegs gt d n val l u } := by
  cases d with
  | v r =>
    rw [writeDst_v, modLanes_threads _ _ _ _ hgt]
    by_cases hl : l ∈ gt <;> simp [hl, dstRegs, Thread.setV]
  | s r =>
    have hkeep : (y.writeDst (.s r) n (gt.map fun l => (l, val l))).threads = y.threads := by
      unfold writeDst; dsimp only; split <;> rfl
    simp [hkeep, dstRegs]
  | _ => simp [writeDst, dstRegs]

/-- A group that has moved on, and may have been let start, and whose destination is then written. -/
theorem writes_writeDst {c : Cur} {y m : Group} (hm : m = y.moved c ∨ m = { y.moved c with started := true })
    {gt : List Nat} (hgt : gt.Nodup) (d : Opnd) (n : Nat) (val : Nat → Nat) :
    Claim.Writes c gt d n val Claim.same y y (m.writeDst d n (gt.map fun l => (l, val l))) := by
  have hframe := m.writeDst_frame d n (gt.map fun l => (l, val l))
  refine ⟨fun l => (y.threads[l]?).elim [] (dstRegs gt d n val l), ⟨?bare, ?waits, ?prio, ?issued, ?started, ?threads⟩,
    ?vregs, ?sregs⟩
  case bare | waits | prio | issued => rw [hframe]; obtain rfl | rfl := hm <;> rfl
  case started =>
    rw [hframe]
    obtain rfl | rfl := hm
    · exact .inl rfl
    · exact .inr rfl
  case threads =>
    intro l
    rw [Group.writeDst_threads m d n val hgt, threads_of_moved hm]
    cases hu : y.threads[l]? with
    | none => rfl
    | some u => simp [hu, dstRegs_after, Claim.same]
  case vregs =>
    intro l u hu
    cases d with
    | v r =>
      by_cases hl : l ∈ gt
      · simpa [hu, dstRegs, hl] using regsSet_setRegs u.v r.toNat n (val l)
      · simp [hu, dstRegs, hl]
    | _ => simp [hu, dstRegs]
  case sregs =>
    have hs := s_of_moved hm
    cases d with
    | s r =>
      cases gt with
      | nil => exact hs
      | cons l gt => exact hs ▸ regsSet_setRegs m.s r.toNat n (val l)
    | _ => exact hs

/-! ### Integer forms with one destination -/

/-- A guard-true lane has a thread. -/
theorem thread_of_guardTrue {s : State} {c : Cur} {g : Guard} {y : Group} (hy : s.grp? c.blk c.grp = some y) {l : Nat}
    (hl : l ∈ s.guardTrue c g) : ∃ u, y.threads[l]? = some u := by
  have hguard := (List.mem_filter.mp hl).2
  rw [State.thr?_of_grp hy] at hguard
  cases hu : y.threads[l]? with
  | none => simp [hu] at hguard
  | some u => exact ⟨u, rfl⟩

/-- The values of listed lanes, each with its thread, of a function that sees nothing of a group's moving on. -/
theorem laneVals_of_moved {c : Cur} {y m : Group} (hm : m = y.moved c ∨ m = { y.moved c with started := true })
    {f : Group → Thread → Nat → Nat} (hf : ∀ l u, f m (Claim.after c l u) l = f y u l) {gt : List Nat}
    (hgt : ∀ l ∈ gt, ∃ u, y.threads[l]? = some u) :
    laneVals m gt f = gt.map fun l => (l, Claim.laneVal y f l) := by
  unfold laneVals
  induction gt with
  | nil => rfl
  | cons l gt ih =>
    obtain ⟨u, hu⟩ := hgt l List.mem_cons_self
    have hval : (m.threads[l]?).map (fun t => (l, f m t l)) = some (l, Claim.laneVal y f l) := by
      simp only [threads_of_moved hm, hu, Option.map_some, hf, Claim.laneVal]
    have htail := ih fun j hj => hgt j (List.mem_cons_of_mem l hj)
    simp only [List.filterMap_cons, hval, htail, List.map_cons]

namespace State

/-- Counting changes one counter, if any (05 R170). -/
theorem countInt_eq (s : State) (c : Cur) (gt : List Nat) :
    s.countInt c gt = s ∨ ∃ u, s.countInt c gt = s.bump 1 0 u 1 := by
  unfold countInt
  split
  · exact .inl rfl
  · exact .inr ⟨_, rfl⟩

theorem grp?_countInt (s : State) (c : Cur) (gt : List Nat) (b g : Nat) :
    (s.countInt c gt).grp? b g = s.grp? b g := by
  obtain h | ⟨u, h⟩ := s.countInt_eq c gt <;> rw [h]
  rfl

theorem modGrp_bump (s : State) (r i u n b g : Nat) (f : Group → Group) :
    (s.bump r i u n).modGrp b g f = (s.modGrp b g f).bump r i u n := by
  unfold modGrp modBlk
  rw [blk?_bump]
  split <;> rfl

end State

/-- No counter is beside an issue group. -/
theorem beside_bump {c : Cur} {s t : State} (h : Claim.Beside c s t) (r i u n : Nat) :
    Claim.Beside c s (t.bump r i u n) := h

/-- As `beside_advance_modGrp`, where the pipe counts the group that it accepts. -/
theorem beside_advance_countInt_modGrp (s : State) (c : Cur) (gt : List Nat) (F : Group → Group) :
    Claim.Beside c s (((s.advance c).countInt c gt).modGrp c.blk c.grp F).endTurn := by
  have hbeside := beside_advance_modGrp s c F
  obtain h | ⟨u, h⟩ := (s.advance c).countInt_eq c gt
  · rwa [h]
  · rw [h, State.modGrp_bump]
    exact beside_bump hbeside 1 0 u 1

/-- An integer form that nothing holds back is performed: each guard-true lane's destination takes the value of the
lane's sources as they were, and nothing else changes. -/
theorem intForm_performs {s : State} {c : Cur} {y : Group} {i : Instr} {g : Guard} (hi : Claim.Issues s c y i g)
    (d : Opnd) (n : Nat) {f : Group → Thread → Nat → Nat}
    (hf : ∀ m, m = y.moved c ∨ m = { y.moved c with started := true } →
      ∀ l u, f m (Claim.after c l u) l = f y u l) :
    ∃ t y', intForm i g d n s f = .next t ∧ t.grp? c.blk c.grp = some y'
      ∧ Claim.Writes c (s.guardTrue c g) d n (Claim.laneVal y f) Claim.same y y y' ∧ Claim.Beside c s t := by
  obtain ⟨hcur, hy, hbast, hready, hlanes⟩ := hi
  obtain ⟨m, hm, hmoved⟩ := advance_grp hy
  have hwrites := writes_writeDst hmoved (guardTrue_nodup s c g) d n (Claim.laneVal y f)
  rw [← laneVals_of_moved hmoved (hf m hmoved) fun l => thread_of_guardTrue hy] at hwrites
  have hcount : ((s.advance c).countInt c (s.guardTrue c g)).grp? c.blk c.grp = some m :=
    (State.grp?_countInt _ _ _ _ _).trans hm
  exact ⟨_, _, issue_performs hcur hy hbast hready hlanes fun _ _ => rfl, State.grp?_modGrp_self _ hcount, hwrites,
    beside_advance_countInt_modGrp s c _ _⟩

/-! ### ROT (05 R160) -/

/-- A rotation left by n of w bits: its low n bits are the high ones of x, the others the low ones. -/
theorem testBit_rotateLeft {w n k x : Nat} (hx : x < 2 ^ w) (hn : n < w) (hk : k < w) :
    (x * 2 ^ n % 2 ^ w + x / 2 ^ (w - n)).testBit k = x.testBit ((k + w - n) % w) := by
  have hw : 2 ^ w = 2 ^ n * 2 ^ (w - n) := by rw [← Nat.pow_add, Nat.add_sub_cancel' (Nat.le_of_lt hn)]
  have hlow : x / 2 ^ (w - n) < 2 ^ n := Nat.div_lt_of_lt_mul (by rwa [Nat.mul_comm, ← hw])
  rw [Nat.mul_comm x, hw, Nat.mul_mod_mul_left, Nat.testBit_two_pow_mul_add _ hlow]
  by_cases hkn : k < n
  · have hidx : (k + w - n) % w = k + (w - n) := by rw [Nat.mod_eq_of_lt (by omega)]; omega
    rw [if_pos hkn, hidx, Nat.testBit_div_two_pow]
  · have hidx : (k + w - n) % w = k - n := by
      rw [show k + w - n = k - n + w by omega, Nat.add_mod_right, Nat.mod_eq_of_lt (by omega)]
    rw [if_neg hkn, hidx, Nat.testBit_mod_two_pow, decide_eq_true (by omega), Bool.true_and]

/-- A rotation right by n is one left by what n leaves of w. -/
theorem rotate_right_index {w n k : Nat} (hn : n < w) : (k + w - (w - n) % w) % w = (k + n) % w := by
  obtain rfl | hpos := Nat.eq_zero_or_pos n
  · rw [Nat.sub_zero, Nat.mod_self, Nat.sub_zero, Nat.add_mod_right, Nat.add_zero]
  · rw [Nat.mod_eq_of_lt (show w - n < w by omega), show k + w - (w - n) = k + n by omega]

/-- The bits of a rotation of an element whose width divides the 2^32 amounts. -/
theorem testBit_rotVal {it : ITy} (hpos : 0 < it.width) (hdvd : it.width ∣ 2 ^ 32) (right : Bool) (a b : Nat) {k : Nat}
    (hk : k < it.width) : (rotVal it right a b).testBit k = a.testBit
      (if right then (k + b) % it.width else (k + it.width - b % it.width) % it.width) := by
  have hbit : ∀ n, n < it.width → (a % 2 ^ it.width * 2 ^ n % 2 ^ it.width + a % 2 ^ it.width / 2 ^ (it.width - n)).testBit k
      = a.testBit ((k + it.width - n) % it.width) := fun n hn => by
    rw [testBit_rotateLeft (Nat.mod_lt _ (Nat.two_pow_pos _)) hn hk, Nat.testBit_mod_two_pow,
      decide_eq_true (Nat.mod_lt _ hpos), Bool.true_and]
  have hamount : b % it.width < it.width := Nat.mod_lt _ hpos
  unfold rotVal
  dsimp only
  rw [Nat.mod_mod_of_dvd b hdvd]
  cases right with
  | true =>
    rw [if_pos rfl, if_pos rfl, hbit _ (Nat.mod_lt _ hpos), rotate_right_index hamount, Nat.add_mod_mod]
  | false => exact hbit _ hamount

/-- The value of a lane of ROT. -/
def rotLane (h : Hd) (it : ITy) (right : Bool) (a b : Opnd) (y : Group) (u : Thread) (l : Nat) : Nat :=
  rotVal it right (srcVal (itKind it) h.ext y u l a) (src32 h.ext y u l b)

theorem exec_rot (h : Hd) (it : ITy) (right : Bool) (d a b : Opnd) (s : State) :
    exec (.rot h it right d a b) s = intForm (.rot h it right d a b) h.g d it.regs s (rotLane h it right a b) := rfl

theorem rotLane_of_moved {c : Cur} {y m : Group} (hm : m = y.moved c ∨ m = { y.moved c with started := true })
    (h : Hd) (it : ITy) (right : Bool) (a b : Opnd) (l : Nat) (u : Thread) :
    rotLane h it right a b m (Claim.after c l u) l = rotLane h it right a b y u l := by
  simp only [rotLane, src32, srcVal_of_moved hm]

/-- Settles O58: ROT is an integer form, whose lanes take the rotation of their first source. -/
theorem rotRotates : Obligations.RotRotates := by
  unfold Obligations.RotRotates
  intro h it w right d a b s c y hw hi
  obtain ⟨t, y', ht, hgrp, hwrites, hbeside⟩ := intForm_performs hi d it.regs
    fun m hm l u => rotLane_of_moved hm h it right a b l u
  refine ⟨t, y', rotLane h it right a b, (exec_rot h it right d a b s).trans ht, hgrp, hwrites, hbeside,
    fun u l k hk => ?_⟩
  obtain ⟨rfl, rfl⟩ | ⟨rfl, rfl⟩ := hw
  · exact testBit_rotVal (it := .u32) (by decide) (by decide) right _ _ hk
  · exact testBit_rotVal (it := .u64) (by decide) (by decide) right _ _ hk

end Sys2Proof.Machine
end
